-- ==== Sys2Proof/Word.lean ====
section
/-! DEFINITION. The word types of the Trinas and the 32-lane vector (R4, R7, R50). -/

namespace Sys2Proof

/-- One byte of memory (R7). -/
abbrev Byte := BitVec 8
/-- A 32-bit scalar or lane word (R4). -/
abbrev Word := BitVec 32
/-- A 64-bit value: a register pair, a pointer, a PC (R7, R233). -/
abbrev DWord := BitVec 64
/-- The four words of a data group or of a descriptor (R244). -/
abbrev QWord := BitVec 128
/-- A mask over the 32 logical lanes: EXEC, OWN, a predicate (R45). -/
abbrev Mask := BitVec 32
/-- A value for each of the 32 lanes of a group. -/
abbrev Lanes (α : Type) := Vector α 32

namespace Lanes

/-- The vector whose lane i holds `f i`. -/
def gen {α : Type} (f : Fin 32 → α) : Lanes α := Vector.ofFn f

/-- The vector that holds one value in every lane. -/
def all {α : Type} (a : α) : Lanes α := gen fun _ => a

end Lanes

/-- Bit i of a mask. -/
def Mask.has (m : Mask) (i : Fin 32) : Bool := m.getLsbD i.val

/-- The mask of the lanes that satisfy `f`. -/
def Mask.gen (f : Fin 32 → Bool) : Mask :=
  BitVec.ofNat 32 ((List.finRange 32).foldl (fun acc i => if f i then acc + 2 ^ i.val else acc) 0)

/-- The lowest lane of a mask, if it has one. -/
def Mask.lowest (m : Mask) : Option (Fin 32) := (List.finRange 32).find? m.has

end Sys2Proof
end

