-- ==== Sys2Proof/Config.lean ====
section
/-! DEFINITION. What an implementation fixes, and the free values that the spec leaves open: constants without a body,
of which nothing can be proved but their type. Each is applied to a counter of State, or to the operands it depends on. -/

namespace Sys2Proof.Config

/-- Whether an access with a kept leaf walks afresh (R248), by the state's choice counter. -/
opaque walkAfresh : Nat → Bool

/-- The core cycles that pass with a step (R49, R115), by the state's choice counter. -/
opaque elapsed : Nat → Nat

/-- The code that a special function gives where R141 leaves it open, by the function's code, the width of the format that computes it and the
operand's code; it counts only when it lies within the bound. -/
opaque specialCode : Nat → Nat → Nat → Nat

/-- Whether a write of a team-shared register that is less than two cycles old has taken effect when another group reads (R35), by
the state's choice counter and the write's place among those that have not. -/
opaque sharedRead : Nat → Nat → Bool

/-- How many steps ahead of the one it is at a matrix loop fetches a sector of its operands, 0 for none (R184), by the state's choice
counter. -/
opaque fetchAhead : Nat → Nat

/-- Which of the active lanes that share a physical lane of a destination leaves its result there, where the results differ and
the spec does not say (R55, R56), by the state's choice counter and the physical lane. -/
opaque slotLane : Nat → Nat → Nat

/-- A word that the spec does not state, by the state's choice counter. -/
opaque freeWord : Nat → Word

/-- The node of the storage endpoint that the board's BOOTNODE[17:0] pins give (R380). -/
opaque bootNode : BitVec 18

/-- The sector of a launch's code that a core fetches ahead with a step, if it does (R71): the launch's place among the live ones, the core,
the sector's number; by the state's choice counter. -/
opaque prefetch : Nat → Option (Nat × Nat × Nat)

/-- Whether a fetch takes a sector as it was fetched ahead rather than as it stands (R71), by the state's choice counter and the sector's
number. -/
opaque fetchedAhead : Nat → Nat → Bool

/-- The root-key digest fused into the IOD (R382). -/
opaque rootKey : List Byte

/-- The minimum rollback index fused at manufacture (R382). -/
opaque fusedRollback : Nat

/-- Whether verified firmware raises the fused minimum to its own rollback index (R382), by the state's choice counter. -/
opaque raisesRollback : Nat → Bool

end Sys2Proof.Config
end

