-- ==== Sys2Proof/Machine/Bits.lean ====
section
/-! DEFINITION. Bit, byte and count helpers: little-endian bytes (R7), bit counts (R97), the CRCs of R250 and R359. -/

namespace Sys2Proof.Machine

/-- The number of a little-endian byte string (R7). -/
def leNat : List Byte → Nat
  | [] => 0
  | b :: bs => b.toNat + 256 * leNat bs

/-- The n lowest bytes of a number, lowest address first (R7). -/
def natLe : Nat → Nat → List Byte
  | 0, _ => []
  | n + 1, v => BitVec.ofNat 8 v :: natLe n (v / 256)

/-- Bits [hi:lo] of a number. -/
def bits (v hi lo : Nat) : Nat := v / 2 ^ lo % 2 ^ (hi + 1 - lo)

/-- Bit i of a number. -/
def bit (v i : Nat) : Bool := v / 2 ^ i % 2 == 1

/-- The signed value of the w low bits of a number. -/
def signed (w v : Nat) : Int :=
  let u := v % 2 ^ w
  if w ≠ 0 ∧ u ≥ 2 ^ (w - 1) then (u : Int) - (2 ^ w : Nat) else u

/-- The w low bits of an integer in two's complement. -/
def wrap (w : Nat) (v : Int) : Nat := (v % (2 ^ w : Nat)).toNat

/-- The number of ones among the w low bits. -/
def popcount (w v : Nat) : Nat := ((List.range w).filter (bit v)).length

/-- Leading zeros of a w-bit value, w when it is zero. -/
def clz (w v : Nat) : Nat := ((List.range w).find? fun i => bit v (w - 1 - i)).getD w

/-- Trailing zeros of a w-bit value, w when it is zero. -/
def ctz (w v : Nat) : Nat := ((List.range w).find? (bit v)).getD w

/-- A w-bit value with bit j moved to bit w - 1 - j. -/
def brev (w v : Nat) : Nat := (List.range w).foldl (fun acc i => if bit v i then acc + 2 ^ (w - 1 - i) else acc) 0

/-- The words of a number, low word first. -/
def words (n v : Nat) : List Word := (List.range n).map fun k => BitVec.ofNat 32 (v / 2 ^ (32 * k))

/-- The number of a list of words, low word first. -/
def ofWords : List Word → Nat
  | [] => 0
  | w :: ws => w.toNat + 2 ^ 32 * ofWords ws

/-- One byte into a CRC of w bits, most significant bit first (R250). -/
def crcByte (w poly : Nat) (c : Nat) (b : Byte) : Nat :=
  (List.range 8).foldl (fun c _ =>
    let t := c * 2
    if t ≥ 2 ^ w then (t - 2 ^ w) ^^^ poly else t) (c ^^^ (b.toNat * 2 ^ (w - 8)))

/-- The CRC-16 of R250. -/
def crc16 (bs : List Byte) : Nat := bs.foldl (crcByte 16 0x8BB7) 0

/-- The CRC-64 of R359. -/
def crc64 (bs : List Byte) : Nat := bs.foldl (crcByte 64 0x42F0E1EBA9EA3693) 0

/-- A keyed list with the entry of a key replaced, or added at the end. -/
def upsert {α : Type} (same : α → Bool) (a : α) : List α → List α
  | [] => [a]
  | x :: xs => if same x then a :: xs else x :: upsert same a xs

/-- The entry of a vector at a number, `d` outside it. -/
def vget {α : Type} {n : Nat} (v : Vector α n) (i : Nat) (d : α) : α := if h : i < n then v[i] else d

/-- A vector with the entry at a number replaced. -/
def vset {α : Type} {n : Nat} (v : Vector α n) (i : Nat) (a : α) : Vector α n := Vector.ofFn fun j => if j.val = i then a else v[j]

/-- A vector with the entry at a number changed by a function. -/
def vmod {α : Type} {n : Nat} (v : Vector α n) (i : Nat) (f : α → α) : Vector α n :=
  Vector.ofFn fun j => if j.val = i then f v[j] else v[j]

/-- The union of two lists of identifiers. -/
def unite (a b : List Nat) : List Nat := a ++ b.filter fun x => !a.contains x

end Sys2Proof.Machine
end

