-- ==== Sys2Proof/Syntax.lean ====
section
/-! DEFINITION. The instructions of the Trinas: one constructor of `Instr` for every row of spec/opcode_table.json,
with the operand types of the scalar, lane and event rows (04_encodings_and_opcode_maps.md). -/

namespace Sys2Proof

/-- A 5-bit scalar register field, s0 to s31 (R75). -/
abbrev SReg := BitVec 5

/-- The sub-fields of `satom` (R79); their legality is R102. -/
structure SatomFields where
  size  : Bool
  order : BitVec 3
  scope : BitVec 3
  aop   : BitVec 4
  deriving DecidableEq, Repr

/-- The control registers that the row MTC writes: RMODE 0x001, FTZM 0x002, LBASE 0x003 (R49). -/
inductive MtcReg where
  | rmode | ftzm | lbase
  deriving DecidableEq, Repr

/-- The lane register types of R84, in the order of their codes 0x00 to 0x13. -/
inductive LType where
  | i32 | n32 | f32 | f16x2 | bf16x2 | i16x2 | n16x2 | i8x4 | n8x4 | e4m3x4
  | e5m2x4 | f64 | i64 | n64 | e2m1x8 | i4x8 | n4x8 | e3m2x16 | e2m3x16 | b32
  deriving DecidableEq, Repr

/-- The rnd field of R84; code 111 is illegal. -/
inductive RndField where
  | rmode | rne | rz | rdn | rup | rna | stoch
  deriving DecidableEq, Repr

/-- The sat field of R84; code 11 is illegal. -/
inductive SatField where
  | rmode | none | sat
  deriving DecidableEq, Repr

/-- The fields that every lane instruction carries in bits [95:73] (R81). -/
structure LaneHead where
  guard : BitVec 3
  gneg  : Bool
  all   : Bool
  fs    : Bool
  d     : BitVec 7
  deriving DecidableEq, Repr

/-- The LA format (R84). -/
structure LA where
  h     : LaneHead
  a     : BitVec 7
  b     : BitVec 7
  c     : BitVec 7
  ty    : LType
  rnd   : RndField
  sat   : SatField
  aneg  : Bool
  aabs  : Bool
  bneg  : Bool
  cneg  : Bool
  imm   : Bool
  fmod  : BitVec 5
  imm32 : Word
  deriving DecidableEq, Repr

/-- The width codes of the LM format (R85, R268). -/
inductive Width where
  | w8 | w16 | w32 | w64 | w128 | sector
  deriving DecidableEq, Repr

/-- The scopes that a scope field code names, codes 0 to 5 (R2). -/
inductive Scope where
  | group | team | cluster | die | device | system
  deriving DecidableEq, Repr

/-- The order codes of R85. -/
inductive Order where
  | plain | relaxed | acquire | release | acqRel | seqCst
  deriving DecidableEq, Repr

/-- The hint codes of R85. -/
inductive Hint where
  | dflt | streaming | keepL1 | bypassL1 | keepL2
  deriving DecidableEq, Repr

/-- The LM format (R85). -/
structure LM where
  h     : LaneHead
  a     : BitVec 7
  b     : BitVec 7
  c     : BitVec 7
  bd    : BitVec 4
  width : Width
  scope : Scope
  order : Order
  hint  : Hint
  fmod  : BitVec 4
  off   : Word
  deriving DecidableEq, Repr

/-- The type field of the LX format (R87). -/
inductive XType where
  | f32 | f16x2 | bf16x2 | i32
  deriving DecidableEq, Repr

/-- The token codes 0 to 14 of the LX format (R87); code 15 is the end. -/
inductive Tok where
  | a | b | c | d | add | sub | mul | min | max | fma | neg | abs | dup | swap | sat01
  deriving DecidableEq, Repr

/-- The LX format (R87): the tokens before the first end. -/
structure LX where
  h    : LaneHead
  a    : BitVec 7
  b    : BitVec 7
  c    : BitVec 7
  ty   : XType
  toks : List Tok
  deriving DecidableEq, Repr

/-- Names a split number of a group of a team: the issuer of an instruction, or the owner of a clause queue (R15, R23). -/
structure SplitRef where
  team  : Nat
  group : Nat
  split : Fin 4
  deriving DecidableEq, Repr

/-- An access of the host over PCIe (R266, R377): a read or write of the 64 GiB window on GDDR7 data that WINBASE places (R376), or a
write of the host's own memory beyond the IOD, by the address that the device gives that memory. -/
inductive HostAccess where
  | read  (off len : Nat)
  | write (off : Nat) (data : List Byte)
  | own   (pa : Nat) (data : List Byte)
  deriving DecidableEq, Repr

/-- What a remote device asks of this one (R368): a sector of a copy, under an ASID. -/
inductive FabricRequest where
  | read  (src asid : Nat) (addr : DWord) (efmt : Nat)
  | write (src asid : Nat) (addr : DWord) (efmt : Nat) (data : List (Option Byte))
  deriving DecidableEq, Repr

/-- What the fabric brings to a copy with a remote endpoint (R299, R368): nothing; the sectors that it asked for, from a 2:4 page or not, with
the shift bytes of the blocks asked for; the end of its last request, with the cause that ended it on the remote side or 0. -/
inductive RemoteInput where
  | none
  | data (sparse : Bool) (bytes : List Byte)
  | done (cause : Nat)
  deriving DecidableEq, Repr

/-- A chunk that a siphon receives (R364, R372): the die of the siphon, its collective's ASID, BUF, KIND, COUNT, EFMT and N, its sender's rank,
whether it belongs to the all-gather phase, the chunk index, its bytes and its contributor mask. -/
structure ChunkMsg where
  die    : Nat
  asid   : Nat
  buf    : DWord
  kind   : Nat
  count  : Nat
  efmt   : Nat
  n      : Nat
  gather : Bool
  chunk  : Nat
  data   : List Byte
  mask   : List Nat
  deriving DecidableEq, Repr

/-- The siphon of a die, for an ASID (R372). -/
structure SiphonAt where
  die  : Nat
  asid : Nat
  deriving DecidableEq, Repr

/-- A unit that keeps a suspicion score (R356). -/
inductive HwUnit where
  | core (n : Nat)
  | well (n : Nat)
  | pump (n : Nat)
  deriving DecidableEq, Repr

/-- What an error that could not be corrected strikes, with the work that its fault names (R67, R70, R186, R232, R347): a register of a
group, a team's scratchpad or tiles, the operands of a matrix loop with the first byte struck, a memory operation's sector, a split's
next scalar word, the clause that a split number is to fetch. -/
inductive SoftTarget where
  | none
  | reg     (team group : Nat) (code : BitVec 7)
  | scratch (team group : Nat)
  | loop    (id : Nat) (addr : DWord)
  | sector  (op : Nat)
  | word    (r : SplitRef)
  | clause  (r : SplitRef)
  deriving DecidableEq, Repr

/-- A hardware error at a unit (R251, R356): corrected; a bit of an operation's sector corrupted in transit, to be found when its check word
is compared; a fetched sector of a split's next scalar word, or of a clause, whose check word has failed, from its home too; an error that
could not be corrected. -/
inductive SoftErr where
  | corrected     (u : HwUnit)
  | flip          (u : HwUnit) (op bit : Nat)
  | badWord       (u : HwUnit) (r : SplitRef)
  | badClause     (u : HwUnit) (r : SplitRef)
  | uncorrectable (u : HwUnit) (t : SoftTarget)
  deriving DecidableEq, Repr

/-- Why a scalar fetch fails (R70): XN, a walk that ends not present or malformed, a bad check word. -/
inductive FetchFault where
  | xn | notPresent | malformed | checkWord
  deriving DecidableEq, Repr

/-- What the memory training, the fabric manager and the self-test give at bring-up (R366, R367, R383); the routing table names for each
destination node its set of links. -/
structure BringUpInput where
  memoryOk : Bool
  node     : Nat
  peers    : List (Nat × List Nat)
  recovery : Nat
  testOk   : Bool
  deriving DecidableEq, Repr

/-- The instructions: one constructor per row of spec/opcode_table.json. -/
inductive Instr where
  -- scalar instructions: 32-bit words (R74 to R80)
  /-- R97. Scalar register add: sd receives sa + sb modulo 2^32. -/
  | add (sd sa sb : SReg)
  /-- R97. Scalar register subtract: sd receives sa - sb modulo 2^32. -/
  | sub (sd sa sb : SReg)
  /-- R97. Scalar multiply: sd receives the low 32 bits of the product. -/
  | mul (sd sa sb : SReg)
  /-- R97. Scalar multiply high: sd receives the high 32 bits of the signed product. -/
  | mulhi (sd sa sb : SReg)
  /-- R97. Scalar multiply high: sd receives the high 32 bits of the unsigned product. -/
  | mulhu (sd sa sb : SReg)
  /-- R97. Scalar bitwise AND of two registers. -/
  | and (sd sa sb : SReg)
  /-- R97. Scalar bitwise OR of two registers. -/
  | or (sd sa sb : SReg)
  /-- R97. Scalar bitwise XOR of two registers. -/
  | xor (sd sa sb : SReg)
  /-- R97. Scalar shift left by sb[4:0]. -/
  | shl (sd sa sb : SReg)
  /-- R97. Scalar logical shift right by sb[4:0]. -/
  | shr (sd sa sb : SReg)
  /-- R97. Scalar arithmetic shift right by sb[4:0]. -/
  | sra (sd sa sb : SReg)
  /-- R97. Scalar signed minimum. -/
  | min (sd sa sb : SReg)
  /-- R97. Scalar signed maximum. -/
  | max (sd sa sb : SReg)
  /-- R97. Scalar unsigned minimum. -/
  | minu (sd sa sb : SReg)
  /-- R97. Scalar unsigned maximum. -/
  | maxu (sd sa sb : SReg)
  /-- R97. Scalar signed set-less-than. -/
  | slt (sd sa sb : SReg)
  /-- R97. Scalar unsigned set-less-than. -/
  | sltu (sd sa sb : SReg)
  /-- R97. Scalar set-if-equal. -/
  | seq (sd sa sb : SReg)
  /-- R97. Scalar unsigned divide, all ones on division by zero. -/
  | divu (sd sa sb : SReg)
  /-- R97. Scalar unsigned remainder, A on division by zero. -/
  | remu (sd sa sb : SReg)
  /-- R97. Scalar population count of sa. -/
  | popc (sd sa : SReg)
  /-- R97. Scalar count of leading zeros of sa. -/
  | clz (sd sa : SReg)
  /-- R97. Scalar count of trailing zeros of sa. -/
  | ctz (sd sa : SReg)
  /-- R97. Scalar bit reversal of sa. -/
  | brev (sd sa : SReg)
  /-- R98. Scalar add of a sign-extended immediate. -/
  | addi (sd sa : SReg) (imm : BitVec 16)
  /-- R98. Scalar AND with a zero-extended immediate. -/
  | andi (sd sa : SReg) (imm : BitVec 16)
  /-- R98. Scalar OR with a zero-extended immediate. -/
  | ori (sd sa : SReg) (imm : BitVec 16)
  /-- R98. Scalar XOR with a zero-extended immediate. -/
  | xori (sd sa : SReg) (imm : BitVec 16)
  /-- R98. Scalar shift left by an immediate count. -/
  | shli (sd sa : SReg) (sh : BitVec 5)
  /-- R98. Scalar logical shift right by an immediate count. -/
  | shri (sd sa : SReg) (sh : BitVec 5)
  /-- R98. Scalar arithmetic shift right by an immediate count. -/
  | srai (sd sa : SReg) (sh : BitVec 5)
  /-- R98. Scalar signed compare with a sign-extended immediate. -/
  | slti (sd sa : SReg) (imm : BitVec 16)
  /-- R98. Scalar load of an immediate into the upper half. -/
  | lui (sd : SReg) (imm : BitVec 16)
  /-- R98. Scalar multiply by a sign-extended immediate. -/
  | muli (sd sa : SReg) (imm : BitVec 16)
  /-- R99. Scalar 32-bit load from pair address plus offset, checked before the next instruction. -/
  | sld (sd sa : SReg) (imm : BitVec 16)
  /-- R99. Scalar 64-bit load into an even register pair. -/
  | sld2 (sd sa : SReg) (imm : BitVec 16)
  /-- R99. Scalar 32-bit store. -/
  | sst (sd sa : SReg) (imm : BitVec 16)
  /-- R99. Scalar 64-bit store from an even register pair. -/
  | sst2 (sd sa : SReg) (imm : BitVec 16)
  /-- R102. Scalar atomic load, store or read-modify-write of 32 or 64 bits with order and scope. -/
  | satom (sd sa sb : SReg) (f : SatomFields)
  /-- R105. Unconditional branch by a signed word offset. -/
  | b (off : BitVec 21)
  /-- R105. Branch when a scalar register is zero. -/
  | bz (c : SReg) (off : BitVec 21)
  /-- R105. Branch when a scalar register is non-zero. -/
  | bnz (c : SReg) (off : BitVec 21)
  /-- R105. Branch when any active lane has the predicate set. -/
  | bany (p : BitVec 3) (neg : Bool) (off : BitVec 21)
  /-- R105. Branch when every active lane has the predicate set. -/
  | ball (p : BitVec 3) (neg : Bool) (off : BitVec 21)
  /-- R105. Branch when no active lane has the predicate set. -/
  | bnone (p : BitVec 3) (neg : Bool) (off : BitVec 21)
  /-- R17. Divide the split by predicate into a new split or a deferred entry. -/
  | split (p : BitVec 3) (neg : Bool) (off : BitVec 21)
  /-- R107. Write the return address to the split's s31 and branch. -/
  | call (off : BitVec 21)
  /-- R107. Jump to the address in the split's s31. -/
  | ret
  /-- R107. Jump to the address in a scalar register. -/
  | bx (sa : SReg)
  /-- R108. Fix the clause mask, capture s16-s31, RMODE and FTZM and enqueue the clause by index. -/
  | run (p : BitVec 3) (neg : Bool) (index : BitVec 21)
  /-- R108. Enqueue a clause whose index is held in a scalar register. -/
  | runx (sa : SReg) (p : BitVec 3) (neg : Bool)
  /-- R27. Hold the split until the split's clauses naming the masked flags have issued and the flags are idle. -/
  | waitk (mask : BitVec 12)
  /-- R111. Write RMODE, FTZM or LBASE, taking effect at the next run. -/
  | mtc (sa : SReg) (r : MtcReg)
  /-- R16. Write EXEC, ANDed with OWN. -/
  | mtcExec (sa : SReg)
  /-- R113. Write a tile configuration after waiting for in-flight loops naming the tile. -/
  | mtcTcfg (sa : SReg) (n : BitVec 4)
  /-- R114. Wait for the split's uses of bdn, read a 128-bit descriptor from memory and validate it. -/
  | mtcBd (sa : SReg) (n : BitVec 4)
  /-- R59. Set a queue's depth, or raise QUEUE_CONFIG. -/
  | mtcQdep (sa : SReg) (n : BitVec 4)
  /-- R35. Write a team-shared register g0-g7. -/
  | mtcG (sa : SReg) (n : BitVec 3)
  /-- R113. Send new pump and siphon link weights to the IOD for the context's ASID. -/
  | mtcFabw (sa : SReg)
  /-- R111. Read a control register into a scalar register. -/
  | mfc (sd : SReg) (r : BitVec 12)
  /-- R298. Enter a pump copy command whose shape record is read later into an engine queue. -/
  | cpy (sd sa sb : SReg) (bar : Bool) (q : BitVec 3)
  /-- R293. Read and validate the shape record at issue, then enter the copy into an engine queue. -/
  | cpys (sd sa sb : SReg) (bar : Bool) (q : BitVec 3)
  /-- R180. Start a dense matrix loop on scratchpad operands. -/
  | mloop (sd sa : SReg) (z : Bool) (tc ta : BitVec 4)
  /-- R157. Start a summation-by-parts matrix loop on scratchpad operands. -/
  | mloopSbp (sd sa : SReg) (z : Bool) (tc ta : BitVec 4)
  /-- R180. Start a matrix loop whose operand blocks are fetched from memory at a base pair. -/
  | mloopDirect (sd sa sb : SReg) (z : Bool) (tc ta : BitVec 4)
  /-- R362. Enter a siphon collective command into an engine queue. -/
  | siph (sd sa : SReg) (q : BitVec 3)
  /-- R327. Read a launch record from memory, check it and run it as a child launch. -/
  | lnch (sd sa : SReg) (atEnd : Bool)
  /-- R287. Arrive at a barrier without waiting. -/
  | barMark (sd sa : SReg)
  /-- R287. Wait until the barrier generation differs from a given one. -/
  | barHold (sd sa sb : SReg)
  /-- R285. Arrive at a barrier and wait for its generation to be left. -/
  | barJoin (sd sa : SReg)
  /-- R287. Add a byte count to a barrier object's transaction counter. -/
  | barOwe (sd sa sb : SReg)
  /-- R287. Arrive at a barrier object as a given number of arrivals. -/
  | barMarkn (sd sa sb : SReg)
  /-- R290. Order the split's memory operations by kind and scope. -/
  | fence (lanes : Bool) (kind : BitVec 2) (scope : BitVec 3)
  /-- R292. Enter a join mark into each named engine queue. -/
  | qfence (mask : BitVec 8)
  /-- R326. Take an entry from the stage's queue into scratchpad. -/
  | stepq (sd sb : SReg) (nb : Bool)
  /-- R326. Push a scratchpad entry into the next stage's queue. -/
  | stepp (sd sb : SReg) (nb : Bool)
  /-- R116. Raise USER_TRAP with a user code. -/
  | trap (code : BitVec 16)
  /-- R28. Wait for the split's clauses, stores and engine commands, then retire its lanes. -/
  | exit
  /-- R19. Give up the issue opportunity or rotate to a deferred entry. -/
  | yield
  /-- R116. Scalar no operation. -/
  | nop
  -- lane instructions: 96-bit words of a clause (R81 to R89)
  /-- R128. Lane integer add. -/
  | iadd (f : LA)
  /-- R128. Lane integer subtract. -/
  | isub (f : LA)
  /-- R128. Lane integer multiply, low bits. -/
  | imul (f : LA)
  /-- R128. Lane integer multiply, high bits. -/
  | imulhi (f : LA)
  /-- R128. Lane integer multiply-add. -/
  | imad (f : LA)
  /-- R128. Lane integer minimum. -/
  | imin (f : LA)
  /-- R128. Lane integer maximum. -/
  | imax (f : LA)
  /-- R128. Lane integer absolute value. -/
  | iabs (f : LA)
  /-- R128. Lane bitwise AND. -/
  | laneAnd (f : LA)
  /-- R128. Lane bitwise OR. -/
  | laneOr (f : LA)
  /-- R128. Lane bitwise XOR. -/
  | laneXor (f : LA)
  /-- R128. Lane bitwise NOT. -/
  | not (f : LA)
  /-- R128. Lane shift left per element. -/
  | laneShl (f : LA)
  /-- R128. Lane logical shift right per element. -/
  | laneShr (f : LA)
  /-- R128. Lane arithmetic shift right per element. -/
  | laneSra (f : LA)
  /-- R128. Lane rotate left. -/
  | rot (f : LA)
  /-- R128. Lane population count. -/
  | lanePopc (f : LA)
  /-- R128. Lane count of leading zeros. -/
  | laneClz (f : LA)
  /-- R128. Lane bit reversal. -/
  | laneBrev (f : LA)
  /-- R129. Lane bit-field extract. -/
  | bfe (f : LA)
  /-- R129. Lane bit-field insert. -/
  | bfi (f : LA)
  /-- R129. Lane add with carry-in, giving the sum or the carry. -/
  | iaddc (f : LA)
  /-- R129. Lane sum of absolute differences. -/
  | isad (f : LA)
  /-- R129. Lane address computation a + (b << shift). -/
  | lea (f : LA)
  /-- R129. Lane integer divide, truncated. -/
  | idiv (f : LA)
  /-- R129. Lane integer remainder. -/
  | irem (f : LA)
  /-- R128. Lane move of a register or immediate. -/
  | mov (f : LA)
  /-- R128. Lane integer clamp. -/
  | iclamp (f : LA)
  /-- R130. Lane floating-point add, rounded once. -/
  | fadd (f : LA)
  /-- R130. Lane floating-point subtract. -/
  | fsub (f : LA)
  /-- R130. Lane floating-point multiply. -/
  | fmul (f : LA)
  /-- R130. Lane fused multiply-add, rounded once. -/
  | ffma (f : LA)
  /-- R131. Lane IEEE minimum. -/
  | fmin (f : LA)
  /-- R131. Lane IEEE maximum. -/
  | fmax (f : LA)
  /-- R131. Lane minimumNumber or maximumNumber. -/
  | fminnum (f : LA)
  /-- R130. Lane round to an integral value. -/
  | frnd (f : LA)
  /-- R130. Lane multiply by a power of two. -/
  | fscale (f : LA)
  /-- R131. Lane classification mask of a float. -/
  | fclass (f : LA)
  /-- R132. Lane two-element dot product with accumulate. -/
  | fdot2 (f : LA)
  /-- R132. Lane four-element dot product with accumulate. -/
  | fdot4 (f : LA)
  /-- R131. Lane median of three. -/
  | fmid (f : LA)
  /-- R131. Lane fractional part. -/
  | ffract (f : LA)
  /-- R130. Lane magnitude of a with the sign of b. -/
  | fcopysign (f : LA)
  /-- R134. Lane format conversion of one element group. -/
  | cvt (f : LA)
  /-- R135. Lane conversion scaled by a block shift. -/
  | cvtb (f : LA)
  /-- R133. Lane conversion packing two sources into part of the destination. -/
  | pack (f : LA)
  /-- R198. Lane exact unpacking of 4-bit or FP6 elements into 8-bit forms. -/
  | unpk (f : LA)
  /-- R136. Lane integer compare into a predicate. -/
  | icmp (f : LA)
  /-- R136. Lane float compare into a predicate. -/
  | fcmp (f : LA)
  /-- R137. Lane select by predicate. -/
  | sel (f : LA)
  /-- R138. Predicate logic or constant. -/
  | pset (f : LA)
  /-- R138. Move between predicate and general register. -/
  | pmov (f : LA)
  /-- R139. Ballot or vote over the effective mask. -/
  | vote (f : LA)
  /-- R146. Lane map edit by an index register. -/
  | shfl (f : LA)
  /-- R146. Lane map edit by an immediate selector. -/
  | shfli (f : LA)
  /-- R148. Mix four registers by XOR lane exchange, moving data. -/
  | qmix (f : LA)
  /-- R148. Transpose 4x4 word blocks across four registers. -/
  | xpose (f : LA)
  /-- R146. Lane map edit broadcasting one lane. -/
  | bcast (f : LA)
  /-- R146. Lane map edit ordering set lanes before clear ones. -/
  | compact (f : LA)
  /-- R147. Write a register's map entries as values. -/
  | mapget (f : LA)
  /-- R146. Set a map from an index register without composing. -/
  | mapset (f : LA)
  /-- R147. Materialise a register under the identity map. -/
  | mat (f : LA)
  /-- R190. Map edit by an SBP record's permutation. -/
  | permld (f : LA)
  /-- R192. Exact prefix or suffix sums into a wide register. -/
  | scan (f : LA)
  /-- R193. Summation-by-parts boundary products into a wide register. -/
  | dacc (f : LA)
  /-- R194. Round a wide register once after shift and band scale. -/
  | wrnd (f : LA)
  /-- R195. Clear a wide register with a given exponent base. -/
  | wclr (f : LA)
  /-- R195. Exact add or subtract of wide registers. -/
  | wadd (f : LA)
  /-- R195. Copy wide registers or move words of F, E and flags. -/
  | wmov (f : LA)
  /-- R273. Lane load through flat addresses. -/
  | ld (f : LM)
  /-- R273. Lane store through flat addresses. -/
  | st (f : LM)
  /-- R246. Lane load through a buffer descriptor. -/
  | ldb (f : LM)
  /-- R246. Lane store through a buffer descriptor. -/
  | stb (f : LM)
  /-- R273. Lane load from scratchpad. -/
  | lds (f : LM)
  /-- R273. Lane store to scratchpad. -/
  | sts (f : LM)
  /-- R267. Lane load performed at a Cistern well. -/
  | ldw (f : LM)
  /-- R267. Lane store performed at a Cistern well. -/
  | stw (f : LM)
  /-- R197. Load transposed 16-row blocks from scratchpad into lanes. -/
  | ldt (f : LM)
  /-- R275. Lane atomic on flat addresses. -/
  | atom (f : LM)
  /-- R275. Lane atomic on scratchpad. -/
  | atoms (f : LM)
  /-- R275. Lane atomic at a well, including xadd. -/
  | atomw (f : LM)
  /-- R279. Mark lanes whose index repeats a lower active lane's. -/
  | conf (f : LM)
  /-- R280. Read granule memory tags. -/
  | tagld (f : LM)
  /-- R280. Write granule memory tags. -/
  | tagst (f : LM)
  /-- R281. Prefetch lines into L2 or L1. -/
  | pref (f : LM)
  /-- R282. Read a queue's occupancy or free room. -/
  | qcnt (f : LM)
  /-- R140. Lane reciprocal. -/
  | rcp (f : LA)
  /-- R140. Lane reciprocal square root. -/
  | rsq (f : LA)
  /-- R140. Lane square root. -/
  | sqrt (f : LA)
  /-- R140. Lane base-2 exponential. -/
  | exp2 (f : LA)
  /-- R140. Lane base-2 logarithm. -/
  | log2 (f : LA)
  /-- R140. Lane sine. -/
  | sin (f : LA)
  /-- R140. Lane cosine. -/
  | cos (f : LA)
  /-- R140. Lane hyperbolic tangent. -/
  | tanh (f : LA)
  /-- R140. Lane error function. -/
  | erf (f : LA)
  /-- R144. Evaluate a token expression on a four-deep stack per lane. -/
  | expr (f : LX)
  /-- R224. Clamp to an interval, making a bound for the bounds pass. -/
  | ivmk (f : LA)
  /-- R224. Least value over the effective mask. -/
  | ivlo (f : LA)
  /-- R224. Greatest value over the effective mask. -/
  | ivhi (f : LA)
  /-- R224. Test each element against an interval into a predicate. -/
  | ivtest (f : LA)
  /-- R149. Lane no operation holding lane issue for extra cycles. -/
  | nopl (f : LA)
  /-- R149. Raise USER_TRAP from a lane clause. -/
  | ltrap (f : LA)
  /-- R149. Write the core cycle count or the lane generator's next draw. -/
  | lclk (f : LA)
  -- steps of the device that no instruction word names (95_what_each_step_holds.md)
  /-- R72. A clause reaching the head of its split's queue is fetched and decoded. -/
  | clauseFetch (r : SplitRef)
  /-- R23. Once every flag of its wait mask is idle, the clause begins issuing its lane instructions. -/
  | clauseIssue (r : SplitRef)
  /-- R26. A long-latency operation completes, delivering its result and idling its flag when it is the last. -/
  | operationComplete (op : Nat)
  /-- R328. A queued team is dispatched once its core has room for it. -/
  | teamDispatch (team : Nat)
  /-- R329. An idle core sends a steal request to a chosen victim. -/
  | stealRequest (thief victim : Nat)
  /-- R329. A victim's queue engine answers a steal request with a team or failure. -/
  | stealAnswer (thief : Nat)
  /-- R206. A pass group of the bounds pass is placed and started at its level. -/
  | passGroupStart (team : Nat)
  /-- R207. A pass group reaching 65,536 scalar instructions ends with its active lanes UNDECIDED. -/
  | passInstructionLimit (team group : Nat)
  /-- R311. The scheduler reads a stage counter after a write to it, making the stage eligible at its threshold. -/
  | stageCounterRead (launch stage : Nat)
  /-- R396. Every 65,536 counter cycles the scheduler reads each unmet stage counter. -/
  | stageCounterPoll (launch stage : Nat)
  /-- R323. A team blocked on its stage queues is saved so another stage's team can run. -/
  | stageTeamSave (team : Nat)
  /-- R377. A host write of KICK submits the launch record in a submission slot. -/
  | kick (asid : Nat) (value : DWord)
  /-- R377. After 256 cycles the front end rereads sector 15 until SEQ matches or reads run out. -/
  | submissionSeqReread (asid : Nat)
  /-- R376. A host write to a BAR0 register without a row of its own, refused with STAT[0] when not allowed. -/
  | hostRegisterWrite (offset : Nat) (value : DWord)
  /-- R266. A host read or write of device memory over PCIe enters at the home. -/
  | hostMemoryAccess (acc : HostAccess)
  /-- R248. Host command KIND 1 invalidates TLB leaves of an ASID and range. -/
  | invalidate (asid : Nat)
  /-- R248. Once no TLB holds a covered leaf and their accesses are performed, the completion is written. -/
  | invalidateCompletion (asid : Nat)
  /-- R332. Host command KIND 2 takes the ASID's teams off the named clusters by drain, save or flush. -/
  | preEmpt (asid : Nat)
  /-- R335. Host command KIND 3 cancels a launch or every launch of the ASID. -/
  | cancel (asid : Nat)
  /-- R345. Host command KIND 4 resumes a halted context. -/
  | resumeContext (asid : Nat)
  /-- R344. Host command KIND 5 with resume replays or continues a held fault's work. -/
  | faultResume (asid : Nat)
  /-- R344. Host command KIND 5 with abandon sends a held fault to the launch's policy. -/
  | faultAbandon (asid : Nat)
  /-- R331. Once every flag is idle, a team's context is written to its context area. -/
  | contextSave (team : Nat)
  /-- R332. A drained team not ended L cycles past its estimate is saved. -/
  | drainOverrun (team : Nat)
  /-- R353. A saved team is read back and checked from its context area when it fits a core. -/
  | contextRestore (team core : Nat)
  /-- R340. A trap record is written into the ASID's fault ring once the ring has room. -/
  | trapRecordWrite (asid : Nat)
  /-- R354. A group's watchdog count reaching WDLIM x 1,024 raises WATCHDOG. -/
  | watchdog (team group : Nat)
  /-- R355. A peer lost or 2^26 cycles in RECOVERING end the group's remote copies and raise REMOTE_LOST. -/
  | remoteLost (team group : Nat) (node : Nat)
  /-- R367. A route's last link failing puts its peer in RECOVERING. -/
  | linkFailure (node : Nat)
  /-- R367. A working route returning puts the peer back to UP. -/
  | linkRecovery (node : Nat)
  /-- R367. RECOVERING lasting past the recovery limit makes the peer LOST. -/
  | fabricRecoveryLimit (node : Nat)
  /-- R367. A device is told that a node sharing its route is lost, or management declares it. -/
  | peerLossNotice (node : Nat)
  /-- R368. A remote device's request arrives and is translated under the same ASID. -/
  | fabricRequest (req : FabricRequest)
  /-- R298. A pump reads a destination sector's source elements and writes the sector. -/
  | pumpSector (cmd : Nat) (remote : RemoteInput)
  /-- R181. A matrix loop step fetches its blocks, stages them and updates the accumulator. -/
  | mloopStep (loop : Nat)
  /-- R287. A waiting bar returns once the generation has moved on. -/
  | barrierReturn (r : SplitRef)
  /-- R363. A siphon reads its ready flag again after a write until it opens. -/
  | siphonGateRead (cmd : Nat)
  /-- R372. A siphon receives a chunk, reduces or copies it and runs the next step. -/
  | siphonChunk (msg : ChunkMsg)
  /-- R372. A notice from a faulted ring neighbour makes it lost to the collective. -/
  | siphonFaultNotice (at_ : SiphonAt) (buf : DWord) (node : Nat)
  /-- R373. A member in RECOVERING for 2^26 siphon cycles is lost to the collective. -/
  | siphonMemberDeadline (cmd node : Nat)
  /-- R256. The ordering machine satisfies an issued load from the nearest place holding its bytes. -/
  | loadSatisfy (op : Nat)
  /-- R257. The ordering machine moves a write one place further along its path. -/
  | writeMove (op : Nat)
  /-- R258. A write or read-modify-write atomic is homed and appended to the coherence order. -/
  | writeHome (op : Nat)
  /-- R259. A die applies a record from another home when its vector allows. -/
  | recordApply (die home : Nat)
  /-- R358. When both redundant copies close an epoch their signatures are compared. -/
  | epochCompare (team : Nat)
  /-- R356. A corrected or uncorrectable error raises a unit's suspicion score. -/
  | softError (err : SoftErr)
  /-- R356. Every 2^28 cycles a unit's suspicion score falls by 1. -/
  | suspicionDecay (u : HwUnit)
  /-- R356. Requests held at a drained well wait at most 2^20 cycles. -/
  | wellDrainTimeout (u : HwUnit)
  /-- R357. Management cores test a drained unit and return or remove it. -/
  | unitTest (u : HwUnit) (pass : Bool)
  /-- R380. Reset starts the boot ROM on management core 0. -/
  | reset
  /-- R382. The ROM verifies the firmware image read from the storage node. -/
  | firmwareVerify (image : List Byte)
  /-- R383. Verified firmware trains memory, sets the fabric, tests units and opens BAR0. -/
  | bringUp (cfg : BringUpInput)
  /-- R384. A power cap set over the management port takes effect. -/
  | powerCap (watts : Nat)
  /-- R384. Reaching the cap or 105 C lowers the core clock in 50 MHz steps. -/
  | thermalThrottle (up : Bool)
  /-- R80. A scalar word with an unassigned opcode or function code, a non-zero must-be-zero field, or an unlisted or read-only control register raises ILLEGAL_ENCODING at that instruction. -/
  | illegalEncoding (w : Word)
  /-- R70. A scalar fetch that meets XN, a missing translation or a bad check word faults at that instruction before any word is decoded. -/
  | scalarFetch (why : FetchFault)
  /-- R305. A cpy command reaching its turn in its engine queue has its shape record read and validated; an invalid record or a zero extent completes it with no sector moved. -/
  | copyStart (cmd : Nat)
  /-- R370. A siph command reaching its turn has its record and member table read and checked; a refused one ends with token 0x01. -/
  | collectiveStart (cmd : Nat)
  /-- R379. The hold of a pre-empt command runs out, after which teams of the ASID may again be dispatched to the named clusters. -/
  | preEmptHoldEnd (asid : Nat)
  /-- R266. The host's PCIe completion reaches the IOD, making the earlier host writes performed at system scope. -/
  | hostCompletion (op : Nat)
  /-- R113. A FABW write sent by a group arrives at the IOD and is applied for the ASID in order of arrival, changing the value that mfc reads. -/
  | fabwApply (asid : Nat)
  /-- R384. At 115 C the device halts every context and reports. -/
  | thermalHalt
  deriving DecidableEq, Repr

end Sys2Proof
end

