-- ==== Sys2Proof/WellFormed.lean ====
section
/-! DEFINITION. Which instructions are well formed: the field classes of R83 and the conditions that the entry of each
lane instruction states (R84 to R90, R127 to R149, R190 to R198, R223, R272 to R282), and the conditions of the
scalar entries that raise ILLEGAL_ENCODING (R80, R102, R178, R283, R290, R292). -/

namespace Sys2Proof

/-- What an instruction is: a scalar instruction, a lane instruction of the LA, LM or LX format with its opcode of R89,
or a step of the device without a word. -/
inductive View where
  | scalar
  | la (op : BitVec 8) (f : LA)
  | lm (op : BitVec 8) (f : LM)
  | lx (f : LX)
  | event
  deriving DecidableEq, Repr

/-- The view of every instruction (R77, R89). -/
def Instr.view : Instr → View
  | .add _ _ _ => .scalar
  | .sub _ _ _ => .scalar
  | .mul _ _ _ => .scalar
  | .mulhi _ _ _ => .scalar
  | .mulhu _ _ _ => .scalar
  | .and _ _ _ => .scalar
  | .or _ _ _ => .scalar
  | .xor _ _ _ => .scalar
  | .shl _ _ _ => .scalar
  | .shr _ _ _ => .scalar
  | .sra _ _ _ => .scalar
  | .min _ _ _ => .scalar
  | .max _ _ _ => .scalar
  | .minu _ _ _ => .scalar
  | .maxu _ _ _ => .scalar
  | .slt _ _ _ => .scalar
  | .sltu _ _ _ => .scalar
  | .seq _ _ _ => .scalar
  | .divu _ _ _ => .scalar
  | .remu _ _ _ => .scalar
  | .popc _ _ => .scalar
  | .clz _ _ => .scalar
  | .ctz _ _ => .scalar
  | .brev _ _ => .scalar
  | .addi _ _ _ => .scalar
  | .andi _ _ _ => .scalar
  | .ori _ _ _ => .scalar
  | .xori _ _ _ => .scalar
  | .shli _ _ _ => .scalar
  | .shri _ _ _ => .scalar
  | .srai _ _ _ => .scalar
  | .slti _ _ _ => .scalar
  | .lui _ _ => .scalar
  | .muli _ _ _ => .scalar
  | .sld _ _ _ => .scalar
  | .sld2 _ _ _ => .scalar
  | .sst _ _ _ => .scalar
  | .sst2 _ _ _ => .scalar
  | .satom _ _ _ _ => .scalar
  | .b _ => .scalar
  | .bz _ _ => .scalar
  | .bnz _ _ => .scalar
  | .bany _ _ _ => .scalar
  | .ball _ _ _ => .scalar
  | .bnone _ _ _ => .scalar
  | .split _ _ _ => .scalar
  | .call _ => .scalar
  | .ret => .scalar
  | .bx _ => .scalar
  | .run _ _ _ => .scalar
  | .runx _ _ _ => .scalar
  | .waitk _ => .scalar
  | .mtc _ _ => .scalar
  | .mtcExec _ => .scalar
  | .mtcTcfg _ _ => .scalar
  | .mtcBd _ _ => .scalar
  | .mtcQdep _ _ => .scalar
  | .mtcG _ _ => .scalar
  | .mtcFabw _ => .scalar
  | .mfc _ _ => .scalar
  | .cpy _ _ _ _ _ => .scalar
  | .cpys _ _ _ _ _ => .scalar
  | .mloop _ _ _ _ _ => .scalar
  | .mloopSbp _ _ _ _ _ => .scalar
  | .mloopDirect _ _ _ _ _ _ => .scalar
  | .siph _ _ _ => .scalar
  | .lnch _ _ _ => .scalar
  | .barMark _ _ => .scalar
  | .barHold _ _ _ => .scalar
  | .barJoin _ _ => .scalar
  | .barOwe _ _ _ => .scalar
  | .barMarkn _ _ _ => .scalar
  | .fence _ _ _ => .scalar
  | .qfence _ => .scalar
  | .stepq _ _ _ => .scalar
  | .stepp _ _ _ => .scalar
  | .trap _ => .scalar
  | .exit => .scalar
  | .yield => .scalar
  | .nop => .scalar
  | .iadd f => .la 0x00 f
  | .isub f => .la 0x01 f
  | .imul f => .la 0x02 f
  | .imulhi f => .la 0x03 f
  | .imad f => .la 0x04 f
  | .imin f => .la 0x05 f
  | .imax f => .la 0x06 f
  | .iabs f => .la 0x07 f
  | .laneAnd f => .la 0x08 f
  | .laneOr f => .la 0x09 f
  | .laneXor f => .la 0x0A f
  | .not f => .la 0x0B f
  | .laneShl f => .la 0x0C f
  | .laneShr f => .la 0x0D f
  | .laneSra f => .la 0x0E f
  | .rot f => .la 0x0F f
  | .lanePopc f => .la 0x10 f
  | .laneClz f => .la 0x11 f
  | .laneBrev f => .la 0x12 f
  | .bfe f => .la 0x13 f
  | .bfi f => .la 0x14 f
  | .iaddc f => .la 0x15 f
  | .isad f => .la 0x16 f
  | .lea f => .la 0x17 f
  | .idiv f => .la 0x18 f
  | .irem f => .la 0x19 f
  | .mov f => .la 0x1A f
  | .iclamp f => .la 0x1B f
  | .fadd f => .la 0x20 f
  | .fsub f => .la 0x21 f
  | .fmul f => .la 0x22 f
  | .ffma f => .la 0x23 f
  | .fmin f => .la 0x24 f
  | .fmax f => .la 0x25 f
  | .fminnum f => .la 0x26 f
  | .frnd f => .la 0x27 f
  | .fscale f => .la 0x28 f
  | .fclass f => .la 0x29 f
  | .fdot2 f => .la 0x2A f
  | .fdot4 f => .la 0x2B f
  | .fmid f => .la 0x2C f
  | .ffract f => .la 0x2D f
  | .fcopysign f => .la 0x2E f
  | .cvt f => .la 0x40 f
  | .cvtb f => .la 0x41 f
  | .pack f => .la 0x42 f
  | .unpk f => .la 0x43 f
  | .icmp f => .la 0x50 f
  | .fcmp f => .la 0x51 f
  | .sel f => .la 0x52 f
  | .pset f => .la 0x53 f
  | .pmov f => .la 0x54 f
  | .vote f => .la 0x55 f
  | .shfl f => .la 0x60 f
  | .shfli f => .la 0x61 f
  | .qmix f => .la 0x62 f
  | .xpose f => .la 0x63 f
  | .bcast f => .la 0x64 f
  | .compact f => .la 0x65 f
  | .mapget f => .la 0x66 f
  | .mapset f => .la 0x67 f
  | .mat f => .la 0x68 f
  | .permld f => .la 0x69 f
  | .scan f => .la 0x70 f
  | .dacc f => .la 0x71 f
  | .wrnd f => .la 0x72 f
  | .wclr f => .la 0x73 f
  | .wadd f => .la 0x74 f
  | .wmov f => .la 0x75 f
  | .ld f => .lm 0x80 f
  | .st f => .lm 0x81 f
  | .ldb f => .lm 0x82 f
  | .stb f => .lm 0x83 f
  | .lds f => .lm 0x84 f
  | .sts f => .lm 0x85 f
  | .ldw f => .lm 0x86 f
  | .stw f => .lm 0x87 f
  | .ldt f => .lm 0x88 f
  | .atom f => .lm 0x89 f
  | .atoms f => .lm 0x8A f
  | .atomw f => .lm 0x8B f
  | .conf f => .lm 0x8C f
  | .tagld f => .lm 0x8D f
  | .tagst f => .lm 0x8E f
  | .pref f => .lm 0x8F f
  | .qcnt f => .lm 0xA0 f
  | .rcp f => .la 0xB0 f
  | .rsq f => .la 0xB1 f
  | .sqrt f => .la 0xB2 f
  | .exp2 f => .la 0xB3 f
  | .log2 f => .la 0xB4 f
  | .sin f => .la 0xB5 f
  | .cos f => .la 0xB6 f
  | .tanh f => .la 0xB7 f
  | .erf f => .la 0xB8 f
  | .expr f => .lx f
  | .ivmk f => .la 0xC8 f
  | .ivlo f => .la 0xC9 f
  | .ivhi f => .la 0xCA f
  | .ivtest f => .la 0xCB f
  | .nopl f => .la 0xF0 f
  | .ltrap f => .la 0xF1 f
  | .lclk f => .la 0xF2 f
  | .clauseFetch _ => .event
  | .clauseIssue _ => .event
  | .operationComplete _ => .event
  | .teamDispatch _ => .event
  | .stealRequest _ _ => .event
  | .stealAnswer _ => .event
  | .passGroupStart _ => .event
  | .passInstructionLimit _ _ => .event
  | .stageCounterRead _ _ => .event
  | .stageCounterPoll _ _ => .event
  | .stageTeamSave _ => .event
  | .kick _ _ => .event
  | .submissionSeqReread _ => .event
  | .hostRegisterWrite _ _ => .event
  | .hostMemoryAccess _ => .event
  | .invalidate _ => .event
  | .invalidateCompletion _ => .event
  | .preEmpt _ => .event
  | .cancel _ => .event
  | .resumeContext _ => .event
  | .faultResume _ => .event
  | .faultAbandon _ => .event
  | .contextSave _ => .event
  | .drainOverrun _ => .event
  | .contextRestore _ _ => .event
  | .trapRecordWrite _ => .event
  | .watchdog _ _ => .event
  | .remoteLost _ _ _ => .event
  | .linkFailure _ => .event
  | .linkRecovery _ => .event
  | .fabricRecoveryLimit _ => .event
  | .peerLossNotice _ => .event
  | .fabricRequest _ => .event
  | .pumpSector _ _ => .event
  | .mloopStep _ => .event
  | .barrierReturn _ => .event
  | .siphonGateRead _ => .event
  | .siphonChunk _ => .event
  | .siphonFaultNotice _ _ _ => .event
  | .siphonMemberDeadline _ _ => .event
  | .loadSatisfy _ => .event
  | .writeMove _ => .event
  | .writeHome _ => .event
  | .recordApply _ _ => .event
  | .epochCompare _ => .event
  | .softError _ => .event
  | .suspicionDecay _ => .event
  | .wellDrainTimeout _ => .event
  | .unitTest _ _ => .event
  | .reset => .event
  | .firmwareVerify _ => .event
  | .bringUp _ => .event
  | .powerCap _ => .event
  | .thermalThrottle _ => .event
  | .thermalHalt => .event
  | .illegalEncoding _ => .event
  | .scalarFetch _ => .event
  | .copyStart _ => .event
  | .collectiveStart _ => .event
  | .preEmptHoldEnd _ => .event
  | .hostCompletion _ => .event
  | .fabwApply _ => .event

namespace LType

/-- Types of 64 bits per lane, which name a register pair (R44). -/
def isPair : LType → Bool
  | .f64 | .i64 | .n64 => true
  | _ => false

/-- The planar FP6 types (R65). -/
def isPlanar : LType → Bool
  | .e3m2x16 | .e2m3x16 => true
  | _ => false

/-- The registers that an operand of the type names: a pair for 64-bit types. -/
def regs (t : LType) : Nat := if t.isPair then 2 else 1

/-- Elements per lane (R133, R161). -/
def count : LType → Nat
  | .i32 | .n32 | .f32 | .b32 | .f64 | .i64 | .n64 => 1
  | .f16x2 | .bf16x2 | .i16x2 | .n16x2 => 2
  | .i8x4 | .n8x4 | .e4m3x4 | .e5m2x4 => 4
  | .e2m1x8 | .i4x8 | .n4x8 => 8
  | .e3m2x16 | .e2m3x16 => 16

/-- Element width in bits. -/
def width : LType → Nat
  | .i32 | .n32 | .f32 | .b32 => 32
  | .f64 | .i64 | .n64 => 64
  | .f16x2 | .bf16x2 | .i16x2 | .n16x2 => 16
  | .i8x4 | .n8x4 | .e4m3x4 | .e5m2x4 => 8
  | .e2m1x8 | .i4x8 | .n4x8 => 4
  | .e3m2x16 | .e2m3x16 => 6

/-- The code of the type field (R84). -/
def code : LType → Nat
  | .i32 => 0 | .n32 => 1 | .f32 => 2 | .f16x2 => 3 | .bf16x2 => 4 | .i16x2 => 5 | .n16x2 => 6
  | .i8x4 => 7 | .n8x4 => 8 | .e4m3x4 => 9 | .e5m2x4 => 10 | .f64 => 11 | .i64 => 12 | .n64 => 13
  | .e2m1x8 => 14 | .i4x8 => 15 | .n4x8 => 16 | .e3m2x16 => 17 | .e2m3x16 => 18 | .b32 => 19

/-- The type of a code; codes 0x14 to 0x1F are unassigned (R84). -/
def ofCode : Nat → Option LType
  | 0 => some .i32 | 1 => some .n32 | 2 => some .f32 | 3 => some .f16x2 | 4 => some .bf16x2
  | 5 => some .i16x2 | 6 => some .n16x2 | 7 => some .i8x4 | 8 => some .n8x4 | 9 => some .e4m3x4
  | 10 => some .e5m2x4 | 11 => some .f64 | 12 => some .i64 | 13 => some .n64 | 14 => some .e2m1x8
  | 15 => some .i4x8 | 16 => some .n4x8 | 17 => some .e3m2x16 | 18 => some .e2m3x16 | 19 => some .b32
  | _ => none

end LType

/-- The classes of a 7-bit lane field (R83), with the number of registers that a general field names. A `src` takes
vector codes, queue codes when it names one register, and scalar codes aligned to its size (R44, R268); a `srcNoQ`
takes no queue code; a `dst` of one register takes every code, a wider one an aligned vector code only (R42, R44); a `vec`
takes an aligned vector code only (R148, R198, the record operand of R190). -/
inductive Cls where
  | unused
  | src (n : Nat)
  | srcNoQ (n : Nat)
  | dst (n : Nat)
  | vec (n : Nat)
  | pred
  | wide
  | queue
  deriving DecidableEq, Repr

/-- Whether a field value lies in its class (R83). -/
def Cls.ok (k : Cls) (v : BitVec 7) : Bool :=
  let n := v.toNat
  match k with
  | .unused => n == 0
  | .src w => if n < 96 then n % w == 0 else if n < 112 then w == 1 else n % w == 0
  | .srcNoQ w => if n < 96 then n % w == 0 else if n < 112 then false else n % w == 0
  | .dst w => if n < 96 then n % w == 0 else w == 1
  | .vec w => n < 96 && n % w == 0
  | .pred => n < 8
  | .wide => n < 8
  | .queue => 96 ≤ n && n < 112

/-- The vector registers that a field names: the first and how many, when it names any. -/
def Cls.vregs (k : Cls) (v : BitVec 7) : Option (Nat × Nat) :=
  match k with
  | .src w | .srcNoQ w | .dst w | .vec w => if v.toNat < 96 then some (v.toNat, w) else none
  | _ => none

/-- What the entry of an LA instruction accepts (R84). -/
structure LaRule where
  d : Cls
  a : Cls
  b : Cls
  c : Cls
  types : List LType
  rnd   : Bool := false
  sat   : Bool := false
  aneg  : Bool := false
  aabs  : Bool := false
  bneg  : Bool := false
  cneg  : Bool := false
  /-- imm = 1 is accepted -/
  imm   : Bool := false
  fmod  : List Nat := [0]
  /-- the bits of imm32 that the entry assigns when imm = 0 -/
  imm32 : Nat := 0
  /-- further conditions of the entry -/
  more  : Bool := true
  deriving Repr

namespace LaRule

open LType

/-- The type sets of R128. -/
def setA : List LType := [i32, n32, i16x2, n16x2, i8x4, n8x4, i64, n64]
def setM : List LType := [i32, n32, i16x2, n16x2, i64, n64]
def setS : List LType := [i32, i16x2, i8x4, i64]
def setB : List LType := [i32, n32, b32, i64, n64]
def setD : List LType := [i32, n32, i64, n64]
def setW32 : List LType := [i32, n32, b32]
/-- The float types of R130. -/
def setF : List LType := [f32, f64, f16x2, bf16x2]
/-- Every type but the planar ones (R128 mov). -/
def setMov : List LType := [i32, n32, f32, f16x2, bf16x2, i16x2, n16x2, i8x4, n8x4, e4m3x4, e5m2x4, f64, i64, n64,
  e2m1x8, i4x8, n4x8, b32]
/-- The types that a conversion accepts (R133). -/
def setCvt : List LType := [i32, n32, f32, f16x2, bf16x2, i16x2, n16x2, i8x4, n8x4, e4m3x4, e5m2x4, f64, i64, n64,
  e2m1x8, i4x8, n4x8]
/-- The types of the map edits (R145). -/
def setMap : List LType := [b32, n64]
/-- The types of scan (R191). -/
def setScan : List LType := [e4m3x4, e5m2x4, e3m2x16, e2m3x16, e2m1x8, i8x4, n8x4, i4x8, n4x8, f16x2, bf16x2, i32]
/-- The types of ivmk, ivlo, ivhi and ivtest (R223). -/
def setIv : List LType := [i32, n32, f32, i16x2, n16x2, f16x2, bf16x2, i8x4, n8x4, i64, n64, f64]

/-- Two-operand form over the instruction's type. -/
def op2 (t : LType) (ts : List LType) : LaRule :=
  { d := .dst t.regs, a := .src t.regs, b := .src t.regs, c := .unused, types := ts, imm := true }
/-- Three-operand form. -/
def op3 (t : LType) (ts : List LType) : LaRule := { op2 t ts with c := .src t.regs }
/-- One-operand form. -/
def op1 (t : LType) (ts : List LType) : LaRule := { op2 t ts with b := .unused, imm := false }

/-- The source type that the conversions name in fmod (R133). -/
def cvtSrc (f : LA) : LType := (LType.ofCode f.fmod.toNat).getD .b32

/-- The group number of a conversion lies in its range, and its source type is accepted (R133). -/
def cvtMore (f : LA) (packs : Bool) : Bool :=
  let s := cvtSrc f
  let g := f.imm32.toNat % 8
  setCvt.contains s &&
  (if packs then s.count < f.ty.count && g < f.ty.count / (2 * s.count)
   else f.ty.count ≤ s.count && g < s.count / f.ty.count)

/-- The immediates of `shfli.xf` lie within the limits of R11. -/
def xfOk (w : Word) : Bool :=
  let d := w.toNat % 8
  let s := w.toNat / 256 % 8
  let k := w.toNat / 65536 % 8
  d ≤ 4 && s ≤ 4 && 1 ≤ k && k ≤ 4 && d + k ≤ 5 && s + k ≤ 5

/-- The class of the d and a fields of a map edit (R145): wide with W = 1, else the type's registers. -/
def mapCls (f : LA) (k : Nat → Cls) : Cls := if f.imm32.getLsbD 31 then .wide else k f.ty.regs

/-- W = 1 needs type b32 (R145). -/
def wOk (f : LA) : Bool := !f.imm32.getLsbD 31 || f.ty == .b32

/-- The FP8 types of four elements. -/
def isFp8 (t : LType) : Bool := t == e4m3x4 || t == e5m2x4

/-- The rule of each LA opcode (R89), given the instruction's fields. -/
def ofOp (op : BitVec 8) (f : LA) : Option LaRule :=
  let t := f.ty
  let fm := f.fmod.toNat
  match op.toNat with
  -- integer arithmetic (R127 to R129)
  | 0x00 | 0x01 => some { op2 t setA with sat := true }
  | 0x02 => some { op2 t setM with sat := true }
  | 0x03 => some (op2 t setM)
  | 0x04 => some { op3 t setM with sat := true }
  | 0x05 | 0x06 => some (op2 t setA)
  | 0x07 => some { op1 t setS with sat := true }
  | 0x08 | 0x09 | 0x0A => some (op2 t setB)
  | 0x0B => some (op1 t setB)
  | 0x0C | 0x0D | 0x0E => some { op2 t setA with b := .src 1 }
  | 0x0F => some { op2 t setD with b := .src 1 }
  | 0x10 | 0x11 | 0x12 => some (op1 t setW32)
  | 0x13 => some (op2 t [i32, n32])
  | 0x14 => some (op3 t [n32, b32])
  | 0x15 => some { op3 t [n32] with fmod := [0, 1] }
  | 0x16 => some (op3 t [i32, n32, i16x2, n16x2, i8x4, n8x4])
  | 0x17 => some { op2 t [n32, n64] with b := .src 1, fmod := [0, 1, 2, 3, 4, 5, 6, 7] }
  | 0x18 | 0x19 => some (op2 t setD)
  | 0x1A => some { op1 t setMov with imm := true, a := if f.imm then .unused else .src t.regs }
  | 0x1B => some (op3 t setA)
  -- floating-point arithmetic (R130, R131)
  | 0x20 | 0x21 | 0x22 => some { op2 t setF with rnd := true, sat := true, aneg := true, aabs := true, bneg := true }
  | 0x23 => some { op3 t setF with rnd := true, sat := true, aneg := true, aabs := true, bneg := true, cneg := true }
  | 0x24 | 0x25 | 0x2E => some { op2 t setF with aneg := true, aabs := true, bneg := true }
  | 0x26 => some { op2 t setF with aneg := true, aabs := true, bneg := true, fmod := [0, 1] }
  | 0x27 => some { op1 t setF with rnd := true, aneg := true, aabs := true, more := f.rnd != .stoch }
  | 0x28 => some { op2 t setF with b := .src 1, rnd := true, sat := true, aneg := true, aabs := true }
  | 0x29 => some { op1 t setF with d := .dst 1 }
  | 0x2A => some { op3 t [f16x2, bf16x2] with rnd := true, sat := true, aneg := true, bneg := true, cneg := true }
  | 0x2B => some { op3 t [e4m3x4, e5m2x4, i8x4, n8x4] with
            rnd := true, sat := true, cneg := true, aneg := isFp8 t, bneg := isFp8 t }
  | 0x2C => some { op3 t setF with aneg := true, aabs := true, bneg := true, cneg := true }
  | 0x2D => some { op1 t setF with rnd := true, aneg := true, aabs := true }
  -- conversions (R133 to R135, R198)
  | 0x40 => some { op1 t setCvt with
            a := .src (cvtSrc f).regs, rnd := true, sat := true, fmod := [fm], imm32 := 7,
            more := cvtMore f false }
  | 0x41 => some { op2 t setCvt with
            a := .src (cvtSrc f).regs, b := .src 1, rnd := true, sat := true, fmod := [fm], imm32 := 7,
            more := cvtMore f false && (!f.imm || f.imm32.toNat % 65536 / 8 % 32 == 0 && f.imm32.toNat < 65536) }
  | 0x42 => some { op2 t setCvt with
            a := .src (cvtSrc f).regs, b := .src (cvtSrc f).regs, rnd := true, sat := true, imm := false,
            fmod := [fm], imm32 := 7, more := cvtMore f true }
  | 0x43 => some { op1 t [e2m1x8, i4x8, n4x8, e3m2x16, e2m3x16] with
            d := .vec (if t.isPlanar then 4 else 2), a := .src (if t.isPlanar then 2 else 1),
            b := if t.isPlanar then .src 1 else .unused, fmod := [0, 1] }
  -- compares, selects, predicates and votes (R136 to R139)
  | 0x50 => some { op2 t setD with d := .pred, c := .pred, cneg := true, fmod := [0, 1, 2, 3, 4, 5] }
  | 0x51 => some { op2 t [f32, f64] with
            d := .pred, c := .pred, cneg := true, aneg := true, aabs := true, bneg := true, fmod := [0, 1, 2, 3, 4, 5, 6, 7] }
  | 0x52 => some { op2 t [b32, f64, i64, n64] with c := .pred, cneg := true }
  | 0x53 =>
    if fm == 4 then some { d := .pred, a := .unused, b := .unused, c := .unused, types := [b32], imm := true, fmod := [4], more := f.imm }
    else some { d := .pred, a := .pred, b := .pred, c := .unused, types := [b32], aneg := true, bneg := true, fmod := [0, 1, 2, 3] }
  | 0x54 =>
    if fm == 0 then some { d := .dst 1, a := .pred, b := .unused, c := .unused, types := [b32], aneg := true }
    else some { d := .pred, a := .src 1, b := .unused, c := .unused, types := [b32], fmod := [1] }
  | 0x55 => some { d := if fm == 0 then .dst 1 else .pred, a := .pred, b := .unused, c := .unused, types := [b32], aneg := true, fmod := [0, 1, 2] }
  -- lane maps (R145 to R148, R190)
  | 0x60 | 0x67 => some { d := mapCls f .dst, a := mapCls f .src, b := .src 1, c := .unused, types := setMap, imm32 := 0x80000000, more := wOk f }
  | 0x61 => some { d := mapCls f .dst, a := mapCls f .src, b := .unused, c := .unused, types := setMap, fmod := [0, 1, 2, 3, 4], imm32 := if fm == 4 then 0x80070707 else 0x8000001F, more := wOk f && (fm != 4 || xfOk f.imm32) }
  | 0x62 => some { d := .vec 4, a := .vec 4, b := .unused, c := .unused, types := [b32], imm32 := 0x7F7F7F7F }
  | 0x63 => some { d := .vec 4, a := .vec 4, b := .unused, c := .unused, types := [b32] }
  | 0x64 => some { d := mapCls f .dst, a := mapCls f .src, b := .unused, c := .unused, types := setMap, imm32 := 0x8000001F, more := wOk f }
  | 0x65 => some { d := mapCls f .dst, a := mapCls f .src, b := .unused, c := .pred, cneg := true, types := setMap, imm32 := 0x80000000, more := wOk f }
  | 0x66 => some { d := .dst 1, a := mapCls f .srcNoQ, b := .unused, c := .unused, types := setMap, imm32 := 0x80000000, more := wOk f }
  | 0x68 => some { d := mapCls f .vec, a := mapCls f .src, b := .unused, c := .unused, types := setMap, imm32 := 0x80000000, more := wOk f }
  | 0x69 => some { d := .dst 1, a := .src 1, b := .vec 8, c := .unused, types := [b32] }
  -- the lane path (R191 to R195)
  | 0x70 => some { d := .wide, a := .src (if t.isPlanar then 2 else 1), b := if t.isPlanar then .src 1 else .unused, c := .unused, types := setScan, fmod := [0, 1], imm32 := 15, more := f.imm32.toNat % 16 < t.count }
  | 0x71 => some { d := .wide, a := .wide, b := .vec 8, c := .unused, types := [b32], fmod := [0, 1] }
  | 0x72 => some { d := .dst t.regs, a := .wide, b := if f.fmod.getLsbD 1 then .unused else .vec 8, c := if f.fmod.getLsbD 0 then .src 1 else .unused, types := [f32, f64, i32], rnd := true, sat := true, fmod := [0, 1, 2, 3] }
  | 0x73 => some { d := .wide, a := .unused, b := .unused, c := .unused, types := [b32], imm32 := 0x3FF }
  | 0x74 => some { d := .wide, a := .wide, b := .wide, c := .unused, types := [b32], fmod := [0, 1] }
  | 0x75 => some { d := if fm == 1 || fm == 2 then .dst 1 else .wide, a := if fm == 3 || fm == 4 then .src 1 else .wide, b := .unused, c := .unused, types := [b32], fmod := [0, 1, 2, 3, 4], imm32 := if fm == 1 || fm == 3 then 3 else 0 }
  -- special functions (R140)
  | 0xB0 | 0xB2 => some { op1 t setF with rnd := true, sat := true, aneg := true, aabs := true }
  | 0xB1 => some { op1 t setF with sat := true, aneg := true, aabs := true }
  | 0xB3 | 0xB4 | 0xB5 | 0xB6 | 0xB7 | 0xB8 => some { op1 t [f32, f16x2, bf16x2] with
            sat := true, aneg := true, aabs := true }
  -- interval instructions (R223)
  | 0xC8 => some { op3 t setIv with imm := false }
  | 0xC9 | 0xCA => some { op1 t setIv with a := .srcNoQ t.regs }
  | 0xCB => some { op3 t setIv with d := .pred, imm := false, fmod := [0, 1] }
  -- system instructions (R149)
  | 0xF0 => some { d := .unused, a := .unused, b := .unused, c := .unused, types := [i32], imm32 := 15 }
  | 0xF1 => some { d := .unused, a := .unused, b := .unused, c := .unused, types := [i32], imm32 := 0xFFFF }
  | 0xF2 => some { d := .dst 1, a := .unused, b := .unused, c := .unused, types := [n32], fmod := [0, 1] }
  | _ => none

/-- The classes of the fields d, a, b, c as the instruction uses them: with imm = 1 the b field is unused (R84). -/
def fields (r : LaRule) (f : LA) : List (Cls × BitVec 7) :=
  [(r.d, f.h.d), (r.a, f.a), (if f.imm then .unused else r.b, f.b), (r.c, f.c)]

/-- The checks of R84 and of the entry. -/
def ok (r : LaRule) (f : LA) : Bool :=
  (r.rnd || f.rnd == .rmode) && (r.sat || f.sat == .rmode) &&
  (r.aneg || !f.aneg) && (r.aabs || !f.aabs) && (r.bneg || !f.bneg) && (r.cneg || !f.cneg) &&
  (r.imm || !f.imm) && r.fmod.contains f.fmod.toNat && r.types.contains f.ty &&
  (f.imm || f.imm32 &&& ~~~(BitVec.ofNat 32 r.imm32) == 0) &&
  (r.fields f).all (fun k => k.1.ok k.2) && r.more

end LaRule

namespace Width

/-- The access size W in bytes (R268). -/
def bytes : Width → Nat
  | .w8 => 1 | .w16 => 2 | .w32 => 4 | .w64 => 8 | .w128 => 16 | .sector => 32

/-- The data registers of a width (R85). -/
def regs : Width → Nat
  | .w8 | .w16 | .w32 => 1 | .w64 => 2 | .w128 => 4 | .sector => 8

end Width

/-- The atomic operations of R86. -/
inductive Aop where
  | load | store | swap | cas | add | min | max | minu | maxu | and | or | xor | fadd | xadd | binc
  deriving DecidableEq, Repr

/-- The operation of a code; 0xF is unassigned (R86). -/
def Aop.ofCode : Nat → Option Aop
  | 0 => some .load | 1 => some .store | 2 => some .swap | 3 => some .cas | 4 => some .add | 5 => some .min | 6 => some .max
  | 7 => some .minu | 8 => some .maxu | 9 => some .and | 10 => some .or | 11 => some .xor | 12 => some .fadd | 13 => some .xadd
  | 14 => some .binc | _ => none

/-- What the entry of an LM instruction accepts (R85, R272 to R282). -/
structure LmRule where
  d : Cls
  a : Cls
  b : Cls
  c : Cls
  widths : List Width
  orders : List Order
  fmod   : List Nat := [0]
  /-- a descriptor is taken -/
  desc   : Bool := false
  more   : Bool := true
  deriving Repr

namespace LmRule

/-- Orders of an instruction that only loads, and of one that only stores (R85, R272). -/
def loadOrders : List Order := [.plain, .relaxed, .acquire, .seqCst]
def storeOrders : List Order := [.plain, .relaxed, .release, .seqCst]
def allOrders : List Order := [.plain, .relaxed, .acquire, .release, .acqRel, .seqCst]
def allWidths : List Width := [.w8, .w16, .w32, .w64, .w128, .sector]

/-- Loads and stores (R272): with `.nb`, fmod[0], field c names the result predicate. -/
def loadRule (f : LM) (a : Cls) (desc : Bool) : LmRule :=
  { d := .dst f.width.regs, a := a, b := .unused, c := if f.fmod.getLsbD 0 then .pred else .unused, widths := allWidths,
    orders := loadOrders, desc := desc, fmod := if f.width == .w8 || f.width == .w16 then [0, 1, 2, 3] else [0, 1] }
def storeRule (f : LM) (a : Cls) (desc : Bool) : LmRule :=
  { d := .unused, a := a, b := .src f.width.regs, c := if f.fmod.getLsbD 0 then .pred else .unused, widths := allWidths,
    orders := storeOrders, desc := desc, fmod := [0, 1] }

/-- Atomics (R274). -/
def atomRule (f : LM) (a : Cls) (well : Bool) : Option LmRule :=
  let n := f.width.regs
  let r : LmRule := { d := .dst n, a := a, b := .src n, c := .unused, widths := [.w32, .w64], orders := allOrders,
                      fmod := [f.fmod.toNat], more := f.hint == .dflt }
  match Aop.ofCode f.fmod.toNat with
  | none => none
  | some .load => some { r with b := .unused, orders := [.plain, .relaxed, .acquire, .seqCst] }
  | some .store => some { r with d := .unused, orders := [.plain, .relaxed, .release, .seqCst] }
  | some .cas => some { r with c := .srcNoQ n }
  | some .fadd => some { r with widths := [.w32] }
  | some .xadd => if well then some { r with d := .unused, widths := [.w32, .w128] } else none
  | some .binc => some { r with b := .unused, c := .srcNoQ n }
  | some _ => some r

/-- The rule of each LM opcode (R89). -/
def ofOp (op : BitVec 8) (f : LM) : Option LmRule :=
  match op.toNat with
  | 0x80 | 0x86 => some (loadRule f (.srcNoQ 2) false)
  | 0x81 | 0x87 => some (storeRule f (.srcNoQ 2) false)
  | 0x82 => some (loadRule f (.srcNoQ 1) true)
  | 0x83 => some (storeRule f (.srcNoQ 1) true)
  | 0x84 => some (loadRule f (.srcNoQ 1) false)
  | 0x85 => some (storeRule f (.srcNoQ 1) false)
  | 0x88 => some { d := .dst 1, a := .src 1, b := .unused, c := .src 1, widths := [.w8, .w16, .w32], orders := [.plain] }
  | 0x89 => atomRule f (.srcNoQ 2) false
  | 0x8A => atomRule f (.srcNoQ 1) false
  | 0x8B => atomRule f (.srcNoQ 2) true
  | 0x8C => some { d := .pred, a := .src f.width.regs, b := .unused, c := .unused, widths := [.w32, .w64], orders := [.plain], more := f.scope == .group && f.hint == .dflt && f.off == 0 }
  | 0x8D => some { d := .dst 1, a := .srcNoQ 2, b := .unused, c := .unused, widths := [.sector], orders := loadOrders }
  | 0x8E => some { d := .unused, a := .srcNoQ 2, b := .src 1, c := .unused, widths := [.sector], orders := storeOrders }
  | 0x8F => some { d := .unused, a := .srcNoQ 2, b := .unused, c := .unused, widths := [.w8], orders := loadOrders }
  | 0xA0 => some { d := .dst 1, a := .queue, b := .unused, c := .unused, widths := [.w8], orders := [.plain], fmod := [0, 1], more := f.scope == .group && f.hint == .dflt && f.off == 0 }
  | _ => none

/-- The classes of the fields d, a, b, c. -/
def fields (r : LmRule) (f : LM) : List (Cls × BitVec 7) := [(r.d, f.h.d), (r.a, f.a), (r.b, f.b), (r.c, f.c)]

/-- The checks of R85 and of the entry. -/
def ok (r : LmRule) (f : LM) : Bool :=
  r.widths.contains f.width && r.orders.contains f.order && r.fmod.contains f.fmod.toNat && ((f.bd == 15) == !r.desc) &&
  (r.fields f).all (fun k => k.1.ok k.2) && r.more

end LmRule

namespace Tok

/-- How many entries a token pops and how many it pushes (R87). -/
def pops : Tok → Nat
  | .a | .b | .c | .d => 0
  | .add | .sub | .mul | .min | .max => 2
  | .fma => 3
  | .neg | .abs | .sat01 => 1
  | .dup => 1
  | .swap => 2
def pushes : Tok → Nat
  | .a | .b | .c | .d => 1
  | .add | .sub | .mul | .min | .max | .fma | .neg | .abs | .sat01 => 1
  | .dup => 2
  | .swap => 2

/-- The operators, codes 4 to 14 (R88). -/
def isOp : Tok → Bool
  | .a | .b | .c | .d => false
  | _ => true

/-- The operators that compute a value, as against the stack tokens dup and swap (R144). -/
def computes : Tok → Bool
  | .a | .b | .c | .d | .dup | .swap => false
  | _ => true

end Tok

namespace LX

/-- The stack depth after the tokens, when none finds too few entries and none makes the depth 5 (R88). -/
def depth : List Tok → Nat → Option Nat
  | [], n => some n
  | t :: ts, n => if n < t.pops then none else if n - t.pops + t.pushes > 4 then none else depth ts (n - t.pops + t.pushes)

/-- The register fields of `expr`: a field that no token pushes must be 0; old d with a queue destination is refused (R143). -/
def fields (f : LX) : List (Cls × BitVec 7) :=
  [(.dst 1, f.h.d), (if f.toks.contains .a then .src 1 else .unused, f.a), (if f.toks.contains .b then .src 1 else .unused, f.b),
   (if f.toks.contains .c then .src 1 else .unused, f.c)]

/-- The checks of R88 and R143. -/
def ok (f : LX) : Bool :=
  f.toks.length ≤ 12 && depth f.toks 0 == some 1 && (f.toks.filter Tok.isOp).length ≤ 7 &&
  (!f.toks.contains .d || f.h.d.toNat < 96 || 112 ≤ f.h.d.toNat) && f.fields.all (fun k => k.1.ok k.2)

end LX

namespace Instr

/-- The head fields of a lane instruction. -/
def head? (i : Instr) : Option LaneHead :=
  match i.view with
  | .la _ f => some f.h
  | .lm _ f => some f.h
  | .lx f => some f.h
  | _ => none

/-- The register fields of a lane instruction with their classes, in the order d, a, b, c. -/
def laneFields (i : Instr) : List (Cls × BitVec 7) :=
  match i.view with
  | .la op f => match LaRule.ofOp op f with | some r => r.fields f | none => []
  | .lm op f => match LmRule.ofOp op f with | some r => r.fields f | none => []
  | .lx f => f.fields
  | _ => []

/-- Whether the d field is a general destination that names s16 to s31 (R42). -/
def destScalar (i : Instr) : Bool :=
  match i.laneFields with
  | (.dst _, v) :: _ => 112 ≤ v.toNat
  | _ => false

/-- Long-latency instructions: the memory class but conf, scan, dacc, and every lane instruction whose destination is
s16 to s31 (R25). -/
def isLong (i : Instr) : Bool :=
  match i.view with
  | .lm op _ => (0x80 ≤ op.toNat && op.toNat ≤ 0x8F && op.toNat != 0x8C) || i.destScalar
  | .la op _ => op == 0x70 || op == 0x71 || i.destScalar
  | .lx _ => i.destScalar
  | _ => false

/-- A lane instruction is well formed when its entry accepts its fields, and fs is set only on a long-latency
instruction (R81, R90). -/
def laneWf (i : Instr) : Bool :=
  (match i.view with
   | .la op f => match LaRule.ofOp op f with | some r => r.ok f | none => false
   | .lm op f => match LmRule.ofOp op f with | some r => r.ok f | none => false
   | .lx f => f.ok
   | _ => false) &&
  (match i.head? with | some h => !h.fs || i.isLong | none => true)

end Instr

/-- An even register, as a pair must name (R40, R80). -/
def SReg.even (r : SReg) : Bool := !r.getLsbD 0

/-- The order codes accepted by a satom operation, its size and its zero fields (R102). -/
def SatomFields.ok (f : SatomFields) (sd sa sb : SReg) : Bool :=
  sa.even && f.scope.toNat < 6 && (!f.size || (sd.even && sb.even)) &&
  (match Aop.ofCode f.aop.toNat with
   | none | some .xadd => false
   | some .load => sb == 0 && [0, 1, 2, 5].contains f.order.toNat
   | some .store => sd == 0 && [0, 1, 3, 5].contains f.order.toNat
   | some .fadd => !f.size && [1, 2, 3, 4, 5].contains f.order.toNat
   | some .binc => sb == 0 && [1, 2, 3, 4, 5].contains f.order.toNat
   | some _ => [1, 2, 3, 4, 5].contains f.order.toNat)

/-- The control registers that R49 lists, readable by mfc (R111). -/
def mfcReadable (r : BitVec 12) : Bool :=
  let n := r.toNat
  n ≤ 8 || (0x10 ≤ n && n ≤ 0x1F) || (0x30 ≤ n && n ≤ 0x3F) || (0x40 ≤ n && n ≤ 0x47) || n == 0x60 || n == 0x70 || n == 0x80 || n == 0x81

namespace Instr

/-- A scalar instruction is well formed when its entry raises no ILLEGAL_ENCODING for its fields alone. -/
def scalarWf : Instr → Bool
  | .sld _ sa _ | .sst _ sa _ => sa.even
  | .sld2 sd sa _ | .sst2 sd sa _ => sd.even && sa.even
  | .satom sd sa sb f => f.ok sd sa sb
  | .mtcBd sa n => sa.even && n != 15
  | .mfc _ r => mfcReadable r
  | .cpy _ sa sb bar _ | .cpys _ sa sb bar _ => sa.even && (bar || sb == 0)
  | .mloop _ sa _ _ _ | .mloopSbp _ sa _ _ _ => sa.toNat ≤ 28
  | .mloopDirect _ sa sb _ _ _ => sa.toNat ≤ 28 && sb.even
  | .siph _ sa _ | .lnch _ sa _ => sa.even
  | .barOwe _ sa _ | .barMarkn _ sa _ => sa != 0
  | .fence _ _ scope => scope.toNat < 6
  | .qfence mask => mask != 0
  | _ => true

/-- Well-formedness of an instruction: an event has no encoding and no check. -/
def wf (i : Instr) : Bool :=
  match i.view with
  | .scalar => i.scalarWf
  | .event => true
  | _ => i.laneWf

end Instr

end Sys2Proof
end

