-- ==== Sys2Proof/Machine/Num.lean ====
section
/-! DEFINITION. Number formats, exact values, rounding, overflow and flushing (08_number_formats.md, R121 to R123). -/

namespace Sys2Proof.Machine

/-- The floating-point element formats (R158). -/
inductive FFmt where
  | f64 | f32 | f16 | bf16 | e5m2 | e4m3 | e3m2 | e2m3 | e2m1
  deriving DecidableEq, Repr

/-- What a format has beside finite numbers (R158, R167). -/
inductive Special where
  | ieee | e4m3 | none
  deriving DecidableEq, Repr

namespace FFmt

/-- Width, exponent bits, mantissa bits and bias (R158). -/
def width : FFmt → Nat
  | .f64 => 64 | .f32 => 32 | .f16 | .bf16 => 16 | .e5m2 | .e4m3 => 8 | .e3m2 | .e2m3 => 6 | .e2m1 => 4
def ebits : FFmt → Nat
  | .f64 => 11 | .f32 | .bf16 => 8 | .f16 | .e5m2 => 5 | .e4m3 => 4 | .e3m2 => 3 | .e2m3 | .e2m1 => 2
def mbits : FFmt → Nat
  | .f64 => 52 | .f32 => 23 | .f16 => 10 | .bf16 => 7 | .e5m2 | .e3m2 => 2 | .e4m3 | .e2m3 => 3 | .e2m1 => 1
def bias : FFmt → Nat
  | .f64 => 1023 | .f32 | .bf16 => 127 | .f16 | .e5m2 => 15 | .e4m3 => 7 | .e3m2 => 3 | .e2m3 | .e2m1 => 1
def special : FFmt → Special
  | .f64 | .f32 | .f16 | .bf16 | .e5m2 => .ieee | .e4m3 => .e4m3 | .e3m2 | .e2m3 | .e2m1 => .none

/-- The class of R112. -/
def cls : FFmt → Nat
  | .f64 => 0 | .f32 => 1 | .f16 => 2 | .bf16 => 3 | .e5m2 | .e4m3 => 4 | .e3m2 | .e2m3 => 5 | .e2m1 => 6

/-- The canonical NaN (R123); a format without NaN takes +0 (R167). -/
def nan : FFmt → Nat
  | .f64 => 0x7FF8000000000000 | .f32 => 0x7FC00000 | .f16 => 0x7E00 | .bf16 => 0x7FC0 | .e5m2 => 0x7E | .e4m3 => 0x7F
  | .e3m2 | .e2m3 | .e2m1 => 0

/-- The code of the sign bit. -/
def sign (f : FFmt) : Nat := 2 ^ (f.width - 1)

/-- The code of +Inf, for formats that have it. -/
def inf (f : FFmt) : Nat := (2 ^ f.ebits - 1) * 2 ^ f.mbits

/-- The code of the largest finite value M (R158). -/
def maxCode (f : FFmt) : Nat :=
  match f.special with
  | .ieee => f.inf - 1
  | .e4m3 => 0x7E
  | .none => f.sign - 1

end FFmt

/-- An exact value: NaN, an infinity, or (−1)^neg × m × 2^e, zeros with their sign. -/
inductive FVal where
  | nan
  | inf (neg : Bool)
  | fin (neg : Bool) (m : Nat) (e : Int)
  deriving DecidableEq, Repr

namespace FVal

def isNan : FVal → Bool | .nan => true | _ => false
def isZero : FVal → Bool | .fin _ m _ => m == 0 | _ => false
def isInf : FVal → Bool | .inf _ => true | _ => false
/-- The sign bit. -/
def isNeg : FVal → Bool | .nan => false | .inf n => n | .fin n _ _ => n
def zero : FVal := .fin false 0 0

/-- The value of an integer, +0 for zero. -/
def ofInt (i : Int) : FVal := .fin (i < 0) i.natAbs 0

/-- The value i × 2^e, with the sign of a zero given. -/
def ofScaled (i : Int) (e : Int) (negZero : Bool) : FVal := if i = 0 then .fin negZero 0 0 else .fin (i < 0) i.natAbs e

def neg : FVal → FVal
  | .nan => .nan
  | .inf n => .inf (!n)
  | .fin n m e => .fin (!n) m e
def abs : FVal → FVal
  | .nan => .nan
  | .inf _ => .inf false
  | .fin _ m e => .fin false m e

/-- A finite value as a multiple of 2^e, exact when e is at most its exponent. -/
def scaleTo (v : FVal) (e : Int) : Int :=
  match v with
  | .fin n m x => let k : Nat := m * 2 ^ (x - e).toNat; if n then -(k : Int) else k
  | _ => 0

/-- The exponent of a value. -/
def exp : FVal → Int | .fin _ _ e => e | _ => 0

/-- The exact product (R173). -/
def mul : FVal → FVal → FVal
  | .nan, _ => .nan
  | _, .nan => .nan
  | .inf a, b => if b.isZero then .nan else .inf (a != b.isNeg)
  | a, .inf b => if a.isZero then .nan else .inf (a.isNeg != b)
  | .fin a m e, .fin b k f => .fin (a != b) (m * k) (e + f)

/-- The exact sum of a list; an exact zero is −0 when every term is −0, otherwise +0, or −0 under RDN unless every term is a
zero of one sign (R123). -/
def sum (rdn : Bool) (vs : List FVal) : FVal :=
  if vs.any isNan then .nan
  else if vs.any (· == .inf true) then (if vs.any (· == .inf false) then .nan else .inf true)
  else if vs.any (· == .inf false) then .inf false
  else
    let nz := vs.filter fun v => !v.isZero
    match nz with
    | [] => if vs.all isNeg && !vs.isEmpty then .fin true 0 0 else .fin (rdn && vs.any isNeg) 0 0
    | v :: rest =>
      let e := rest.foldl (fun e w => if w.exp < e then w.exp else e) v.exp
      ofScaled (nz.foldl (fun acc w => acc + w.scaleTo e) 0) e rdn

def add (rdn : Bool) (a b : FVal) : FVal := sum rdn [a, b]

/-- Multiplication by a power of two. -/
def scale (v : FVal) (k : Int) : FVal :=
  match v with
  | .fin n m e => .fin n m (e + k)
  | v => v

/-- Comparison of numbers; −0 equals +0. The result is less than, equal to or greater than 0. -/
def cmp (a b : FVal) : Int :=
  match a, b with
  | .nan, _ | _, .nan => 0
  | .inf x, .inf y => if x = y then 0 else if x then -1 else 1
  | .inf x, _ => if x then -1 else 1
  | _, .inf y => if y then 1 else -1
  | a, b =>
    let e := if a.exp < b.exp then a.exp else b.exp
    a.scaleTo e - b.scaleTo e

def lt (a b : FVal) : Bool := !a.isNan && !b.isNan && cmp a b < 0
def eq (a b : FVal) : Bool := !a.isNan && !b.isNan && cmp a b == 0
def le (a b : FVal) : Bool := !a.isNan && !b.isNan && cmp a b ≤ 0

/-- The order of the minimum and maximum forms, with −0 below +0 (R131). -/
def below (a b : FVal) : Bool := lt a b || (a.isZero && b.isZero && a.isNeg && !b.isNeg)

end FVal

/-- The value of a code (R158). -/
def FFmt.decode (f : FFmt) (code : Nat) : FVal :=
  let c := code % 2 ^ f.width
  let n := c ≥ f.sign
  let mag := c % f.sign
  let e := mag / 2 ^ f.mbits
  let m := mag % 2 ^ f.mbits
  if f.special == .ieee && e == 2 ^ f.ebits - 1 then (if m == 0 then .inf n else .nan)
  else if f.special == .e4m3 && mag == 0x7F then .nan
  else if e == 0 then .fin n m (1 - (f.bias : Int) - f.mbits)
  else .fin n (2 ^ f.mbits + m) ((e : Int) - f.bias - f.mbits)

/-- A code is a subnormal: exponent field zero, mantissa not zero (R158). -/
def FFmt.isSub (f : FFmt) (code : Nat) : Bool :=
  let mag := code % f.sign
  mag != 0 && mag < 2 ^ f.mbits

/-- A code read under FIN: a subnormal reads as zero of its sign (R122). -/
def FFmt.decodeIn (f : FFmt) (fin : Bool) (code : Nat) : FVal :=
  if fin && f.isSub code then .fin (code % 2 ^ f.width ≥ f.sign) 0 0 else f.decode code

/-- How a magnitude between a and a + 1 grid steps is chosen: `rem` of `den` steps lie above a (R166, R169). -/
def roundUp (mode : Nat) (neg odd : Bool) (rem den draw : Nat) : Bool :=
  match mode with
  | 1 => false
  | 2 => neg && rem != 0
  | 3 => !neg && rem != 0
  | 4 => 2 * rem ≥ den
  | 5 => draw < rem * 2 ^ 32 / den
  | _ => 2 * rem > den || (2 * rem == den && odd)

/-- Round the magnitude m × 2^e to a whole number of 2^q: the number of steps, and whether the choice was away from zero. -/
def roundSteps (mode : Nat) (neg : Bool) (m : Nat) (e q : Int) (draw : Nat) : Nat × Bool :=
  if e ≥ q then (m * 2 ^ (e - q).toNat, false)
  else
    -- a quotient below 2^-39 rounds alike however small it is
    let den := 2 ^ Nat.min (q - e).toNat (Nat.log2 m + 40)
    let a := m / den
    if roundUp mode neg (a % 2 == 1) (m % den) den draw then (a + 1, true) else (a, false)

/-- Round a value once into a format: the code. `mode` is an RND code of R112, `draw` the lane's draw under the stochastic
code (R166, R167, R170). -/
def FFmt.round (f : FFmt) (mode : Nat) (sat : Bool) (draw : Nat) (v : FVal) : Nat :=
  match v with
  | .nan => f.nan
  | .inf n =>
    let s := if n then f.sign else 0
    if sat then s + f.maxCode
    else match f.special with
      | .ieee => s + f.inf
      | .e4m3 => f.nan
      | .none => s + f.maxCode
  | .fin n m e =>
    let s := if n then f.sign else 0
    if m = 0 then s
    else
      let top : Int := (Nat.log2 m : Int) + e
      let low : Int := 1 - (f.bias : Int)
      let q : Int := (if top < low then low else top) - f.mbits
      let (k, up) := roundSteps mode n m e q draw
      -- the code of k × 2^q on the unbounded grid: k carries its hidden bit into the exponent field
      let mag := k + (q + f.mbits - low).toNat * 2 ^ f.mbits
      if mag ≤ f.maxCode then s + mag
      else if sat then s + f.maxCode
      else
        let away := mode == 0 || mode == 4 || mode ≥ 6 || (mode == 2 && n) || (mode == 3 && !n) || (mode == 5 && up)
        if away then
          match f.special with
          | .ieee => s + f.inf
          | .e4m3 => f.nan
          | .none => s + f.maxCode
        else s + f.maxCode

/-- FOUT: a subnormal result becomes zero of its sign (R122, R168). -/
def FFmt.flush (f : FFmt) (fout : Bool) (code : Nat) : Nat :=
  if fout && f.isSub code then (if code ≥ f.sign then f.sign else 0) else code

/-- Round a value to an integer in a mode (R166), none for NaN and infinities. -/
def FVal.roundInt (mode : Nat) (draw : Nat) : FVal → Int
  | .fin n m e => let k := (roundSteps mode n m e 0 draw).1; if n then -(k : Int) else k
  | _ => 0

/-- An integer held within a range. -/
def clampInt (lo hi v : Int) : Int := if v < lo then lo else if v > hi then hi else v

/-- A float value to an integer range, rounded and clamped, NaN giving 0 (R134, R170). -/
def FVal.toRange (mode : Nat) (draw : Nat) (lo hi : Int) : FVal → Int
  | .nan => 0
  | .inf n => if n then lo else hi
  | v => clampInt lo hi (v.roundInt mode draw)

/-- A control word's RND and SAT fields of a class (R112). -/
def rmodeRnd (rmode : Word) (c : Nat) : Nat := bits rmode.toNat (4 * c + 2) (4 * c)
def rmodeSat (rmode : Word) (c : Nat) : Bool := bit rmode.toNat (4 * c + 3)
/-- FTZM's FIN and FOUT of a class (R112). -/
def ftzmIn (ftzm : Word) (c : Nat) : Bool := bit ftzm.toNat (2 * c)
def ftzmOut (ftzm : Word) (c : Nat) : Bool := bit ftzm.toNat (2 * c + 1)

/-- One draw of a lane's generator: the new state and the number drawn (R169). -/
def draw (x : DWord) : DWord × Nat :=
  let a := x ^^^ (x <<< 13)
  let b := a ^^^ (a >>> 7)
  let c := b ^^^ (b <<< 17)
  (c, c.toNat / 2 ^ 32)

/-- A lane's generator at group start (R169). -/
def seedGen (seed : DWord) (team gid lane : Nat) : DWord :=
  let x := (seed ^^^ BitVec.ofNat 64 (team * 1024 ||| gid * 32 ||| lane)) * 0x9E3779B97F4A7C15
  if x == 0 then 1 else x

/-- f32 addition of `fadd` atomics (R103): modes without stochastic, subnormals kept. -/
def faddF32 (rnd : Nat) (sat : Bool) (a b : Nat) : Nat :=
  let m := if rnd == 5 then 0 else rnd
  FFmt.f32.round m sat 0 (FVal.add (m == 2) (FFmt.f32.decode a) (FFmt.f32.decode b))

/-! Format codes of memory, tiles and records (R162). -/

/-- An element format: float, signed or unsigned integer of a width, or the ±1 bit (R158, R159). -/
inductive Elem where
  | flt (f : FFmt)
  | sint (w : Nat)
  | uint (w : Nat)
  | b1
  deriving DecidableEq, Repr

def Elem.width : Elem → Nat
  | .flt f => f.width
  | .sint w => w
  | .uint w => w
  | .b1 => 1

/-- The class of an element format (R121). -/
def Elem.cls : Elem → Nat
  | .flt f => f.cls
  | _ => 7

def Elem.decode (e : Elem) (code : Nat) : FVal :=
  match e with
  | .flt f => f.decode code
  | .sint w => FVal.ofInt (signed w code)
  | .uint w => FVal.ofInt ((code % 2 ^ w : Nat) : Int)
  | .b1 => FVal.ofInt (if code % 2 = 0 then 1 else -1)

/-- The element format of a format code 0x00 to 0x1B, the SBP codes aside (R162). -/
def fmtElem : Nat → Option Elem
  | 0x00 => some (.flt .f64) | 0x01 => some (.flt .f32) | 0x02 => some (.flt .bf16) | 0x03 => some (.flt .f16)
  | 0x04 | 0x10 | 0x19 => some (.flt .e4m3) | 0x05 | 0x11 => some (.flt .e5m2)
  | 0x06 | 0x12 | 0x1A => some (.flt .e3m2) | 0x07 | 0x13 | 0x1B => some (.flt .e2m3)
  | 0x08 | 0x14 | 0x15 => some (.flt .e2m1) | 0x09 => some (.sint 16) | 0x0A | 0x16 => some (.sint 8)
  | 0x0B => some (.uint 8) | 0x0C | 0x17 | 0x18 => some (.sint 4) | 0x0D => some (.uint 4) | 0x0E => some (.sint 2)
  | 0x0F => some .b1 | _ => none

/-- The block length of a block-scaled format code (R162). -/
def fmtBlock : Nat → Nat
  | 0x10 | 0x11 | 0x16 | 0x19 => 32
  | 0x12 | 0x13 | 0x14 | 0x15 | 0x17 | 0x18 | 0x1A | 0x1B => 8
  | _ => 0

def fmtScaled (c : Nat) : Bool := 0x10 ≤ c && c ≤ 0x1B
def fmtSbp (c : Nat) : Bool := 0x1C ≤ c && c ≤ 0x1F
/-- The +band formats (R162). -/
def fmtBand (c : Nat) : Bool := [0x15, 0x18, 0x19, 0x1A, 0x1B, 0x1D, 0x1F].contains c

/-- The element width of a format code in bits; an SBP record and a raw byte count as units of 256 and 8 bits. -/
def fmtWidth (c : Nat) : Nat :=
  if c == 0x20 then 8 else if fmtSbp c then 256 else match fmtElem c with | some e => e.width | none => 8

end Sys2Proof.Machine
end

