-- ==== Sys2Proof/Decode.lean ====
section
/-! DEFINITION. Decoding of scalar words (R74 to R80), of clause headers (R82) and of lane words (R81 to R90), total on any
bits and refusing by name, and after it the encoder written from the same tables. -/

namespace Sys2Proof

/-- Why a word is not an instruction. All are ILLEGAL_ENCODING (R80, R90) but `headerMark`, opcode 0xFF inside a clause
body, which is ILLEGAL_CLAUSE (R81). -/
inductive DecodeError where
  | unassignedOpcode
  | unassignedFunction
  | mustBeZero
  | controlRegister
  | headerMark
  | unassignedCode
  | tokens
  deriving DecidableEq, Repr

/-- The fields of a scalar word in the SR and SE layouts (R74). The SI immediate is b and fn, the SJ offset a, b and fn. -/
structure ScalarFields where
  op : BitVec 6
  d  : BitVec 5
  a  : BitVec 5
  b  : BitVec 5
  fn : BitVec 11
  deriving DecidableEq, Repr

namespace ScalarFields

def ofWord (w : Word) : ScalarFields :=
  { op := w.extractLsb' 26 6, d := w.extractLsb' 21 5, a := w.extractLsb' 16 5, b := w.extractLsb' 11 5,
    fn := w.extractLsb' 0 11 }

def toWord (f : ScalarFields) : Word := f.op ++ f.d ++ f.a ++ f.b ++ f.fn

/-- imm16 (R74). -/
def imm (f : ScalarFields) : BitVec 16 := f.b ++ f.fn
/-- The 21-bit offset or clause index (R75). -/
def off (f : ScalarFields) : BitVec 21 := f.a ++ f.b ++ f.fn
/-- The predicate form of the c field (R75). -/
def pred (f : ScalarFields) : BitVec 3 := f.d.extractLsb' 2 3
def neg (f : ScalarFields) : Bool := f.d.getLsbD 1

end ScalarFields

/-- Accept an instruction when its must-be-zero fields are zero (R80). -/
def zeroIf (c : Bool) (i : Instr) : Except DecodeError Instr := if c then .ok i else .error .mustBeZero

/-- ALU-R, opcode 0x00, by its function code (R78). -/
def decodeAlu (f : ScalarFields) : Except DecodeError Instr :=
  match (f.fn.extractLsb' 0 5).toNat with
  | 0 => zeroIf (f.fn.extractLsb' 5 6 == 0) (.add f.d f.a f.b)
  | 1 => zeroIf (f.fn.extractLsb' 5 6 == 0) (.sub f.d f.a f.b)
  | 2 => zeroIf (f.fn.extractLsb' 5 6 == 0) (.mul f.d f.a f.b)
  | 3 => zeroIf (f.fn.extractLsb' 5 6 == 0) (.mulhi f.d f.a f.b)
  | 4 => zeroIf (f.fn.extractLsb' 5 6 == 0) (.mulhu f.d f.a f.b)
  | 5 => zeroIf (f.fn.extractLsb' 5 6 == 0) (.and f.d f.a f.b)
  | 6 => zeroIf (f.fn.extractLsb' 5 6 == 0) (.or f.d f.a f.b)
  | 7 => zeroIf (f.fn.extractLsb' 5 6 == 0) (.xor f.d f.a f.b)
  | 8 => zeroIf (f.fn.extractLsb' 5 6 == 0) (.shl f.d f.a f.b)
  | 9 => zeroIf (f.fn.extractLsb' 5 6 == 0) (.shr f.d f.a f.b)
  | 10 => zeroIf (f.fn.extractLsb' 5 6 == 0) (.sra f.d f.a f.b)
  | 11 => zeroIf (f.fn.extractLsb' 5 6 == 0) (.min f.d f.a f.b)
  | 12 => zeroIf (f.fn.extractLsb' 5 6 == 0) (.max f.d f.a f.b)
  | 13 => zeroIf (f.fn.extractLsb' 5 6 == 0) (.minu f.d f.a f.b)
  | 14 => zeroIf (f.fn.extractLsb' 5 6 == 0) (.maxu f.d f.a f.b)
  | 15 => zeroIf (f.fn.extractLsb' 5 6 == 0) (.slt f.d f.a f.b)
  | 16 => zeroIf (f.fn.extractLsb' 5 6 == 0) (.sltu f.d f.a f.b)
  | 17 => zeroIf (f.fn.extractLsb' 5 6 == 0) (.seq f.d f.a f.b)
  | 18 => zeroIf (f.fn.extractLsb' 5 6 == 0) (.divu f.d f.a f.b)
  | 19 => zeroIf (f.fn.extractLsb' 5 6 == 0) (.remu f.d f.a f.b)
  | 20 => zeroIf (f.fn.extractLsb' 5 6 == 0 && f.b == 0) (.popc f.d f.a)
  | 21 => zeroIf (f.fn.extractLsb' 5 6 == 0 && f.b == 0) (.clz f.d f.a)
  | 22 => zeroIf (f.fn.extractLsb' 5 6 == 0 && f.b == 0) (.ctz f.d f.a)
  | 23 => zeroIf (f.fn.extractLsb' 5 6 == 0 && f.b == 0) (.brev f.d f.a)
  | _ => .error .unassignedFunction

/-- `mtc`, opcode 0x1D, by its control register (R49, R76, R111). -/
def decodeMtc (f : ScalarFields) : Except DecodeError Instr :=
  let n := f.imm.toNat % 4096
  if f.d != 0 || f.imm.toNat / 4096 != 0 then .error .mustBeZero
  else if n == 0 then .ok (.mtcExec f.a)
  else if n == 1 then .ok (.mtc f.a .rmode)
  else if n == 2 then .ok (.mtc f.a .ftzm)
  else if n == 3 then .ok (.mtc f.a .lbase)
  else if n / 16 == 1 then .ok (.mtcTcfg f.a (f.fn.extractLsb' 0 4))
  else if n / 16 == 2 then .ok (.mtcBd f.a (f.fn.extractLsb' 0 4))
  else if n / 16 == 3 then .ok (.mtcQdep f.a (f.fn.extractLsb' 0 4))
  else if n / 8 == 8 then .ok (.mtcG f.a (f.fn.extractLsb' 0 3))
  else if n == 0x60 then .ok (.mtcFabw f.a)
  else .error .controlRegister

/-- `mloop`, opcode 0x22, by its kind in ctl[10:9] (R178). -/
def decodeMloop (f : ScalarFields) : Except DecodeError Instr :=
  let z := f.fn.getLsbD 8
  let tc := f.fn.extractLsb' 4 4
  let ta := f.fn.extractLsb' 0 4
  match (f.fn.extractLsb' 9 2).toNat with
  | 0 => zeroIf (f.b == 0) (.mloop f.d f.a z tc ta)
  | 1 => zeroIf (f.b == 0) (.mloopSbp f.d f.a z tc ta)
  | 2 => .ok (.mloopDirect f.d f.a f.b z tc ta)
  | _ => .error .unassignedFunction

/-- `bar`, opcode 0x26, by its variant in ctl[2:0] (R77, R283). -/
def decodeBar (f : ScalarFields) : Except DecodeError Instr :=
  let z := f.fn.extractLsb' 3 8 == 0
  match (f.fn.extractLsb' 0 3).toNat with
  | 0 => zeroIf (z && f.b == 0) (.barMark f.d f.a)
  | 1 => zeroIf z (.barHold f.d f.a f.b)
  | 2 => zeroIf (z && f.b == 0) (.barJoin f.d f.a)
  | 3 => zeroIf z (.barOwe f.d f.a f.b)
  | 4 => zeroIf z (.barMarkn f.d f.a f.b)
  | _ => .error .unassignedFunction

/-- The scalar opcode map (R77). -/
def decodeFields (f : ScalarFields) : Except DecodeError Instr :=
  match f.op.toNat with
  | 0x00 => decodeAlu f
  | 0x01 => .ok (.addi f.d f.a f.imm)
  | 0x02 => .ok (.andi f.d f.a f.imm)
  | 0x03 => .ok (.ori f.d f.a f.imm)
  | 0x04 => .ok (.xori f.d f.a f.imm)
  | 0x05 => zeroIf (f.imm.extractLsb' 5 11 == 0) (.shli f.d f.a (f.fn.extractLsb' 0 5))
  | 0x06 => zeroIf (f.imm.extractLsb' 5 11 == 0) (.shri f.d f.a (f.fn.extractLsb' 0 5))
  | 0x07 => zeroIf (f.imm.extractLsb' 5 11 == 0) (.srai f.d f.a (f.fn.extractLsb' 0 5))
  | 0x08 => .ok (.slti f.d f.a f.imm)
  | 0x09 => zeroIf (f.a == 0) (.lui f.d f.imm)
  | 0x0A => .ok (.muli f.d f.a f.imm)
  | 0x0B => .ok (.sld f.d f.a f.imm)
  | 0x0C => .ok (.sld2 f.d f.a f.imm)
  | 0x0D => .ok (.sst f.d f.a f.imm)
  | 0x0E => .ok (.sst2 f.d f.a f.imm)
  | 0x0F => .ok (.satom f.d f.a f.b
      { size := f.fn.getLsbD 10, order := f.fn.extractLsb' 7 3, scope := f.fn.extractLsb' 4 3, aop := f.fn.extractLsb' 0 4 })
  | 0x10 => zeroIf (f.d == 0) (.b f.off)
  | 0x11 => .ok (.bz f.d f.off)
  | 0x12 => .ok (.bnz f.d f.off)
  | 0x13 => zeroIf (!f.d.getLsbD 0) (.bany f.pred f.neg f.off)
  | 0x14 => zeroIf (!f.d.getLsbD 0) (.ball f.pred f.neg f.off)
  | 0x15 => zeroIf (!f.d.getLsbD 0) (.bnone f.pred f.neg f.off)
  | 0x16 => zeroIf (!f.d.getLsbD 0) (.split f.pred f.neg f.off)
  | 0x17 => zeroIf (f.d == 0) (.call f.off)
  | 0x18 => zeroIf (f.d == 0 && f.a == 0 && f.b == 0 && f.fn == 0) .ret
  | 0x19 => zeroIf (f.d == 0 && f.b == 0 && f.fn == 0) (.bx f.a)
  | 0x1A => zeroIf (!f.d.getLsbD 0) (.run f.pred f.neg f.off)
  | 0x1B => zeroIf (f.d == 0 && f.b == 0 && f.fn.extractLsb' 4 7 == 0) (.runx f.a (f.fn.extractLsb' 0 3) (f.fn.getLsbD 3))
  | 0x1C => zeroIf (f.d == 0 && f.a == 0 && f.imm.extractLsb' 12 4 == 0) (.waitk (f.imm.extractLsb' 0 12))
  | 0x1D => decodeMtc f
  | 0x1E => zeroIf (f.a == 0 && f.imm.extractLsb' 12 4 == 0) (.mfc f.d (f.imm.extractLsb' 0 12))
  | 0x20 => zeroIf (f.fn.extractLsb' 8 3 == 0 && f.fn.extractLsb' 3 4 == 0)
      (.cpy f.d f.a f.b (f.fn.getLsbD 7) (f.fn.extractLsb' 0 3))
  | 0x21 => zeroIf (f.fn.extractLsb' 8 3 == 0 && f.fn.extractLsb' 3 4 == 0)
      (.cpys f.d f.a f.b (f.fn.getLsbD 7) (f.fn.extractLsb' 0 3))
  | 0x22 => decodeMloop f
  | 0x23 => zeroIf (f.b == 0 && f.fn.extractLsb' 3 8 == 0) (.siph f.d f.a (f.fn.extractLsb' 0 3))
  | 0x24 => zeroIf (f.b == 0 && f.fn.extractLsb' 1 10 == 0) (.lnch f.d f.a (f.fn.getLsbD 0))
  | 0x26 => decodeBar f
  | 0x27 => zeroIf (f.d == 0 && f.a == 0 && f.b == 0 && f.fn.extractLsb' 6 5 == 0)
      (.fence (f.fn.getLsbD 5) (f.fn.extractLsb' 3 2) (f.fn.extractLsb' 0 3))
  | 0x28 => zeroIf (f.d == 0 && f.a == 0 && f.b == 0 && f.fn.extractLsb' 8 3 == 0) (.qfence (f.fn.extractLsb' 0 8))
  | 0x2A => zeroIf (f.a == 0 && f.fn.extractLsb' 1 10 == 0) (.stepq f.d f.b (f.fn.getLsbD 0))
  | 0x2B => zeroIf (f.a == 0 && f.fn.extractLsb' 1 10 == 0) (.stepp f.d f.b (f.fn.getLsbD 0))
  | 0x30 => zeroIf (f.d == 0 && f.a == 0) (.trap f.imm)
  | 0x31 => zeroIf (f.d == 0 && f.a == 0 && f.imm == 0) .exit
  | 0x32 => zeroIf (f.d == 0 && f.a == 0 && f.imm == 0) .yield
  | 0x33 => zeroIf (f.d == 0 && f.a == 0 && f.imm == 0) .nop
  | _ => .error .unassignedOpcode

/-- The scalar decoder: total on every word. -/
def decodeScalar (w : Word) : Except DecodeError Instr := decodeFields (ScalarFields.ofWord w)

/-- The clause header (R82). -/
structure Header where
  n    : BitVec 4
  wait : BitVec 12
  aen  : Bool
  fla  : BitVec 4
  ben  : Bool
  flb  : BitVec 4
  deriving DecidableEq, Repr

/-- The header of a 96-bit word, none where R82 refuses it. -/
def decodeHeader (w : BitVec 96) : Option Header :=
  let h : Header := { n := w.extractLsb' 84 4, wait := w.extractLsb' 72 12, aen := w.getLsbD 71, fla := w.extractLsb' 67 4,
                      ben := w.getLsbD 66, flb := w.extractLsb' 62 4 }
  if w.extractLsb' 88 8 == 0xFF && h.n != 0 && h.fla.toNat < 12 && h.flb.toNat < 12 && w.extractLsb' 0 62 == 0 &&
     !(h.aen && h.ben && h.fla == h.flb) && (h.aen || h.fla == 0) && (h.ben || h.flb == 0)
  then some h else none

/-- The header's word. -/
def encodeHeader (h : Header) : BitVec 96 :=
  (0xFF : BitVec 8) ++ h.n ++ h.wait ++ BitVec.ofBool h.aen ++ h.fla ++ BitVec.ofBool h.ben ++ h.flb ++ (0 : BitVec 62)

/-- The fields of a lane word that every format places alike, and the 52 bits that each format reads in its own way. -/
structure LaneFields where
  op    : BitVec 8
  guard : BitVec 3
  gneg  : Bool
  all   : Bool
  fs    : Bool
  zero  : BitVec 2
  d     : BitVec 7
  a     : BitVec 7
  b     : BitVec 7
  c     : BitVec 7
  low   : BitVec 52
  deriving DecidableEq, Repr

namespace LaneFields

def ofWord (w : BitVec 96) : LaneFields :=
  { op := w.extractLsb' 88 8, guard := w.extractLsb' 85 3, gneg := w.getLsbD 84, all := w.getLsbD 83, fs := w.getLsbD 82,
    zero := w.extractLsb' 80 2, d := w.extractLsb' 73 7, a := w.extractLsb' 66 7, b := w.extractLsb' 59 7,
    c := w.extractLsb' 52 7, low := w.extractLsb' 0 52 }

def toWord (f : LaneFields) : BitVec 96 :=
  f.op ++ f.guard ++ BitVec.ofBool f.gneg ++ BitVec.ofBool f.all ++ BitVec.ofBool f.fs ++ f.zero ++ f.d ++ f.a ++ f.b ++ f.c ++ f.low

def head (f : LaneFields) : LaneHead := { guard := f.guard, gneg := f.gneg, all := f.all, fs := f.fs, d := f.d }

/-- The common part of a lane word from an instruction's head and operand fields. -/
def ofHead (op : BitVec 8) (h : LaneHead) (a b c : BitVec 7) (low : BitVec 52) : LaneFields :=
  { op := op, guard := h.guard, gneg := h.gneg, all := h.all, fs := h.fs, zero := 0, d := h.d, a := a, b := b, c := c, low := low }

end LaneFields

def RndField.ofCode : Nat → Option RndField
  | 0 => some .rmode | 1 => some .rne | 2 => some .rz | 3 => some .rdn | 4 => some .rup | 5 => some .rna | 6 => some .stoch | _ => none
def RndField.code : RndField → Nat
  | .rmode => 0 | .rne => 1 | .rz => 2 | .rdn => 3 | .rup => 4 | .rna => 5 | .stoch => 6
def SatField.ofCode : Nat → Option SatField
  | 0 => some .rmode | 1 => some .none | 2 => some .sat | _ => Option.none
def SatField.code : SatField → Nat
  | .rmode => 0 | .none => 1 | .sat => 2
def Width.ofCode : Nat → Option Width
  | 0 => some .w8 | 1 => some .w16 | 2 => some .w32 | 3 => some .w64 | 4 => some .w128 | 5 => some .sector | _ => none
def Width.code : Width → Nat
  | .w8 => 0 | .w16 => 1 | .w32 => 2 | .w64 => 3 | .w128 => 4 | .sector => 5
def Scope.ofCode : Nat → Option Scope
  | 0 => some .group | 1 => some .team | 2 => some .cluster | 3 => some .die | 4 => some .device | 5 => some .system | _ => none
def Scope.code : Scope → Nat
  | .group => 0 | .team => 1 | .cluster => 2 | .die => 3 | .device => 4 | .system => 5
def Order.ofCode : Nat → Option Order
  | 0 => some .plain | 1 => some .relaxed | 2 => some .acquire | 3 => some .release | 4 => some .acqRel | 5 => some .seqCst | _ => none
def Order.code : Order → Nat
  | .plain => 0 | .relaxed => 1 | .acquire => 2 | .release => 3 | .acqRel => 4 | .seqCst => 5
def Hint.ofCode : Nat → Option Hint
  | 0 => some .dflt | 1 => some .streaming | 2 => some .keepL1 | 3 => some .bypassL1 | 4 => some .keepL2 | _ => none
def Hint.code : Hint → Nat
  | .dflt => 0 | .streaming => 1 | .keepL1 => 2 | .bypassL1 => 3 | .keepL2 => 4
def XType.ofCode : Nat → Option XType
  | 0 => some .f32 | 1 => some .f16x2 | 2 => some .bf16x2 | 3 => some .i32 | _ => none
def XType.code : XType → Nat
  | .f32 => 0 | .f16x2 => 1 | .bf16x2 => 2 | .i32 => 3
def Tok.ofCode : Nat → Option Tok
  | 0 => some .a | 1 => some .b | 2 => some .c | 3 => some .d | 4 => some .add | 5 => some .sub | 6 => some .mul | 7 => some .min
  | 8 => some .max | 9 => some .fma | 10 => some .neg | 11 => some .abs | 12 => some .dup | 13 => some .swap | 14 => some .sat01
  | _ => none
def Tok.code : Tok → Nat
  | .a => 0 | .b => 1 | .c => 2 | .d => 3 | .add => 4 | .sub => 5 | .mul => 6 | .min => 7 | .max => 8 | .fma => 9 | .neg => 10
  | .abs => 11 | .dup => 12 | .swap => 13 | .sat01 => 14

/-- The tokens of an LX word from token codes in order (R88): reading stops at the first end, after which every code is 15. -/
def decodeToks : List Nat → Option (List Tok)
  | [] => some []
  | n :: ns =>
    match Tok.ofCode n with
    | some t => (decodeToks ns).map (t :: ·)
    | none => if ns.all (· == 15) then some [] else none

/-- The LA instruction of an opcode (R89). -/
def laOf : Nat → Option (LA → Instr)
  | 0x00 => some .iadd
  | 0x01 => some .isub
  | 0x02 => some .imul
  | 0x03 => some .imulhi
  | 0x04 => some .imad
  | 0x05 => some .imin
  | 0x06 => some .imax
  | 0x07 => some .iabs
  | 0x08 => some .laneAnd
  | 0x09 => some .laneOr
  | 0x0A => some .laneXor
  | 0x0B => some .not
  | 0x0C => some .laneShl
  | 0x0D => some .laneShr
  | 0x0E => some .laneSra
  | 0x0F => some .rot
  | 0x10 => some .lanePopc
  | 0x11 => some .laneClz
  | 0x12 => some .laneBrev
  | 0x13 => some .bfe
  | 0x14 => some .bfi
  | 0x15 => some .iaddc
  | 0x16 => some .isad
  | 0x17 => some .lea
  | 0x18 => some .idiv
  | 0x19 => some .irem
  | 0x1A => some .mov
  | 0x1B => some .iclamp
  | 0x20 => some .fadd
  | 0x21 => some .fsub
  | 0x22 => some .fmul
  | 0x23 => some .ffma
  | 0x24 => some .fmin
  | 0x25 => some .fmax
  | 0x26 => some .fminnum
  | 0x27 => some .frnd
  | 0x28 => some .fscale
  | 0x29 => some .fclass
  | 0x2A => some .fdot2
  | 0x2B => some .fdot4
  | 0x2C => some .fmid
  | 0x2D => some .ffract
  | 0x2E => some .fcopysign
  | 0x40 => some .cvt
  | 0x41 => some .cvtb
  | 0x42 => some .pack
  | 0x43 => some .unpk
  | 0x50 => some .icmp
  | 0x51 => some .fcmp
  | 0x52 => some .sel
  | 0x53 => some .pset
  | 0x54 => some .pmov
  | 0x55 => some .vote
  | 0x60 => some .shfl
  | 0x61 => some .shfli
  | 0x62 => some .qmix
  | 0x63 => some .xpose
  | 0x64 => some .bcast
  | 0x65 => some .compact
  | 0x66 => some .mapget
  | 0x67 => some .mapset
  | 0x68 => some .mat
  | 0x69 => some .permld
  | 0x70 => some .scan
  | 0x71 => some .dacc
  | 0x72 => some .wrnd
  | 0x73 => some .wclr
  | 0x74 => some .wadd
  | 0x75 => some .wmov
  | 0xB0 => some .rcp
  | 0xB1 => some .rsq
  | 0xB2 => some .sqrt
  | 0xB3 => some .exp2
  | 0xB4 => some .log2
  | 0xB5 => some .sin
  | 0xB6 => some .cos
  | 0xB7 => some .tanh
  | 0xB8 => some .erf
  | 0xC8 => some .ivmk
  | 0xC9 => some .ivlo
  | 0xCA => some .ivhi
  | 0xCB => some .ivtest
  | 0xF0 => some .nopl
  | 0xF1 => some .ltrap
  | 0xF2 => some .lclk
  | _ => none

/-- The LM instruction of an opcode (R89). -/
def lmOf : Nat → Option (LM → Instr)
  | 0x80 => some .ld
  | 0x81 => some .st
  | 0x82 => some .ldb
  | 0x83 => some .stb
  | 0x84 => some .lds
  | 0x85 => some .sts
  | 0x86 => some .ldw
  | 0x87 => some .stw
  | 0x88 => some .ldt
  | 0x89 => some .atom
  | 0x8A => some .atoms
  | 0x8B => some .atomw
  | 0x8C => some .conf
  | 0x8D => some .tagld
  | 0x8E => some .tagst
  | 0x8F => some .pref
  | 0xA0 => some .qcnt
  | _ => none

/-- The LA fields (R84). -/
def decodeLA (f : LaneFields) : Option LA :=
  match LType.ofCode (f.low.extractLsb' 47 5).toNat, RndField.ofCode (f.low.extractLsb' 44 3).toNat,
        SatField.ofCode (f.low.extractLsb' 42 2).toNat with
  | some ty, some rnd, some st =>
    some { h := f.head, a := f.a, b := f.b, c := f.c, ty := ty, rnd := rnd, sat := st, aneg := f.low.getLsbD 41,
           aabs := f.low.getLsbD 40, bneg := f.low.getLsbD 39, cneg := f.low.getLsbD 38, imm := f.low.getLsbD 37,
           fmod := f.low.extractLsb' 32 5, imm32 := f.low.extractLsb' 0 32 }
  | _, _, _ => none

/-- The LM fields (R85). -/
def decodeLM (f : LaneFields) : Option LM :=
  match Width.ofCode (f.low.extractLsb' 45 3).toNat, Scope.ofCode (f.low.extractLsb' 42 3).toNat,
        Order.ofCode (f.low.extractLsb' 39 3).toNat, Hint.ofCode (f.low.extractLsb' 36 3).toNat with
  | some width, some scope, some order, some hint =>
    some { h := f.head, a := f.a, b := f.b, c := f.c, bd := f.low.extractLsb' 48 4, width := width, scope := scope, order := order,
           hint := hint, fmod := f.low.extractLsb' 32 4, off := f.low.extractLsb' 0 32 }
  | _, _, _, _ => none

/-- The LX fields (R87). -/
def decodeLX (f : LaneFields) : Except DecodeError LX :=
  match XType.ofCode (f.low.extractLsb' 49 3).toNat,
        decodeToks ((List.range 12).map fun j => (f.low.extractLsb' (4 * j) 4).toNat) with
  | some ty, some toks =>
    if f.low.getLsbD 48 then .error .mustBeZero else .ok { h := f.head, a := f.a, b := f.b, c := f.c, ty := ty, toks := toks }
  | none, _ => .error .unassignedCode
  | _, none => .error .tokens

/-- The lane opcode map and the fields of each format (R81, R89). -/
def decodeLaneFields (f : LaneFields) : Except DecodeError Instr :=
  if f.op == 0xFF then .error .headerMark
  else match laOf f.op.toNat, lmOf f.op.toNat with
  | some k, _ =>
    if f.zero != 0 then .error .mustBeZero
    else match decodeLA f with | some x => .ok (k x) | none => .error .unassignedCode
  | none, some k =>
    if f.zero != 0 then .error .mustBeZero
    else match decodeLM f with | some x => .ok (k x) | none => .error .unassignedCode
  | none, none =>
    if f.op == 0xC0 then
      if f.zero != 0 then .error .mustBeZero else (decodeLX f).map .expr
    else .error .unassignedOpcode

/-- The lane decoder: total on every 96-bit word. The conditions of the instruction's entry are `Instr.laneWf`. -/
def decodeLane (w : BitVec 96) : Except DecodeError Instr := decodeLaneFields (LaneFields.ofWord w)

/-! The encoder. -/

/-- A word of the SI layout from its opcode, registers and immediate. -/
def si (op : BitVec 6) (d a : BitVec 5) (imm : BitVec 16) : ScalarFields :=
  { op := op, d := d, a := a, b := imm.extractLsb' 11 5, fn := imm.extractLsb' 0 11 }
/-- A word of the SJ layout. -/
def sj (op : BitVec 6) (c : BitVec 5) (off : BitVec 21) : ScalarFields :=
  { op := op, d := c, a := off.extractLsb' 16 5, b := off.extractLsb' 11 5, fn := off.extractLsb' 0 11 }
/-- The c field of the predicate form. -/
def predC (p : BitVec 3) (neg : Bool) : BitVec 5 := p ++ BitVec.ofBool neg ++ (0 : BitVec 1)

/-- The fields of the word of a scalar instruction that has operands (R74 to R79), none for any other. -/
def encodeOperandFields : Instr → Option ScalarFields
  | .add d a b => some { op := 0, d := d, a := a, b := b, fn := 0 }
  | .sub d a b => some { op := 0, d := d, a := a, b := b, fn := 1 }
  | .mul d a b => some { op := 0, d := d, a := a, b := b, fn := 2 }
  | .mulhi d a b => some { op := 0, d := d, a := a, b := b, fn := 3 }
  | .mulhu d a b => some { op := 0, d := d, a := a, b := b, fn := 4 }
  | .and d a b => some { op := 0, d := d, a := a, b := b, fn := 5 }
  | .or d a b => some { op := 0, d := d, a := a, b := b, fn := 6 }
  | .xor d a b => some { op := 0, d := d, a := a, b := b, fn := 7 }
  | .shl d a b => some { op := 0, d := d, a := a, b := b, fn := 8 }
  | .shr d a b => some { op := 0, d := d, a := a, b := b, fn := 9 }
  | .sra d a b => some { op := 0, d := d, a := a, b := b, fn := 10 }
  | .min d a b => some { op := 0, d := d, a := a, b := b, fn := 11 }
  | .max d a b => some { op := 0, d := d, a := a, b := b, fn := 12 }
  | .minu d a b => some { op := 0, d := d, a := a, b := b, fn := 13 }
  | .maxu d a b => some { op := 0, d := d, a := a, b := b, fn := 14 }
  | .slt d a b => some { op := 0, d := d, a := a, b := b, fn := 15 }
  | .sltu d a b => some { op := 0, d := d, a := a, b := b, fn := 16 }
  | .seq d a b => some { op := 0, d := d, a := a, b := b, fn := 17 }
  | .divu d a b => some { op := 0, d := d, a := a, b := b, fn := 18 }
  | .remu d a b => some { op := 0, d := d, a := a, b := b, fn := 19 }
  | .popc d a => some { op := 0, d := d, a := a, b := 0, fn := 20 }
  | .clz d a => some { op := 0, d := d, a := a, b := 0, fn := 21 }
  | .ctz d a => some { op := 0, d := d, a := a, b := 0, fn := 22 }
  | .brev d a => some { op := 0, d := d, a := a, b := 0, fn := 23 }
  | .addi d a imm => some (si 1 d a imm)
  | .andi d a imm => some (si 2 d a imm)
  | .ori d a imm => some (si 3 d a imm)
  | .xori d a imm => some (si 4 d a imm)
  | .shli d a n => some (si 5 d a (n.setWidth 16))
  | .shri d a n => some (si 6 d a (n.setWidth 16))
  | .srai d a n => some (si 7 d a (n.setWidth 16))
  | .slti d a imm => some (si 8 d a imm)
  | .lui d imm => some (si 9 d 0 imm)
  | .muli d a imm => some (si 10 d a imm)
  | .sld d a imm => some (si 11 d a imm)
  | .sld2 d a imm => some (si 12 d a imm)
  | .sst d a imm => some (si 13 d a imm)
  | .sst2 d a imm => some (si 14 d a imm)
  | .satom d a b f => some { op := 15, d := d, a := a, b := b, fn := BitVec.ofBool f.size ++ f.order ++ f.scope ++ f.aop }
  | .b off => some (sj 0x10 0 off)
  | .bz c off => some (sj 0x11 c off)
  | .bnz c off => some (sj 0x12 c off)
  | .bany p n off => some (sj 0x13 (predC p n) off)
  | .ball p n off => some (sj 0x14 (predC p n) off)
  | .bnone p n off => some (sj 0x15 (predC p n) off)
  | .split p n off => some (sj 0x16 (predC p n) off)
  | .call off => some (sj 0x17 0 off)
  | .bx a => some { op := 0x19, d := 0, a := a, b := 0, fn := 0 }
  | .run p n index => some (sj 0x1A (predC p n) index)
  | .runx a p n => some { op := 0x1B, d := 0, a := a, b := 0, fn := (0 : BitVec 7) ++ BitVec.ofBool n ++ p }
  | .waitk m => some (si 0x1C 0 0 (m.setWidth 16))
  | .mtcExec a => some (si 0x1D 0 a 0)
  | .mtc a .rmode => some (si 0x1D 0 a 1)
  | .mtc a .ftzm => some (si 0x1D 0 a 2)
  | .mtc a .lbase => some (si 0x1D 0 a 3)
  | .mtcTcfg a n => some (si 0x1D 0 a ((0x001 : BitVec 12) ++ n))
  | .mtcBd a n => some (si 0x1D 0 a ((0x002 : BitVec 12) ++ n))
  | .mtcQdep a n => some (si 0x1D 0 a ((0x003 : BitVec 12) ++ n))
  | .mtcG a n => some (si 0x1D 0 a ((0x008 : BitVec 13) ++ n))
  | .mtcFabw a => some (si 0x1D 0 a 0x60)
  | .mfc d r => some (si 0x1E d 0 (r.setWidth 16))
  | .cpy d a b bar q => some { op := 0x20, d := d, a := a, b := b, fn := (0 : BitVec 3) ++ BitVec.ofBool bar ++ (0 : BitVec 4) ++ q }
  | .cpys d a b bar q => some { op := 0x21, d := d, a := a, b := b, fn := (0 : BitVec 3) ++ BitVec.ofBool bar ++ (0 : BitVec 4) ++ q }
  | .mloop d a z tc ta => some { op := 0x22, d := d, a := a, b := 0, fn := (0 : BitVec 2) ++ BitVec.ofBool z ++ tc ++ ta }
  | .mloopSbp d a z tc ta => some { op := 0x22, d := d, a := a, b := 0, fn := (1 : BitVec 2) ++ BitVec.ofBool z ++ tc ++ ta }
  | .mloopDirect d a b z tc ta => some { op := 0x22, d := d, a := a, b := b, fn := (2 : BitVec 2) ++ BitVec.ofBool z ++ tc ++ ta }
  | .siph d a q => some { op := 0x23, d := d, a := a, b := 0, fn := (0 : BitVec 8) ++ q }
  | .lnch d a e => some { op := 0x24, d := d, a := a, b := 0, fn := (0 : BitVec 10) ++ BitVec.ofBool e }
  | .barMark d a => some { op := 0x26, d := d, a := a, b := 0, fn := 0 }
  | .barHold d a b => some { op := 0x26, d := d, a := a, b := b, fn := 1 }
  | .barJoin d a => some { op := 0x26, d := d, a := a, b := 0, fn := 2 }
  | .barOwe d a b => some { op := 0x26, d := d, a := a, b := b, fn := 3 }
  | .barMarkn d a b => some { op := 0x26, d := d, a := a, b := b, fn := 4 }
  | .fence l k sc => some { op := 0x27, d := 0, a := 0, b := 0, fn := (0 : BitVec 5) ++ BitVec.ofBool l ++ k ++ sc }
  | .qfence m => some { op := 0x28, d := 0, a := 0, b := 0, fn := (0 : BitVec 3) ++ m }
  | .stepq d b nb => some { op := 0x2A, d := d, a := 0, b := b, fn := (0 : BitVec 10) ++ BitVec.ofBool nb }
  | .stepp d b nb => some { op := 0x2B, d := d, a := 0, b := b, fn := (0 : BitVec 10) ++ BitVec.ofBool nb }
  | .trap code => some (si 0x30 0 0 code)
  | _ => none

/-- The fields of a scalar instruction's word (R74 to R79), none for an instruction without a scalar word. -/
def encodeScalarFields : Instr → Option ScalarFields
  | .ret => some { op := 0x18, d := 0, a := 0, b := 0, fn := 0 }
  | .exit => some (si 0x31 0 0 0)
  | .yield => some (si 0x32 0 0 0)
  | .nop => some (si 0x33 0 0 0)
  | i => encodeOperandFields i

/-- The word of a scalar instruction. -/
def encodeScalar (i : Instr) : Option Word := (encodeScalarFields i).map ScalarFields.toWord

/-- The 52 low bits of an LA instruction (R84). -/
def lowLA (f : LA) : BitVec 52 :=
  BitVec.ofNat 5 f.ty.code ++ BitVec.ofNat 3 f.rnd.code ++ BitVec.ofNat 2 f.sat.code ++ BitVec.ofBool f.aneg ++ BitVec.ofBool f.aabs ++
  BitVec.ofBool f.bneg ++ BitVec.ofBool f.cneg ++ BitVec.ofBool f.imm ++ f.fmod ++ f.imm32

/-- The 52 low bits of an LM instruction (R85). -/
def lowLM (f : LM) : BitVec 52 :=
  f.bd ++ BitVec.ofNat 3 f.width.code ++ BitVec.ofNat 3 f.scope.code ++ BitVec.ofNat 3 f.order.code ++ BitVec.ofNat 3 f.hint.code ++
  f.fmod ++ f.off

/-- Token codes as a number, token 0 lowest, the places after the last token holding end. -/
def encodeToks : Nat → List Tok → Nat
  | 0, _ => 0
  | n + 1, [] => 15 + 16 * encodeToks n []
  | n + 1, t :: ts => t.code + 16 * encodeToks n ts

/-- The 52 low bits of an LX instruction (R87). -/
def lowLX (f : LX) : BitVec 52 := BitVec.ofNat 3 f.ty.code ++ (0 : BitVec 1) ++ BitVec.ofNat 48 (encodeToks 12 f.toks)

/-- The fields of a lane instruction's word, none for an instruction without a lane word. -/
def encodeLaneFields (i : Instr) : Option LaneFields :=
  match i.view with
  | .la op f => some (LaneFields.ofHead op f.h f.a f.b f.c (lowLA f))
  | .lm op f => some (LaneFields.ofHead op f.h f.a f.b f.c (lowLM f))
  | .lx f => some (LaneFields.ofHead 0xC0 f.h f.a f.b f.c (lowLX f))
  | _ => none

/-- The word of a lane instruction. -/
def encodeLane (i : Instr) : Option (BitVec 96) := (encodeLaneFields i).map LaneFields.toWord

/-- The instruction whose bits are `w` (the table's numbering: the words are little-endian, R68, R69): a scalar word for
widths up to 32 bits, a lane word above. -/
def decodeTableWord (nbits w : Nat) : Option Instr :=
  if nbits ≤ 32 then (decodeScalar (BitVec.ofNat 32 w)).toOption else (decodeLane (BitVec.ofNat 96 w)).toOption

/-! A word of each encoding, written out from the tables of R76 to R79, R81, R84, R85 and R87: every field set, so that a bit read from
the wrong place shows. -/

theorem decode_add : (decodeScalar 0x00C85000).toOption = some (.add 6 8 10) := by decide

theorem decode_sub : (decodeScalar 0x00C85001).toOption = some (.sub 6 8 10) := by decide

theorem decode_mul : (decodeScalar 0x00C85002).toOption = some (.mul 6 8 10) := by decide

theorem decode_mulhi : (decodeScalar 0x00C85003).toOption = some (.mulhi 6 8 10) := by decide

theorem decode_mulhu : (decodeScalar 0x00C85004).toOption = some (.mulhu 6 8 10) := by decide

theorem decode_and : (decodeScalar 0x00C85005).toOption = some (.and 6 8 10) := by decide

theorem decode_or : (decodeScalar 0x00C85006).toOption = some (.or 6 8 10) := by decide

theorem decode_xor : (decodeScalar 0x00C85007).toOption = some (.xor 6 8 10) := by decide

theorem decode_shl : (decodeScalar 0x00C85008).toOption = some (.shl 6 8 10) := by decide

theorem decode_shr : (decodeScalar 0x00C85009).toOption = some (.shr 6 8 10) := by decide

theorem decode_sra : (decodeScalar 0x00C8500A).toOption = some (.sra 6 8 10) := by decide

theorem decode_min : (decodeScalar 0x00C8500B).toOption = some (.min 6 8 10) := by decide

theorem decode_max : (decodeScalar 0x00C8500C).toOption = some (.max 6 8 10) := by decide

theorem decode_minu : (decodeScalar 0x00C8500D).toOption = some (.minu 6 8 10) := by decide

theorem decode_maxu : (decodeScalar 0x00C8500E).toOption = some (.maxu 6 8 10) := by decide

theorem decode_slt : (decodeScalar 0x00C8500F).toOption = some (.slt 6 8 10) := by decide

theorem decode_sltu : (decodeScalar 0x00C85010).toOption = some (.sltu 6 8 10) := by decide

theorem decode_seq : (decodeScalar 0x00C85011).toOption = some (.seq 6 8 10) := by decide

theorem decode_divu : (decodeScalar 0x00C85012).toOption = some (.divu 6 8 10) := by decide

theorem decode_remu : (decodeScalar 0x00C85013).toOption = some (.remu 6 8 10) := by decide

theorem decode_popc : (decodeScalar 0x00C80014).toOption = some (.popc 6 8) := by decide

theorem decode_clz : (decodeScalar 0x00C80015).toOption = some (.clz 6 8) := by decide

theorem decode_ctz : (decodeScalar 0x00C80016).toOption = some (.ctz 6 8) := by decide

theorem decode_brev : (decodeScalar 0x00C80017).toOption = some (.brev 6 8) := by decide

theorem decode_addi : (decodeScalar 0x04C88421).toOption = some (.addi 6 8 0x8421) := by decide

theorem decode_andi : (decodeScalar 0x08C88421).toOption = some (.andi 6 8 0x8421) := by decide

theorem decode_ori : (decodeScalar 0x0CC88421).toOption = some (.ori 6 8 0x8421) := by decide

theorem decode_xori : (decodeScalar 0x10C88421).toOption = some (.xori 6 8 0x8421) := by decide

theorem decode_shli : (decodeScalar 0x14C80015).toOption = some (.shli 6 8 0x15) := by decide

theorem decode_shri : (decodeScalar 0x18C80015).toOption = some (.shri 6 8 0x15) := by decide

theorem decode_srai : (decodeScalar 0x1CC80015).toOption = some (.srai 6 8 0x15) := by decide

theorem decode_slti : (decodeScalar 0x20C88421).toOption = some (.slti 6 8 0x8421) := by decide

theorem decode_lui : (decodeScalar 0x24C08421).toOption = some (.lui 6 0x8421) := by decide

theorem decode_muli : (decodeScalar 0x28C88421).toOption = some (.muli 6 8 0x8421) := by decide

theorem decode_sld : (decodeScalar 0x2CC88421).toOption = some (.sld 6 8 0x8421) := by decide

theorem decode_sld2 : (decodeScalar 0x30C88421).toOption = some (.sld2 6 8 0x8421) := by decide

theorem decode_sst : (decodeScalar 0x34C88421).toOption = some (.sst 6 8 0x8421) := by decide

theorem decode_sst2 : (decodeScalar 0x38C88421).toOption = some (.sst2 6 8 0x8421) := by decide

theorem decode_satom : (decodeScalar 0x3CC856C2).toOption = some (.satom 6 8 10 { size := true, order := 5, scope := 4, aop := 2 }) := by decide

theorem decode_b : (decodeScalar 0x40155555).toOption = some (.b 0x155555) := by decide

theorem decode_bz : (decodeScalar 0x45355555).toOption = some (.bz 9 0x155555) := by decide

theorem decode_bnz : (decodeScalar 0x49355555).toOption = some (.bnz 9 0x155555) := by decide

theorem decode_bany : (decodeScalar 0x4ED55555).toOption = some (.bany 5 true 0x155555) := by decide

theorem decode_ball : (decodeScalar 0x52D55555).toOption = some (.ball 5 true 0x155555) := by decide

theorem decode_bnone : (decodeScalar 0x56D55555).toOption = some (.bnone 5 true 0x155555) := by decide

theorem decode_split : (decodeScalar 0x5AD55555).toOption = some (.split 5 true 0x155555) := by decide

theorem decode_call : (decodeScalar 0x5C155555).toOption = some (.call 0x155555) := by decide

theorem decode_ret : (decodeScalar 0x60000000).toOption = some .ret := by decide

theorem decode_bx : (decodeScalar 0x64080000).toOption = some (.bx 8) := by decide

theorem decode_run : (decodeScalar 0x6AC12345).toOption = some (.run 5 true 0x12345) := by decide

theorem decode_runx : (decodeScalar 0x6C08000D).toOption = some (.runx 8 5 true) := by decide

theorem decode_waitk : (decodeScalar 0x70000A5A).toOption = some (.waitk 0xa5a) := by decide

theorem decode_mtc : (decodeScalar 0x74080002).toOption = some (.mtc 8 .ftzm) := by decide

theorem decode_mtcExec : (decodeScalar 0x74080000).toOption = some (.mtcExec 8) := by decide

theorem decode_mtcTcfg : (decodeScalar 0x7408001A).toOption = some (.mtcTcfg 8 10) := by decide

theorem decode_mtcBd : (decodeScalar 0x7408002A).toOption = some (.mtcBd 8 10) := by decide

theorem decode_mtcQdep : (decodeScalar 0x7408003A).toOption = some (.mtcQdep 8 10) := by decide

theorem decode_mtcG : (decodeScalar 0x74080046).toOption = some (.mtcG 8 6) := by decide

theorem decode_mtcFabw : (decodeScalar 0x74080060).toOption = some (.mtcFabw 8) := by decide

theorem decode_mfc : (decodeScalar 0x78C00045).toOption = some (.mfc 6 0x45) := by decide

theorem decode_cpy : (decodeScalar 0x80C85083).toOption = some (.cpy 6 8 10 true 3) := by decide

theorem decode_cpys : (decodeScalar 0x84C85083).toOption = some (.cpys 6 8 10 true 3) := by decide

theorem decode_mloop : (decodeScalar 0x88C8016D).toOption = some (.mloop 6 8 true 6 13) := by decide

theorem decode_mloopSbp : (decodeScalar 0x88C8036D).toOption = some (.mloopSbp 6 8 true 6 13) := by decide

theorem decode_mloopDirect : (decodeScalar 0x88C8556D).toOption = some (.mloopDirect 6 8 10 true 6 13) := by decide

theorem decode_siph : (decodeScalar 0x8CC80003).toOption = some (.siph 6 8 3) := by decide

theorem decode_lnch : (decodeScalar 0x90C80001).toOption = some (.lnch 6 8 true) := by decide

theorem decode_barMark : (decodeScalar 0x98C80000).toOption = some (.barMark 6 8) := by decide

theorem decode_barHold : (decodeScalar 0x98C85001).toOption = some (.barHold 6 8 10) := by decide

theorem decode_barJoin : (decodeScalar 0x98C80002).toOption = some (.barJoin 6 8) := by decide

theorem decode_barOwe : (decodeScalar 0x98C85003).toOption = some (.barOwe 6 8 10) := by decide

theorem decode_barMarkn : (decodeScalar 0x98C85004).toOption = some (.barMarkn 6 8 10) := by decide

theorem decode_fence : (decodeScalar 0x9C000034).toOption = some (.fence true 2 4) := by decide

theorem decode_qfence : (decodeScalar 0xA00000C3).toOption = some (.qfence 0xc3) := by decide

theorem decode_stepq : (decodeScalar 0xA8C05001).toOption = some (.stepq 6 10 true) := by decide

theorem decode_stepp : (decodeScalar 0xACC05001).toOption = some (.stepp 6 10 true) := by decide

theorem decode_trap : (decodeScalar 0xC0008421).toOption = some (.trap 0x8421) := by decide

theorem decode_exit : (decodeScalar 0xC4000000).toOption = some .exit := by decide

theorem decode_yield : (decodeScalar 0xC8000000).toOption = some .yield := by decide

theorem decode_nop : (decodeScalar 0xCC000000).toOption = some .nop := by decide

theorem decode_iadd : (decodeLane 0x00780A490800080000000000).toOption = some (.iadd
    { h := { guard := 3, gneg := true, all := true, fs := false, d := 5 }, a := 18, b := 33, c := 0, ty := .i32, rnd := .rmode, sat := .sat, aneg := false, aabs := false, bneg := false, cneg := false, imm := false, fmod := 0, imm32 := 0 }) := by decide

theorem decode_isub : (decodeLane 0x01780A490800080000000000).toOption = some (.isub
    { h := { guard := 3, gneg := true, all := true, fs := false, d := 5 }, a := 18, b := 33, c := 0, ty := .i32, rnd := .rmode, sat := .sat, aneg := false, aabs := false, bneg := false, cneg := false, imm := false, fmod := 0, imm32 := 0 }) := by decide

theorem decode_imul : (decodeLane 0x02780A490800080000000000).toOption = some (.imul
    { h := { guard := 3, gneg := true, all := true, fs := false, d := 5 }, a := 18, b := 33, c := 0, ty := .i32, rnd := .rmode, sat := .sat, aneg := false, aabs := false, bneg := false, cneg := false, imm := false, fmod := 0, imm32 := 0 }) := by decide

theorem decode_imulhi : (decodeLane 0x03780A490800000000000000).toOption = some (.imulhi
    { h := { guard := 3, gneg := true, all := true, fs := false, d := 5 }, a := 18, b := 33, c := 0, ty := .i32, rnd := .rmode, sat := .rmode, aneg := false, aabs := false, bneg := false, cneg := false, imm := false, fmod := 0, imm32 := 0 }) := by decide

theorem decode_imad : (decodeLane 0x04780A490AF0080000000000).toOption = some (.imad
    { h := { guard := 3, gneg := true, all := true, fs := false, d := 5 }, a := 18, b := 33, c := 47, ty := .i32, rnd := .rmode, sat := .sat, aneg := false, aabs := false, bneg := false, cneg := false, imm := false, fmod := 0, imm32 := 0 }) := by decide

theorem decode_imin : (decodeLane 0x05780A490800000000000000).toOption = some (.imin
    { h := { guard := 3, gneg := true, all := true, fs := false, d := 5 }, a := 18, b := 33, c := 0, ty := .i32, rnd := .rmode, sat := .rmode, aneg := false, aabs := false, bneg := false, cneg := false, imm := false, fmod := 0, imm32 := 0 }) := by decide

theorem decode_imax : (decodeLane 0x06780A490800000000000000).toOption = some (.imax
    { h := { guard := 3, gneg := true, all := true, fs := false, d := 5 }, a := 18, b := 33, c := 0, ty := .i32, rnd := .rmode, sat := .rmode, aneg := false, aabs := false, bneg := false, cneg := false, imm := false, fmod := 0, imm32 := 0 }) := by decide

theorem decode_iabs : (decodeLane 0x07780A480002880000000000).toOption = some (.iabs
    { h := { guard := 3, gneg := true, all := true, fs := false, d := 5 }, a := 18, b := 0, c := 0, ty := .i16x2, rnd := .rmode, sat := .sat, aneg := false, aabs := false, bneg := false, cneg := false, imm := false, fmod := 0, imm32 := 0 }) := by decide

theorem decode_laneAnd : (decodeLane 0x08780A490800800000000000).toOption = some (.laneAnd
    { h := { guard := 3, gneg := true, all := true, fs := false, d := 5 }, a := 18, b := 33, c := 0, ty := .n32, rnd := .rmode, sat := .rmode, aneg := false, aabs := false, bneg := false, cneg := false, imm := false, fmod := 0, imm32 := 0 }) := by decide

theorem decode_laneOr : (decodeLane 0x09780A490800800000000000).toOption = some (.laneOr
    { h := { guard := 3, gneg := true, all := true, fs := false, d := 5 }, a := 18, b := 33, c := 0, ty := .n32, rnd := .rmode, sat := .rmode, aneg := false, aabs := false, bneg := false, cneg := false, imm := false, fmod := 0, imm32 := 0 }) := by decide

theorem decode_laneXor : (decodeLane 0x0A780A490800800000000000).toOption = some (.laneXor
    { h := { guard := 3, gneg := true, all := true, fs := false, d := 5 }, a := 18, b := 33, c := 0, ty := .n32, rnd := .rmode, sat := .rmode, aneg := false, aabs := false, bneg := false, cneg := false, imm := false, fmod := 0, imm32 := 0 }) := by decide

theorem decode_not : (decodeLane 0x0B780A480000800000000000).toOption = some (.not
    { h := { guard := 3, gneg := true, all := true, fs := false, d := 5 }, a := 18, b := 0, c := 0, ty := .n32, rnd := .rmode, sat := .rmode, aneg := false, aabs := false, bneg := false, cneg := false, imm := false, fmod := 0, imm32 := 0 }) := by decide

theorem decode_laneShl : (decodeLane 0x0C780A480000002000000007).toOption = some (.laneShl
    { h := { guard := 3, gneg := true, all := true, fs := false, d := 5 }, a := 18, b := 0, c := 0, ty := .i32, rnd := .rmode, sat := .rmode, aneg := false, aabs := false, bneg := false, cneg := false, imm := true, fmod := 0, imm32 := 7 }) := by decide

theorem decode_laneShr : (decodeLane 0x0D780A480000002000000007).toOption = some (.laneShr
    { h := { guard := 3, gneg := true, all := true, fs := false, d := 5 }, a := 18, b := 0, c := 0, ty := .i32, rnd := .rmode, sat := .rmode, aneg := false, aabs := false, bneg := false, cneg := false, imm := true, fmod := 0, imm32 := 7 }) := by decide

theorem decode_laneSra : (decodeLane 0x0E780A480000002000000007).toOption = some (.laneSra
    { h := { guard := 3, gneg := true, all := true, fs := false, d := 5 }, a := 18, b := 0, c := 0, ty := .i32, rnd := .rmode, sat := .rmode, aneg := false, aabs := false, bneg := false, cneg := false, imm := true, fmod := 0, imm32 := 7 }) := by decide

theorem decode_rot : (decodeLane 0x0F780A480000002000000007).toOption = some (.rot
    { h := { guard := 3, gneg := true, all := true, fs := false, d := 5 }, a := 18, b := 0, c := 0, ty := .i32, rnd := .rmode, sat := .rmode, aneg := false, aabs := false, bneg := false, cneg := false, imm := true, fmod := 0, imm32 := 7 }) := by decide

theorem decode_lanePopc : (decodeLane 0x10780A480000800000000000).toOption = some (.lanePopc
    { h := { guard := 3, gneg := true, all := true, fs := false, d := 5 }, a := 18, b := 0, c := 0, ty := .n32, rnd := .rmode, sat := .rmode, aneg := false, aabs := false, bneg := false, cneg := false, imm := false, fmod := 0, imm32 := 0 }) := by decide

theorem decode_laneClz : (decodeLane 0x11780A480000800000000000).toOption = some (.laneClz
    { h := { guard := 3, gneg := true, all := true, fs := false, d := 5 }, a := 18, b := 0, c := 0, ty := .n32, rnd := .rmode, sat := .rmode, aneg := false, aabs := false, bneg := false, cneg := false, imm := false, fmod := 0, imm32 := 0 }) := by decide

theorem decode_laneBrev : (decodeLane 0x12780A480000800000000000).toOption = some (.laneBrev
    { h := { guard := 3, gneg := true, all := true, fs := false, d := 5 }, a := 18, b := 0, c := 0, ty := .n32, rnd := .rmode, sat := .rmode, aneg := false, aabs := false, bneg := false, cneg := false, imm := false, fmod := 0, imm32 := 0 }) := by decide

theorem decode_bfe : (decodeLane 0x13780A490800000000000000).toOption = some (.bfe
    { h := { guard := 3, gneg := true, all := true, fs := false, d := 5 }, a := 18, b := 33, c := 0, ty := .i32, rnd := .rmode, sat := .rmode, aneg := false, aabs := false, bneg := false, cneg := false, imm := false, fmod := 0, imm32 := 0 }) := by decide

theorem decode_bfi : (decodeLane 0x14780A490AF0800000000000).toOption = some (.bfi
    { h := { guard := 3, gneg := true, all := true, fs := false, d := 5 }, a := 18, b := 33, c := 47, ty := .n32, rnd := .rmode, sat := .rmode, aneg := false, aabs := false, bneg := false, cneg := false, imm := false, fmod := 0, imm32 := 0 }) := by decide

theorem decode_iaddc : (decodeLane 0x15780A490AF0800100000000).toOption = some (.iaddc
    { h := { guard := 3, gneg := true, all := true, fs := false, d := 5 }, a := 18, b := 33, c := 47, ty := .n32, rnd := .rmode, sat := .rmode, aneg := false, aabs := false, bneg := false, cneg := false, imm := false, fmod := 1, imm32 := 0 }) := by decide

theorem decode_isad : (decodeLane 0x16780A490AF0800000000000).toOption = some (.isad
    { h := { guard := 3, gneg := true, all := true, fs := false, d := 5 }, a := 18, b := 33, c := 47, ty := .n32, rnd := .rmode, sat := .rmode, aneg := false, aabs := false, bneg := false, cneg := false, imm := false, fmod := 0, imm32 := 0 }) := by decide

theorem decode_lea : (decodeLane 0x17780A490800800500000000).toOption = some (.lea
    { h := { guard := 3, gneg := true, all := true, fs := false, d := 5 }, a := 18, b := 33, c := 0, ty := .n32, rnd := .rmode, sat := .rmode, aneg := false, aabs := false, bneg := false, cneg := false, imm := false, fmod := 5, imm32 := 0 }) := by decide

theorem decode_idiv : (decodeLane 0x18780A490800000000000000).toOption = some (.idiv
    { h := { guard := 3, gneg := true, all := true, fs := false, d := 5 }, a := 18, b := 33, c := 0, ty := .i32, rnd := .rmode, sat := .rmode, aneg := false, aabs := false, bneg := false, cneg := false, imm := false, fmod := 0, imm32 := 0 }) := by decide

theorem decode_irem : (decodeLane 0x19780A490800000000000000).toOption = some (.irem
    { h := { guard := 3, gneg := true, all := true, fs := false, d := 5 }, a := 18, b := 33, c := 0, ty := .i32, rnd := .rmode, sat := .rmode, aneg := false, aabs := false, bneg := false, cneg := false, imm := false, fmod := 0, imm32 := 0 }) := by decide

theorem decode_mov : (decodeLane 0x1A780A00000100203F800000).toOption = some (.mov
    { h := { guard := 3, gneg := true, all := true, fs := false, d := 5 }, a := 0, b := 0, c := 0, ty := .f32, rnd := .rmode, sat := .rmode, aneg := false, aabs := false, bneg := false, cneg := false, imm := true, fmod := 0, imm32 := 0x3f800000 }) := by decide

theorem decode_iclamp : (decodeLane 0x1B780A490AF0800000000000).toOption = some (.iclamp
    { h := { guard := 3, gneg := true, all := true, fs := false, d := 5 }, a := 18, b := 33, c := 47, ty := .n32, rnd := .rmode, sat := .rmode, aneg := false, aabs := false, bneg := false, cneg := false, imm := false, fmod := 0, imm32 := 0 }) := by decide

theorem decode_fadd : (decodeLane 0x20780A490801178000000000).toOption = some (.fadd
    { h := { guard := 3, gneg := true, all := true, fs := false, d := 5 }, a := 18, b := 33, c := 0, ty := .f32, rnd := .rne, sat := .none, aneg := true, aabs := true, bneg := true, cneg := false, imm := false, fmod := 0, imm32 := 0 }) := by decide

theorem decode_fsub : (decodeLane 0x21780A490801178000000000).toOption = some (.fsub
    { h := { guard := 3, gneg := true, all := true, fs := false, d := 5 }, a := 18, b := 33, c := 0, ty := .f32, rnd := .rne, sat := .none, aneg := true, aabs := true, bneg := true, cneg := false, imm := false, fmod := 0, imm32 := 0 }) := by decide

theorem decode_fmul : (decodeLane 0x22780A490801178000000000).toOption = some (.fmul
    { h := { guard := 3, gneg := true, all := true, fs := false, d := 5 }, a := 18, b := 33, c := 0, ty := .f32, rnd := .rne, sat := .none, aneg := true, aabs := true, bneg := true, cneg := false, imm := false, fmod := 0, imm32 := 0 }) := by decide

theorem decode_ffma : (decodeLane 0x23780A490AF1684000000000).toOption = some (.ffma
    { h := { guard := 3, gneg := true, all := true, fs := false, d := 5 }, a := 18, b := 33, c := 47, ty := .f32, rnd := .stoch, sat := .sat, aneg := false, aabs := false, bneg := false, cneg := true, imm := false, fmod := 0, imm32 := 0 }) := by decide

theorem decode_fmin : (decodeLane 0x24780A490801008000000000).toOption = some (.fmin
    { h := { guard := 3, gneg := true, all := true, fs := false, d := 5 }, a := 18, b := 33, c := 0, ty := .f32, rnd := .rmode, sat := .rmode, aneg := false, aabs := false, bneg := true, cneg := false, imm := false, fmod := 0, imm32 := 0 }) := by decide

theorem decode_fmax : (decodeLane 0x25780A490801008000000000).toOption = some (.fmax
    { h := { guard := 3, gneg := true, all := true, fs := false, d := 5 }, a := 18, b := 33, c := 0, ty := .f32, rnd := .rmode, sat := .rmode, aneg := false, aabs := false, bneg := true, cneg := false, imm := false, fmod := 0, imm32 := 0 }) := by decide

theorem decode_fminnum : (decodeLane 0x26780A490801000100000000).toOption = some (.fminnum
    { h := { guard := 3, gneg := true, all := true, fs := false, d := 5 }, a := 18, b := 33, c := 0, ty := .f32, rnd := .rmode, sat := .rmode, aneg := false, aabs := false, bneg := false, cneg := false, imm := false, fmod := 1, imm32 := 0 }) := by decide

theorem decode_frnd : (decodeLane 0x27780A480001300000000000).toOption = some (.frnd
    { h := { guard := 3, gneg := true, all := true, fs := false, d := 5 }, a := 18, b := 0, c := 0, ty := .f32, rnd := .rdn, sat := .rmode, aneg := false, aabs := false, bneg := false, cneg := false, imm := false, fmod := 0, imm32 := 0 }) := by decide

theorem decode_fscale : (decodeLane 0x28780A490801400000000000).toOption = some (.fscale
    { h := { guard := 3, gneg := true, all := true, fs := false, d := 5 }, a := 18, b := 33, c := 0, ty := .f32, rnd := .rup, sat := .rmode, aneg := false, aabs := false, bneg := false, cneg := false, imm := false, fmod := 0, imm32 := 0 }) := by decide

theorem decode_fclass : (decodeLane 0x29780A480001000000000000).toOption = some (.fclass
    { h := { guard := 3, gneg := true, all := true, fs := false, d := 5 }, a := 18, b := 0, c := 0, ty := .f32, rnd := .rmode, sat := .rmode, aneg := false, aabs := false, bneg := false, cneg := false, imm := false, fmod := 0, imm32 := 0 }) := by decide

theorem decode_fdot2 : (decodeLane 0x2A780A490AF1800000000000).toOption = some (.fdot2
    { h := { guard := 3, gneg := true, all := true, fs := false, d := 5 }, a := 18, b := 33, c := 47, ty := .f16x2, rnd := .rmode, sat := .rmode, aneg := false, aabs := false, bneg := false, cneg := false, imm := false, fmod := 0, imm32 := 0 }) := by decide

theorem decode_fdot4 : (decodeLane 0x2B780A490AF4800000000000).toOption = some (.fdot4
    { h := { guard := 3, gneg := true, all := true, fs := false, d := 5 }, a := 18, b := 33, c := 47, ty := .e4m3x4, rnd := .rmode, sat := .rmode, aneg := false, aabs := false, bneg := false, cneg := false, imm := false, fmod := 0, imm32 := 0 }) := by decide

theorem decode_fmid : (decodeLane 0x2C780A490AF1004000000000).toOption = some (.fmid
    { h := { guard := 3, gneg := true, all := true, fs := false, d := 5 }, a := 18, b := 33, c := 47, ty := .f32, rnd := .rmode, sat := .rmode, aneg := false, aabs := false, bneg := false, cneg := true, imm := false, fmod := 0, imm32 := 0 }) := by decide

theorem decode_ffract : (decodeLane 0x2D780A480001000000000000).toOption = some (.ffract
    { h := { guard := 3, gneg := true, all := true, fs := false, d := 5 }, a := 18, b := 0, c := 0, ty := .f32, rnd := .rmode, sat := .rmode, aneg := false, aabs := false, bneg := false, cneg := false, imm := false, fmod := 0, imm32 := 0 }) := by decide

theorem decode_fcopysign : (decodeLane 0x2E780A490801008000000000).toOption = some (.fcopysign
    { h := { guard := 3, gneg := true, all := true, fs := false, d := 5 }, a := 18, b := 33, c := 0, ty := .f32, rnd := .rmode, sat := .rmode, aneg := false, aabs := false, bneg := true, cneg := false, imm := false, fmod := 0, imm32 := 0 }) := by decide

theorem decode_cvt : (decodeLane 0x40780A480001000300000001).toOption = some (.cvt
    { h := { guard := 3, gneg := true, all := true, fs := false, d := 5 }, a := 18, b := 0, c := 0, ty := .f32, rnd := .rmode, sat := .rmode, aneg := false, aabs := false, bneg := false, cneg := false, imm := false, fmod := 3, imm32 := 1 }) := by decide

theorem decode_cvtb : (decodeLane 0x41780A48000180290000FD01).toOption = some (.cvtb
    { h := { guard := 3, gneg := true, all := true, fs := false, d := 5 }, a := 18, b := 0, c := 0, ty := .f16x2, rnd := .rmode, sat := .rmode, aneg := false, aabs := false, bneg := false, cneg := false, imm := true, fmod := 9, imm32 := 0xfd01 }) := by decide

theorem decode_pack : (decodeLane 0x42780A490801800200000000).toOption = some (.pack
    { h := { guard := 3, gneg := true, all := true, fs := false, d := 5 }, a := 18, b := 33, c := 0, ty := .f16x2, rnd := .rmode, sat := .rmode, aneg := false, aabs := false, bneg := false, cneg := false, imm := false, fmod := 2, imm32 := 0 }) := by decide

theorem decode_unpk : (decodeLane 0x43780C480007000100000000).toOption = some (.unpk
    { h := { guard := 3, gneg := true, all := true, fs := false, d := 6 }, a := 18, b := 0, c := 0, ty := .e2m1x8, rnd := .rmode, sat := .rmode, aneg := false, aabs := false, bneg := false, cneg := false, imm := false, fmod := 1, imm32 := 0 }) := by decide

theorem decode_icmp : (decodeLane 0x507804490830004400000000).toOption = some (.icmp
    { h := { guard := 3, gneg := true, all := true, fs := false, d := 2 }, a := 18, b := 33, c := 3, ty := .i32, rnd := .rmode, sat := .rmode, aneg := false, aabs := false, bneg := false, cneg := true, imm := false, fmod := 4, imm32 := 0 }) := by decide

theorem decode_fcmp : (decodeLane 0x517804490801020600000000).toOption = some (.fcmp
    { h := { guard := 3, gneg := true, all := true, fs := false, d := 2 }, a := 18, b := 33, c := 0, ty := .f32, rnd := .rmode, sat := .rmode, aneg := true, aabs := false, bneg := false, cneg := false, imm := false, fmod := 6, imm32 := 0 }) := by decide

theorem decode_sel : (decodeLane 0x52780A490839804000000000).toOption = some (.sel
    { h := { guard := 3, gneg := true, all := true, fs := false, d := 5 }, a := 18, b := 33, c := 3, ty := .b32, rnd := .rmode, sat := .rmode, aneg := false, aabs := false, bneg := false, cneg := true, imm := false, fmod := 0, imm32 := 0 }) := by decide

theorem decode_pset : (decodeLane 0x5378040C2009808200000000).toOption = some (.pset
    { h := { guard := 3, gneg := true, all := true, fs := false, d := 2 }, a := 3, b := 4, c := 0, ty := .b32, rnd := .rmode, sat := .rmode, aneg := false, aabs := false, bneg := true, cneg := false, imm := false, fmod := 2, imm32 := 0 }) := by decide

theorem decode_pmov : (decodeLane 0x547804480009800100000000).toOption = some (.pmov
    { h := { guard := 3, gneg := true, all := true, fs := false, d := 2 }, a := 18, b := 0, c := 0, ty := .b32, rnd := .rmode, sat := .rmode, aneg := false, aabs := false, bneg := false, cneg := false, imm := false, fmod := 1, imm32 := 0 }) := by decide

theorem decode_vote : (decodeLane 0x5578040C0009820200000000).toOption = some (.vote
    { h := { guard := 3, gneg := true, all := true, fs := false, d := 2 }, a := 3, b := 0, c := 0, ty := .b32, rnd := .rmode, sat := .rmode, aneg := true, aabs := false, bneg := false, cneg := false, imm := false, fmod := 2, imm32 := 0 }) := by decide

theorem decode_shfl : (decodeLane 0x60780A490809800000000000).toOption = some (.shfl
    { h := { guard := 3, gneg := true, all := true, fs := false, d := 5 }, a := 18, b := 33, c := 0, ty := .b32, rnd := .rmode, sat := .rmode, aneg := false, aabs := false, bneg := false, cneg := false, imm := false, fmod := 0, imm32 := 0 }) := by decide

theorem decode_shfli : (decodeLane 0x61780A480009800200000015).toOption = some (.shfli
    { h := { guard := 3, gneg := true, all := true, fs := false, d := 5 }, a := 18, b := 0, c := 0, ty := .b32, rnd := .rmode, sat := .rmode, aneg := false, aabs := false, bneg := false, cneg := false, imm := false, fmod := 2, imm32 := 0x15 }) := by decide

theorem decode_qmix : (decodeLane 0x62781810000980000C080400).toOption = some (.qmix
    { h := { guard := 3, gneg := true, all := true, fs := false, d := 12 }, a := 4, b := 0, c := 0, ty := .b32, rnd := .rmode, sat := .rmode, aneg := false, aabs := false, bneg := false, cneg := false, imm := false, fmod := 0, imm32 := 0xc080400 }) := by decide

theorem decode_xpose : (decodeLane 0x637818100009800000000000).toOption = some (.xpose
    { h := { guard := 3, gneg := true, all := true, fs := false, d := 12 }, a := 4, b := 0, c := 0, ty := .b32, rnd := .rmode, sat := .rmode, aneg := false, aabs := false, bneg := false, cneg := false, imm := false, fmod := 0, imm32 := 0 }) := by decide

theorem decode_bcast : (decodeLane 0x64780A48000980000000000D).toOption = some (.bcast
    { h := { guard := 3, gneg := true, all := true, fs := false, d := 5 }, a := 18, b := 0, c := 0, ty := .b32, rnd := .rmode, sat := .rmode, aneg := false, aabs := false, bneg := false, cneg := false, imm := false, fmod := 0, imm32 := 0xd }) := by decide

theorem decode_compact : (decodeLane 0x65780A480039804000000000).toOption = some (.compact
    { h := { guard := 3, gneg := true, all := true, fs := false, d := 5 }, a := 18, b := 0, c := 3, ty := .b32, rnd := .rmode, sat := .rmode, aneg := false, aabs := false, bneg := false, cneg := true, imm := false, fmod := 0, imm32 := 0 }) := by decide

theorem decode_mapget : (decodeLane 0x66780A480009800000000000).toOption = some (.mapget
    { h := { guard := 3, gneg := true, all := true, fs := false, d := 5 }, a := 18, b := 0, c := 0, ty := .b32, rnd := .rmode, sat := .rmode, aneg := false, aabs := false, bneg := false, cneg := false, imm := false, fmod := 0, imm32 := 0 }) := by decide

theorem decode_mapset : (decodeLane 0x67780A490809800000000000).toOption = some (.mapset
    { h := { guard := 3, gneg := true, all := true, fs := false, d := 5 }, a := 18, b := 33, c := 0, ty := .b32, rnd := .rmode, sat := .rmode, aneg := false, aabs := false, bneg := false, cneg := false, imm := false, fmod := 0, imm32 := 0 }) := by decide

theorem decode_mat : (decodeLane 0x68780A480009800000000000).toOption = some (.mat
    { h := { guard := 3, gneg := true, all := true, fs := false, d := 5 }, a := 18, b := 0, c := 0, ty := .b32, rnd := .rmode, sat := .rmode, aneg := false, aabs := false, bneg := false, cneg := false, imm := false, fmod := 0, imm32 := 0 }) := by decide

theorem decode_permld : (decodeLane 0x69780A490009800000000000).toOption = some (.permld
    { h := { guard := 3, gneg := true, all := true, fs := false, d := 5 }, a := 18, b := 32, c := 0, ty := .b32, rnd := .rmode, sat := .rmode, aneg := false, aabs := false, bneg := false, cneg := false, imm := false, fmod := 0, imm32 := 0 }) := by decide

theorem decode_scan : (decodeLane 0x707C06480001800100000001).toOption = some (.scan
    { h := { guard := 3, gneg := true, all := true, fs := true, d := 3 }, a := 18, b := 0, c := 0, ty := .f16x2, rnd := .rmode, sat := .rmode, aneg := false, aabs := false, bneg := false, cneg := false, imm := false, fmod := 1, imm32 := 1 }) := by decide

theorem decode_dacc : (decodeLane 0x717C06090009800000000000).toOption = some (.dacc
    { h := { guard := 3, gneg := true, all := true, fs := true, d := 3 }, a := 2, b := 32, c := 0, ty := .b32, rnd := .rmode, sat := .rmode, aneg := false, aabs := false, bneg := false, cneg := false, imm := false, fmod := 0, imm32 := 0 }) := by decide

theorem decode_wrnd : (decodeLane 0x72780A090001200000000000).toOption = some (.wrnd
    { h := { guard := 3, gneg := true, all := true, fs := false, d := 5 }, a := 2, b := 32, c := 0, ty := .f32, rnd := .rz, sat := .rmode, aneg := false, aabs := false, bneg := false, cneg := false, imm := false, fmod := 0, imm32 := 0 }) := by decide

theorem decode_wclr : (decodeLane 0x7378060000098000000003FF).toOption = some (.wclr
    { h := { guard := 3, gneg := true, all := true, fs := false, d := 3 }, a := 0, b := 0, c := 0, ty := .b32, rnd := .rmode, sat := .rmode, aneg := false, aabs := false, bneg := false, cneg := false, imm := false, fmod := 0, imm32 := 0x3ff }) := by decide

theorem decode_wadd : (decodeLane 0x747806080809800100000000).toOption = some (.wadd
    { h := { guard := 3, gneg := true, all := true, fs := false, d := 3 }, a := 2, b := 1, c := 0, ty := .b32, rnd := .rmode, sat := .rmode, aneg := false, aabs := false, bneg := false, cneg := false, imm := false, fmod := 1, imm32 := 0 }) := by decide

theorem decode_wmov : (decodeLane 0x75780A080009800100000003).toOption = some (.wmov
    { h := { guard := 3, gneg := true, all := true, fs := false, d := 5 }, a := 2, b := 0, c := 0, ty := .b32, rnd := .rmode, sat := .rmode, aneg := false, aabs := false, bneg := false, cneg := false, imm := false, fmod := 1, imm32 := 3 }) := by decide

theorem decode_ld : (decodeLane 0x80780A48000F3132FFFFFFFC).toOption = some (.ld
    { h := { guard := 3, gneg := true, all := true, fs := false, d := 5 }, a := 18, b := 0, c := 0, bd := 15, width := .w16, scope := .device, order := .acquire, hint := .bypassL1, fmod := 2, off := 0xfffffffc }) := by decide

theorem decode_st : (decodeLane 0x81780049080F559000000000).toOption = some (.st
    { h := { guard := 3, gneg := true, all := true, fs := false, d := 0 }, a := 18, b := 33, c := 0, bd := 15, width := .w32, scope := .system, order := .release, hint := .streaming, fmod := 0, off := 0 }) := by decide

theorem decode_ldb : (decodeLane 0x827C0C440006700000000040).toOption = some (.ldb
    { h := { guard := 3, gneg := true, all := true, fs := true, d := 6 }, a := 17, b := 0, c := 0, bd := 6, width := .w64, scope := .device, order := .plain, hint := .dflt, fmod := 0, off := 0x40 }) := by decide

theorem decode_stb : (decodeLane 0x837800451009700000000000).toOption = some (.stb
    { h := { guard := 3, gneg := true, all := true, fs := false, d := 0 }, a := 17, b := 34, c := 0, bd := 9, width := .w64, scope := .device, order := .plain, hint := .dflt, fmod := 0, off := 0 }) := by decide

theorem decode_lds : (decodeLane 0x84780A44000F040200000000).toOption = some (.lds
    { h := { guard := 3, gneg := true, all := true, fs := false, d := 5 }, a := 17, b := 0, c := 0, bd := 15, width := .w8, scope := .team, order := .plain, hint := .dflt, fmod := 2, off := 0 }) := by decide

theorem decode_sts : (decodeLane 0x85780045080F440000000000).toOption = some (.sts
    { h := { guard := 3, gneg := true, all := true, fs := false, d := 0 }, a := 17, b := 33, c := 0, bd := 15, width := .w32, scope := .team, order := .plain, hint := .dflt, fmod := 0, off := 0 }) := by decide

theorem decode_ldw : (decodeLane 0x86780A48000F508000000000).toOption = some (.ldw
    { h := { guard := 3, gneg := true, all := true, fs := false, d := 5 }, a := 18, b := 0, c := 0, bd := 15, width := .w32, scope := .device, order := .relaxed, hint := .dflt, fmod := 0, off := 0 }) := by decide

theorem decode_stw : (decodeLane 0x87780049080F508000000000).toOption = some (.stw
    { h := { guard := 3, gneg := true, all := true, fs := false, d := 0 }, a := 18, b := 33, c := 0, bd := 15, width := .w32, scope := .device, order := .relaxed, hint := .dflt, fmod := 0, off := 0 }) := by decide

theorem decode_ldt : (decodeLane 0x88780A4802FF300000000000).toOption = some (.ldt
    { h := { guard := 3, gneg := true, all := true, fs := false, d := 5 }, a := 18, b := 0, c := 47, bd := 15, width := .w16, scope := .device, order := .plain, hint := .dflt, fmod := 0, off := 0 }) := by decide

theorem decode_atom : (decodeLane 0x89780A490AFF520300000000).toOption = some (.atom
    { h := { guard := 3, gneg := true, all := true, fs := false, d := 5 }, a := 18, b := 33, c := 47, bd := 15, width := .w32, scope := .device, order := .acqRel, hint := .dflt, fmod := 3, off := 0 }) := by decide

theorem decode_atoms : (decodeLane 0x8A780A45080F448400000000).toOption = some (.atoms
    { h := { guard := 3, gneg := true, all := true, fs := false, d := 5 }, a := 17, b := 33, c := 0, bd := 15, width := .w32, scope := .team, order := .relaxed, hint := .dflt, fmod := 4, off := 0 }) := by decide

theorem decode_atomw : (decodeLane 0x8B780A49080F508600000000).toOption = some (.atomw
    { h := { guard := 3, gneg := true, all := true, fs := false, d := 5 }, a := 18, b := 33, c := 0, bd := 15, width := .w32, scope := .device, order := .relaxed, hint := .dflt, fmod := 6, off := 0 }) := by decide

theorem decode_conf : (decodeLane 0x8C780448000F400000000000).toOption = some (.conf
    { h := { guard := 3, gneg := true, all := true, fs := false, d := 2 }, a := 18, b := 0, c := 0, bd := 15, width := .w32, scope := .group, order := .plain, hint := .dflt, fmod := 0, off := 0 }) := by decide

theorem decode_tagld : (decodeLane 0x8D780A48000FB10000000000).toOption = some (.tagld
    { h := { guard := 3, gneg := true, all := true, fs := false, d := 5 }, a := 18, b := 0, c := 0, bd := 15, width := .sector, scope := .device, order := .acquire, hint := .dflt, fmod := 0, off := 0 }) := by decide

theorem decode_tagst : (decodeLane 0x8E780049080FB18000000000).toOption = some (.tagst
    { h := { guard := 3, gneg := true, all := true, fs := false, d := 0 }, a := 18, b := 33, c := 0, bd := 15, width := .sector, scope := .device, order := .release, hint := .dflt, fmod := 0, off := 0 }) := by decide

theorem decode_pref : (decodeLane 0x8F780048000F104000000000).toOption = some (.pref
    { h := { guard := 3, gneg := true, all := true, fs := false, d := 0 }, a := 18, b := 0, c := 0, bd := 15, width := .w8, scope := .device, order := .plain, hint := .keepL2, fmod := 0, off := 0 }) := by decide

theorem decode_qcnt : (decodeLane 0xA0780B90000F000100000000).toOption = some (.qcnt
    { h := { guard := 3, gneg := true, all := true, fs := false, d := 5 }, a := 100, b := 0, c := 0, bd := 15, width := .w8, scope := .group, order := .plain, hint := .dflt, fmod := 1, off := 0 }) := by decide

theorem decode_rcp : (decodeLane 0xB0780A480001120000000000).toOption = some (.rcp
    { h := { guard := 3, gneg := true, all := true, fs := false, d := 5 }, a := 18, b := 0, c := 0, ty := .f32, rnd := .rne, sat := .rmode, aneg := true, aabs := false, bneg := false, cneg := false, imm := false, fmod := 0, imm32 := 0 }) := by decide

theorem decode_rsq : (decodeLane 0xB1780A480001090000000000).toOption = some (.rsq
    { h := { guard := 3, gneg := true, all := true, fs := false, d := 5 }, a := 18, b := 0, c := 0, ty := .f32, rnd := .rmode, sat := .sat, aneg := false, aabs := true, bneg := false, cneg := false, imm := false, fmod := 0, imm32 := 0 }) := by decide

theorem decode_sqrt : (decodeLane 0xB27808480005900000000000).toOption = some (.sqrt
    { h := { guard := 3, gneg := true, all := true, fs := false, d := 4 }, a := 18, b := 0, c := 0, ty := .f64, rnd := .rne, sat := .rmode, aneg := false, aabs := false, bneg := false, cneg := false, imm := false, fmod := 0, imm32 := 0 }) := by decide

theorem decode_exp2 : (decodeLane 0xB3780A480001090000000000).toOption = some (.exp2
    { h := { guard := 3, gneg := true, all := true, fs := false, d := 5 }, a := 18, b := 0, c := 0, ty := .f32, rnd := .rmode, sat := .sat, aneg := false, aabs := true, bneg := false, cneg := false, imm := false, fmod := 0, imm32 := 0 }) := by decide

theorem decode_log2 : (decodeLane 0xB4780A480001090000000000).toOption = some (.log2
    { h := { guard := 3, gneg := true, all := true, fs := false, d := 5 }, a := 18, b := 0, c := 0, ty := .f32, rnd := .rmode, sat := .sat, aneg := false, aabs := true, bneg := false, cneg := false, imm := false, fmod := 0, imm32 := 0 }) := by decide

theorem decode_sin : (decodeLane 0xB5780A480001090000000000).toOption = some (.sin
    { h := { guard := 3, gneg := true, all := true, fs := false, d := 5 }, a := 18, b := 0, c := 0, ty := .f32, rnd := .rmode, sat := .sat, aneg := false, aabs := true, bneg := false, cneg := false, imm := false, fmod := 0, imm32 := 0 }) := by decide

theorem decode_cos : (decodeLane 0xB6780A480001090000000000).toOption = some (.cos
    { h := { guard := 3, gneg := true, all := true, fs := false, d := 5 }, a := 18, b := 0, c := 0, ty := .f32, rnd := .rmode, sat := .sat, aneg := false, aabs := true, bneg := false, cneg := false, imm := false, fmod := 0, imm32 := 0 }) := by decide

theorem decode_tanh : (decodeLane 0xB7780A480001090000000000).toOption = some (.tanh
    { h := { guard := 3, gneg := true, all := true, fs := false, d := 5 }, a := 18, b := 0, c := 0, ty := .f32, rnd := .rmode, sat := .sat, aneg := false, aabs := true, bneg := false, cneg := false, imm := false, fmod := 0, imm32 := 0 }) := by decide

theorem decode_erf : (decodeLane 0xB8780A480001090000000000).toOption = some (.erf
    { h := { guard := 3, gneg := true, all := true, fs := false, d := 5 }, a := 18, b := 0, c := 0, ty := .f32, rnd := .rmode, sat := .sat, aneg := false, aabs := true, bneg := false, cneg := false, imm := false, fmod := 0, imm32 := 0 }) := by decide

theorem decode_expr : (decodeLane 0xC0D00A490AF2FFFFFF6C9210).toOption = some (.expr
    { h := { guard := 6, gneg := true, all := false, fs := false, d := 5 }, a := 18, b := 33, c := 47, ty := .f16x2, toks := [.a, .b, .c, .fma, .dup, .mul] }) := by decide

theorem decode_ivmk : (decodeLane 0xC8780A490AF1000000000000).toOption = some (.ivmk
    { h := { guard := 3, gneg := true, all := true, fs := false, d := 5 }, a := 18, b := 33, c := 47, ty := .f32, rnd := .rmode, sat := .rmode, aneg := false, aabs := false, bneg := false, cneg := false, imm := false, fmod := 0, imm32 := 0 }) := by decide

theorem decode_ivlo : (decodeLane 0xC9780A480001000000000000).toOption = some (.ivlo
    { h := { guard := 3, gneg := true, all := true, fs := false, d := 5 }, a := 18, b := 0, c := 0, ty := .f32, rnd := .rmode, sat := .rmode, aneg := false, aabs := false, bneg := false, cneg := false, imm := false, fmod := 0, imm32 := 0 }) := by decide

theorem decode_ivhi : (decodeLane 0xCA780A480001000000000000).toOption = some (.ivhi
    { h := { guard := 3, gneg := true, all := true, fs := false, d := 5 }, a := 18, b := 0, c := 0, ty := .f32, rnd := .rmode, sat := .rmode, aneg := false, aabs := false, bneg := false, cneg := false, imm := false, fmod := 0, imm32 := 0 }) := by decide

theorem decode_ivtest : (decodeLane 0xCB7804490AF1000100000000).toOption = some (.ivtest
    { h := { guard := 3, gneg := true, all := true, fs := false, d := 2 }, a := 18, b := 33, c := 47, ty := .f32, rnd := .rmode, sat := .rmode, aneg := false, aabs := false, bneg := false, cneg := false, imm := false, fmod := 1, imm32 := 0 }) := by decide

theorem decode_nopl : (decodeLane 0xF07800000000000000000009).toOption = some (.nopl
    { h := { guard := 3, gneg := true, all := true, fs := false, d := 0 }, a := 0, b := 0, c := 0, ty := .i32, rnd := .rmode, sat := .rmode, aneg := false, aabs := false, bneg := false, cneg := false, imm := false, fmod := 0, imm32 := 9 }) := by decide

theorem decode_ltrap : (decodeLane 0xF1780000000000000000BEEF).toOption = some (.ltrap
    { h := { guard := 3, gneg := true, all := true, fs := false, d := 0 }, a := 0, b := 0, c := 0, ty := .i32, rnd := .rmode, sat := .rmode, aneg := false, aabs := false, bneg := false, cneg := false, imm := false, fmod := 0, imm32 := 0xbeef }) := by decide

theorem decode_lclk : (decodeLane 0xF2780A000000800100000000).toOption = some (.lclk
    { h := { guard := 3, gneg := true, all := true, fs := false, d := 5 }, a := 0, b := 0, c := 0, ty := .n32, rnd := .rmode, sat := .rmode, aneg := false, aabs := false, bneg := false, cneg := false, imm := false, fmod := 1, imm32 := 0 }) := by decide

end Sys2Proof
end

