-- ==== Sys2Proof/Machine/State.lean ====
section
/-! DEFINITION. The state of the device as plain data: every piece of state that spec/ names, the bookkeeping of the
reference ordering machine, and the outcomes of a step. -/

namespace Sys2Proof.Machine

/-- Memory as a list of (address, byte) pairs, addresses strictly rising, no listed byte zero: an unlisted address reads as
zero. Device memory keys are physical addresses (R230); the tag of granule g is the byte at 2^48 + g (R242). Scratchpads
and tiles use the same form with their own offsets. -/
abbrev Memory := List Host.Cell

/-- Why a step stops. -/
inductive Fault where
  /-- Raised by `step` and by a meaning when no split issues the instruction (`focus` names no live split): the spec gives
  an instruction no effect without an issuer. Safe. -/
  | noIssuer
  /-- Raised by `step` when an agenda entry asks for a lane instruction of a clause that is not issuing. Safe. -/
  | noClause
  deriving DecidableEq, Repr

/-- Why the model gives an instruction no meaning. -/
inductive Refusal where
  /-- Raised by the dispatcher alone, for an instruction that has no meaning yet. Safe. -/
  | notModelled (mnemonic : String)
  deriving DecidableEq, Repr

/-- The outcome of a step of this machine's meanings. -/
abbrev Out (σ : Type) := Host.Outcome σ Fault Refusal

/-- The fault causes (R336). -/
inductive Cause where
  | illegalEncoding | illegalClause | xnFetch | translation | permission | tagMismatch | bounds | formatAccess | alignment
  | splitMatrix | queueConfig | intervalMode | uncorrectableReg | uncorrectableScratch | watchdog | remoteLost | userTrap
  | contextArea
  deriving DecidableEq, Repr

/-- Cause codes (R336). -/
def Cause.code : Cause → Nat
  | .illegalEncoding => 1 | .illegalClause => 2 | .xnFetch => 3 | .translation => 4 | .permission => 5 | .tagMismatch => 6
  | .bounds => 7 | .formatAccess => 8 | .alignment => 9 | .splitMatrix => 10 | .queueConfig => 11 | .intervalMode => 12
  | .uncorrectableReg => 13 | .uncorrectableScratch => 14 | .watchdog => 15 | .remoteLost => 16 | .userTrap => 17
  | .contextArea => 18

/-! Lane sets, splits and clauses (R15 to R28). -/

/-- One backward target of a split of a pass group (R222): its address, how often it was taken, when last, and the pairs
recorded at the previous taking, per vector register and predicate. -/
structure WidenRec where
  target : DWord
  count  : Nat
  stamp  : Nat
  regs   : List (Lanes Word)
  preds  : List Mask
  deriving DecidableEq, Repr

/-- A lane set of a group: a live split's or a deferred entry's PC, OWN, EXEC and bank (R15), with the model's own
bookkeeping of program order (R255): `past` lists the memory operations that precede the set's next scalar operation, `ran`
the clauses that the set has run, `order` the clauses that precede its next clause in
program order, `after` the clauses that must have issued before its next clause begins (R20). -/
structure LaneSet where
  uid   : Nat
  pc    : DWord
  own   : Mask
  exec  : Mask
  bank  : Vector Word 8
  past  : List Nat
  ran   : List Nat
  order : List Nat
  after : List Nat
  widen : List WidenRec
  deriving DecidableEq, Repr

/-- What a split that has performed a waiting `bar` still waits for (R285, R287): the object's offset or the team barrier,
the generation that must be left, the status of the arrival and the token register. -/
structure BarWait where
  obj    : Option Nat
  gen    : BitVec 4
  /-- arrive-wait, whose status names the arrival's generation -/
  join   : Bool
  sd     : SReg
  deriving DecidableEq, Repr

/-- Whether a split issues: it runs, or it waits in a `bar` whose operation is done (R287). A split that a held fault stops
(R344) is named by the fault. -/
inductive SplitStatus where
  | running
  | barWait (w : BarWait)
  deriving DecidableEq, Repr

/-- A live split: its lane set, its deferral stack of up to four entries, top first, and the overflow entries with their
slots in the context area, newest first (R15, R17). -/
structure Split where
  /-- the split's identity: it lasts through `yield`, and ends when the split exits or merges away (R19, R20, R42) -/
  sid      : Nat
  set      : LaneSet
  stack    : List LaneSet
  overflow : List (Nat × LaneSet)
  status   : SplitStatus
  deriving DecidableEq, Repr

/-- A clause that was run and has not issued its last instruction (R22, R23, R41, R108): its address, the address of its
`run`, its mask, the captured s16 to s31, RMODE and FTZM, and, once fetched, its header and body. `after` lists the clauses
that must have issued before it begins, `past` and `order` the memory operations and clauses that precede it. -/
structure Clause where
  cid     : Nat
  /-- the lane set and the split that ran it -/
  uid     : Nat
  sid     : Nat
  addr    : DWord
  runPc   : DWord
  mask    : Mask
  caps    : Vector Word 16
  rmode   : Word
  ftzm    : Word
  fetched : Option (Header × List Instr)
  next    : Nat
  issuing : Bool
  past    : List Nat
  order   : List Nat
  after   : List Nat
  deriving DecidableEq, Repr

/-! Registers (R39 to R66). -/

/-- A vector register: its physical lanes and its lane map (R50). -/
structure VReg where
  phys : Lanes Word
  map  : Lanes (Fin 32)
  deriving DecidableEq, Repr

/-- One lane of a wide register (R46). -/
structure WLane where
  f      : BitVec 128
  e      : BitVec 10
  nonfin : Bool
  loss   : Bool
  deriving DecidableEq, Repr

/-- A wide register (R46). -/
structure WReg where
  phys : Lanes WLane
  map  : Lanes (Fin 32)
  deriving DecidableEq, Repr

/-- An entry of a queue register, a reservation while operations are outstanding (R61, R62). -/
structure QEntry where
  eid     : Nat
  data    : Lanes Word
  waiting : Nat
  deriving DecidableEq, Repr

/-- A queue register (R59). -/
structure QReg where
  depth   : Nat
  entries : List QEntry
  deriving DecidableEq, Repr

/-- A scalar register that waits for a result: an access of the group, or an engine command's token (R33, R91). A banked
register is one of the lane set `uid` (R394). -/
structure Busy where
  reg   : SReg
  uid   : Option Nat
  owner : Nat
  token : Bool
  deriving DecidableEq, Repr

/-- A token register whose command's operations precede the operations of a split that has read it (R255). -/
structure TokenRef where
  reg : SReg
  uid : Option Nat
  cmd : Nat
  deriving DecidableEq, Repr

/-- An item of an engine queue: a command, or a join mark of a qfence (R291, R292). -/
inductive QItem where
  | cmd  (id : Nat)
  | mark (id : Nat)
  deriving DecidableEq, Repr

/-- An entry of a proof set (R221): lane PC, descriptor number and descriptor. -/
structure Proof where
  lpc  : DWord
  bd   : Nat
  desc : QWord
  deriving DecidableEq, Repr

/-- A sub-tile of a bounds pass (R204): its group, its number at its level, its x, y and z ranges. -/
structure SubTile where
  group : Nat
  sub   : Nat
  x     : Nat × Nat
  y     : Nat × Nat
  z     : Nat × Nat
  deriving DecidableEq, Repr

/-- What a pass group holds besides an element group's state (R201 to R222): its level, the sub-tile of each lane, the tags
of its pairs, the lanes that became UNDECIDED, the lanes marked as having effects, the lanes judged at `exit`, and its
proofs per lane. -/
structure PassInfo where
  level     : Nat
  tiles     : List SubTile
  tags      : List (Lanes (BitVec 5))
  undecided : Mask
  effects   : Mask
  reached   : Mask
  issued    : Nat
  proofs    : List (Nat × Proof)
  deriving DecidableEq, Repr

/-- A group (R4, R9, R15, R39). -/
structure Group where
  gid       : Nat
  /-- the held lanes -/
  held      : Mask
  splits    : Vector (Option Split) 4
  /-- the split that issued last (R21) -/
  last      : Fin 4
  clauses   : Vector (List Clause) 4
  /-- s0 to s23; s0 is never written (R40) -/
  s         : Vector Word 24
  busy      : List Busy
  tokens    : List TokenRef
  v         : List VReg
  q         : Vector QReg 16
  /-- the queue budget (R59) -/
  qbud      : Nat
  /-- p0 to p7; p0 is never written (R45) -/
  p         : Vector Mask 8
  w         : Vector WReg 8
  /-- outstanding operations of each completion flag (R26) -/
  k         : Vector Nat 12
  bd        : Vector (Option QWord) 15
  rmode     : Word
  ftzm      : Word
  lbase     : Word
  /-- bits [63:32] of the clause base (R108) -/
  lhi       : Word
  /-- generators by logical lane (R169) -/
  gen       : Lanes DWord
  /-- watchdog count in core cycles (R354) -/
  watch     : Nat
  /-- the issue slot (R328) -/
  slot      : Fin 4
  /-- the clause whose wait for a queue holds the group's lane issue (R63) -/
  holds     : Option Nat
  engines   : Vector (List QItem) 8
  ended     : Bool
  /-- the next `bar` returns ABANDONED (R289) -/
  abandoned : Bool
  /-- BPLEVEL of an element group of a BPASS launch: OUTCOME and LEVEL (R112, R205) -/
  outcome   : Nat
  level     : Nat
  pass      : Option PassInfo
  deriving DecidableEq, Repr

/-! Teams, launches, cores. -/

/-- A team-shared register with the core cycle and the group of the last write that took effect (R35). -/
structure GReg where
  cur   : Word
  cycle : Nat
  gid   : Nat
  deriving DecidableEq, Repr

/-- A write of a team-shared register that need not be visible yet (R35). -/
structure GWrite where
  reg   : Nat
  value : Word
  cycle : Nat
  gid   : Nat
  deriving DecidableEq, Repr

/-- Where a team is in its life (R36): queued at a core, resident, saved in its context area, or ended. -/
inductive TeamState where
  | queued
  | resident
  | saved
  | ended
  deriving DecidableEq, Repr

/-- The bounds pass of a team (R203 to R206): the level being run, the sub-tiles still to be placed at that level, the codes
judged, the proofs kept per group, level and sub-tile, the outcome map's stores, and whether the element groups are released. -/
structure PassState where
  level    : Nat
  todo     : List SubTile
  /-- (level, sub-tile, code) for every judged sub-tile -/
  judged   : List (Nat × SubTile × Nat)
  proofs   : List (Nat × Nat × Nat × List Proof)
  /-- the outcome map is written, and the operations that write it -/
  mapDone  : Bool
  mapOps   : List Nat
  released : Bool
  deriving DecidableEq, Repr

/-- One action of the agenda: the scalar instruction at a split's PC, the next lane instruction of the clause that a split
number's queue issues, or a step of the device. -/
inductive Action where
  | scalar (r : SplitRef)
  | lane   (r : SplitRef)
  | event  (i : Instr)
  deriving DecidableEq, Repr

/-- A team's part in redundant execution (R358): its twin, its copy number, the instruction at which it waits to close its
epoch, whether the close was matched, and the operations and commands that copy 0's closing instruction issued for both. -/
structure Redundant where
  twin    : Nat
  copy    : Nat
  closing : Option Action
  granted : Bool
  mail    : List Nat
  deriving DecidableEq, Repr

/-- A team (R13, R28, R36, R285, R328). -/
structure Team where
  id        : Nat
  launch    : Nat
  stage     : Nat
  /-- the linear team index (R14); the team's number within its stage -/
  index     : Nat
  core      : Nat
  state     : TeamState
  groups    : List Group
  gregs     : Vector GReg 8
  /-- the writes of those registers that have not taken effect, in their order (R35) -/
  gpend     : List GWrite
  /-- the team barrier's generation and the groups that have arrived in it (R285) -/
  barGen    : BitVec 4
  arrived   : List Nat
  scratch   : Memory
  tiles     : List Memory
  tcfg      : Vector Word 16
  /-- the offset of the team's area in the context pool (R350) -/
  area      : Option Nat
  /-- the core's cycle count at dispatch (R331) -/
  since     : Nat
  /-- a drain chosen for it: the cycle past which it is saved (R332) -/
  drain     : Option Nat
  /-- to be saved, flushed or restored when it can be -/
  saving    : Bool
  /-- it is dealt again, ahead of the teams that were never dispatched (R333) -/
  again     : Bool
  pass      : Option PassState
  red       : Option Redundant
  deriving DecidableEq, Repr

/-- A level of the hierarchy (R315). -/
structure Level where
  dom : Nat
  x   : Nat
  y   : Nat
  z   : Nat
  deriving DecidableEq, Repr

/-- A stage of a launch record (R316). -/
structure StageRec where
  entry  : DWord
  cntr   : DWord
  qaddr  : DWord
  thresh : Nat
  teams  : Nat
  prio   : Nat
  qlog   : Nat
  deriving DecidableEq, Repr

/-- A launch record (R313 to R316). -/
structure LaunchRec where
  entry   : DWord
  lcode   : DWord
  seed    : DWord
  rmode   : Word
  ftzm    : Word
  omap    : DWord
  cpl     : DWord
  sys     : Nat × Nat × Nat
  vregs   : Nat
  qbud    : Nat
  scratch : Nat
  tiles   : Nat
  prio    : Nat
  nlev    : Nat
  nstage  : Nat
  policy  : Nat
  redund  : Bool
  idemp   : Bool
  ordered : Bool
  depth   : Nat
  bpass   : Bool
  wdlim   : Nat
  levels  : List Level
  args    : Vector DWord 4
  stages  : List StageRec
  deriving DecidableEq, Repr

/-- The progress of a stage, or of a launch without stages as its stage 0: whether it is eligible (R311), the next team to be
dealt, requeued team indexes (R333, R349), how many teams have ended, the durations of up to the last 16 (R331). -/
structure StageState where
  eligible  : Bool
  next      : Nat
  requeued  : List Nat
  ended     : Nat
  durations : List Nat
  /-- the read that made it eligible, which precedes its teams in program order -/
  after     : List Nat
  deriving DecidableEq, Repr

/-- Where an instance of a level bound to cluster (domain 4) or die (domain 5) stands, per copy of a redundant launch (R13, R328). -/
structure Seat where
  dom    : Nat
  inst   : Nat
  copy   : Nat
  number : Nat
  deriving DecidableEq, Repr

/-- A live launch (R319, R377). -/
structure Launch where
  id       : Nat
  asid     : Nat
  record   : LaunchRec
  stages   : List StageState
  /-- turns taken over the dies, and where the instances of a level bound to cluster or die stand (R13, R328) -/
  dealt    : Nat
  places   : List Seat
  /-- the cause of the first kill -/
  killed   : Option Nat
  /-- cancelled, with the cause to report (R319 code 0x05) -/
  cancel   : Option Nat
  /-- the `lnch.end` command that waits for the end (R327) -/
  parent   : Option Nat
  /-- the final status word, once every team has ended and while its trap records are not all written (R378) -/
  final    : Option Nat
  deriving DecidableEq, Repr

/-- A leaf kept by a core's TLB (R248). -/
structure TlbEntry where
  asid : Nat
  va   : Nat
  size : Nat
  leaf : QWord
  deriving DecidableEq, Repr

/-- A core (R328, R329): its cycle count, TLB, team queue, failures to steal and the victim it has asked. -/
structure Core where
  id     : Nat
  cycle  : Nat
  tlb    : List TlbEntry
  queue  : List Nat
  fails  : Nat
  asked  : Option Nat
  deriving DecidableEq, Repr

/-! The ordering machine (R254 to R266). -/

/-- Where an operation's bytes lie: device memory (and tags), a team's scratchpad, or another device (R368). -/
inductive Space where
  | mem
  | scratch (team : Nat)
  | remote  (node : Nat)
  deriving DecidableEq, Repr

/-- Who made an operation: a split of a group, an engine command of a group, or a requester outside the cores (the host, a
fabric node, the device itself). The path is the named core's; a group is named by its team and GROUPID. -/
inductive Agent where
  | group  (team group core : Nat)
  | engine (team group core cmd : Nat)
  | host
  | fabric (node : Nat)
  | device
  deriving DecidableEq, Repr

/-- What a read-modify-write computes (R102, R275, R277): its operation, its operand and its compare value or bound, its size
in bytes, and the rounding of `fadd` (a code of RMODE's field and SAT). -/
structure Rmw where
  aop  : Aop
  b    : Nat
  c    : Nat
  rnd  : Nat
  sat  : Bool
  /-- `atomw.xadd.32`: the addend is an f32 -/
  f32  : Bool
  deriving DecidableEq, Repr

/-- The kinds of operation. A `well` load or store is performed at the well in one step (R258). -/
inductive OpKind where
  | load
  | store
  | rmw (r : Rmw)
  | wellLoad
  | wellStore
  /-- the header at an address and the slot of a block of a compressed page, read at the home (R303) -/
  | blockLoad (hdr : Nat)
  /-- a fence of a kind 0 acq_rel, 1 acq, 2 rel, 3 sc (R290) -/
  | fence (kind : Nat)
  /-- new bytes of a block of a compressed page, with the address of its header, merged at the home (R303) -/
  | block (hdr : Nat)
  /-- the old value of copy 0's atomic on its way to copy 1 (R358) -/
  | echo (of : Nat)
  deriving DecidableEq, Repr

/-- How far a write has come along its path (R254). -/
inductive Place where
  | queue
  | core
  | cluster
  | homed
  deriving DecidableEq, Repr

/-- How the bytes of a load reach a lane: zero-extended, sign-extended (R268), or as the elements of a packed page (R241) of a
format code, which lie in `w` bytes from byte `off` of their unit. -/
inductive Convert where
  | bytes
  | signed
  | packed (fmt off w : Nat)
  deriving DecidableEq, Repr

/-- Where a result goes: nowhere, scalar registers of the group or of a bank (for a scalar instruction its lane set's, for a lane
instruction the split's, R42), physical lane p of n vector registers from r, logical lane i of a queue entry, or row `row` of the
block that the 16 operations of one `ldt` load for the lanes of a mask, under the element width, the destination code and the split
of that `ldt` (R197). -/
inductive Dest where
  | none
  | sregs (reg : SReg) (n : Nat) (bank : Nat)
  | vregs (r n : Nat) (p : Fin 32)
  | entry (q : Nat) (eid : Nat) (i : Fin 32)
  | block (key w row : Nat) (em : Mask) (code sid : Nat)
  /-- the command, the matrix loop or the instruction that reads there under this key takes it (R264) -/
  | engine (key : Nat)
  /-- the MSI-X vector of an ASID fires (R376) -/
  | vector (asid : Nat)
  /-- a remote device learns that its write is performed (R368, R378) -/
  | ack (node : Nat)
  deriving DecidableEq, Repr

/-- The instruction that made an operation, as a trap record names it (R337): its scalar PC, its lane PC, the pointer and the lane. -/
structure Site where
  spc  : DWord
  lpc  : DWord
  ptr  : DWord
  lane : Option Nat
  deriving DecidableEq, Repr

/-- A memory operation of the reference ordering machine. -/
structure MemOp where
  id       : Nat
  agent    : Agent
  uid      : Nat
  cid      : Option Nat
  asid     : Nat
  kind     : OpKind
  space    : Space
  addr     : Nat
  size     : Nat
  /-- each byte written, with the bits of it that are written -/
  data     : List (Byte × Byte)
  order    : Order
  scope    : Scope
  /-- an access to an SC page (R263) -/
  sc       : Bool
  /-- operations and clauses that precede it in program order (R255) -/
  past     : List Nat
  clauses  : List Nat
  place    : Place
  /-- arrival at its place -/
  stamp    : Nat
  /-- once homed: its home, its vector, the dies that have applied it (R259) -/
  home     : Nat
  vc       : Vector Nat 5
  applied  : List Nat
  /-- the bytes that a load or the read of an atomic returned, and the writes they came from -/
  result   : Option (List Byte)
  rf       : List Nat
  convert  : Convert
  dest     : Dest
  /-- the completion flag that tagged it (R26, R30), and the descriptor it went through, 15 for none (R114) -/
  flag     : Option (Fin 12)
  bd       : BitVec 4
  /-- its result is delivered and its flag released -/
  done     : Bool
  /-- a write held by redundant execution (R358): 0 not held, 1 until its copy's open epoch closes, 2 until the epoch after that one does -/
  epoch    : Nat
  /-- a host write whose completion the IOD awaits (R266) -/
  hostPend : Bool
  /-- an atomic, or the load or store operation of one -/
  atomic   : Bool
  /-- the check words of its sectors in transit, the bits that have been corrupted on the way, the unit that corrupted one last, and
  whether the sector was fetched again after a failed check (R250, R251, R347) -/
  check    : List Nat
  flips    : List Nat
  suspect  : Option HwUnit
  again    : Bool
  site     : Site
  deriving DecidableEq, Repr

/-- A long-latency instruction outside memory (R25): what it writes when it completes. -/
inductive LateEffect where
  | sreg (reg : SReg) (value : Word)
  | wide (w : Fin 8) (lanes : List (Fin 32 × WLane))
  deriving DecidableEq, Repr

structure LateWrite where
  id     : Nat
  team   : Nat
  group  : Nat
  /-- the split whose bank a write to s24 to s31 reaches (R42) -/
  sid    : Nat
  cid    : Nat
  flag   : Fin 12
  effect : LateEffect
  deriving DecidableEq, Repr

/-! Engines (R175 to R188, R291 to R307, R362 to R375). -/

/-- A matrix loop in flight (R180). -/
structure Loop where
  id     : Nat
  team   : Nat
  group  : Nat
  uid    : Nat
  pc     : DWord
  tok    : SReg
  /-- 0 dense, 1 SBP, 2 direct -/
  mode   : Nat
  z      : Bool
  tc     : Nat
  ta     : Nat
  a      : Word
  b      : Word
  base   : DWord
  inca   : BitVec 16
  incb   : BitVec 16
  steps  : Nat
  next   : Nat
  ma     : Nat
  nb     : Nat
  rmode  : Word
  shadow : List Memory
  past   : List Nat
  /-- when the engine last took a step of it (R183) -/
  served : Nat
  deriving DecidableEq, Repr

/-- A shape record (R295). -/
structure Shape where
  src   : DWord
  dst   : DWord
  op    : Nat
  skind : Nat
  dkind : Nat
  efmt  : Nat
  banda : Bool
  node  : Nat
  shift : BitVec 8
  const : Word
  band  : BitVec 16
  scoff : Nat
  e0    : Nat
  e1    : Nat
  e2    : Nat
  v0    : Nat
  v1    : Nat
  s1    : Nat
  s2    : Nat
  d1    : Nat
  d2    : Nat
  zero  : Bool
  deriving DecidableEq, Repr

/-- A collective record (R369). -/
structure Coll where
  members : DWord
  stat    : DWord
  flag    : DWord
  buf     : DWord
  flagv   : Nat
  count   : Nat
  n       : Nat
  efmt    : Nat
  op      : Nat
  kind    : Nat
  zero    : Bool
  deriving DecidableEq, Repr

/-- The progress of a collective (R363, R371): its record, the ring's nodes, its rank, whether the gate is open, the steps whose
receive is done and the steps whose send is done, counted over both phases, the contributor mask of each chunk as ranks, the ranks
known lost in the order learned, the steps that it may still do, and the sectors already written of the chunk, or of the status
array, that it is writing. -/
structure CollState where
  coll   : Coll
  ring   : List Nat
  rank   : Nat
  gate   : Bool
  step   : Nat
  sent   : Nat
  masks  : List (List Nat)
  lost   : List Nat
  last   : Nat
  put    : Nat
  deriving DecidableEq, Repr

/-- The progress of a copy (R293, R298, R305): the address of its record, its barrier object, the record's first sector once read,
the record once read whole, the destination sectors still to be written, ascending, and whether the sectors that the next one needs
of another device have been asked for (R368), and from a 2:4 page. -/
structure CopyState where
  record : DWord
  bar    : Option Nat
  half   : Option (List Byte)
  shape  : Option Shape
  todo   : List Nat
  asked  : Option Bool
  deriving DecidableEq, Repr

/-- What an engine command does: a copy, a collective, a `stepq` or `stepp` with its `.nb`, its scratchpad offset and, while its entry
is on the way, the entry's number, an `lnch` with its `.end` and whether its launch has been accepted. -/
inductive CmdKind where
  | copy (c : CopyState)
  | coll (record : DWord) (half : Option (List Byte)) (st : Option CollState)
  | stage (push nb : Bool) (offset : Nat) (slot : Option Nat)
  | lnch (record : DWord) (atEnd taken : Bool)
  /-- the token of copy 0's command on its way to copy 1 (R358) -/
  | echo (of : Nat)
  deriving DecidableEq, Repr

/-- An engine command from issue to completion (R291, R294). -/
structure Cmd where
  id     : Nat
  team   : Nat
  group  : Nat
  uid    : Nat
  asid   : Nat
  pc     : DWord
  tok    : SReg
  queue  : Nat
  /-- the command's instruction word (R352) -/
  word   : Word
  kind   : CmdKind
  past   : List Nat
  /-- the status that its token receives once its last writes are performed -/
  ending : Option Nat
  deriving DecidableEq, Repr

/-! Faults (R337 to R346). -/

/-- The content of a trap record but its SEQ (R337, R338). -/
structure Trap where
  asid   : Nat
  launch : Nat
  cause  : Cause
  sub    : Nat
  ucode  : Nat
  addr   : DWord
  spc    : DWord
  lpc    : DWord
  team   : Nat × Nat × Nat
  stage  : Nat
  group  : Nat
  split  : Nat
  lane   : Option Nat
  bpm    : Bool
  held   : Bool
  src    : Nat
  node   : Nat
  reg    : BitVec 7
  /-- loads and atomics that deliver before the record is written (R93) -/
  behind : List Nat
  deriving DecidableEq, Repr

/-- The work that a held fault stops (R344). -/
inductive HeldWork where
  | split  (r : SplitRef) (uid : Nat)
  | clause (r : SplitRef) (cid : Nat)
  | loop   (id : Nat)
  | cmd    (id : Nat)
  | stageCounter (launch stage : Nat)
  | outcomeMap (team : Nat)
  | remote (req : FabricRequest)
  deriving DecidableEq, Repr

/-- A held fault, by its ASID and the SEQ of its record, with an answer that came while its team was saved (R344): true for
resume. -/
structure HeldFault where
  asid   : Nat
  seq    : Nat
  trap   : Trap
  work   : HeldWork
  answer : Option Bool
  deriving DecidableEq, Repr

/-! The host's side (R376 to R379). -/

/-- A kick not yet consumed: its ASID, SEQ, slot, reserved bits, the reads of sector 15 so far, and, once that sector has been found, it
with the bytes of the sectors from 0 that have been read (R377). -/
structure Kick where
  asid  : Nat
  seq   : Word
  slot  : Nat
  bad   : Bool
  reads : Nat
  found : Option (List Byte)
  got   : List Byte
  deriving DecidableEq, Repr

/-- A command word written to CMD, with its count, and what it waits for once begun (R379). -/
structure HostCmd where
  addr  : DWord
  count : Nat
  /-- its sector, once its turn has come -/
  sector : Option (List Byte)
  /-- KIND 1 once the leaves are dropped, KIND 2 while teams come off: the operations or teams awaited -/
  begun : Option (List Nat)
  missed : Bool
  deriving DecidableEq, Repr

/-- A hold of a pre-empt command (R379): the command's count and its cluster mask. -/
structure Hold where
  id   : Nat
  mask : Nat
  /-- the cycles that it still lasts -/
  left : Nat
  deriving DecidableEq, Repr

/-- The registers and queues of one ASID (R376, R113). -/
structure Asid where
  id      : Nat
  ident   : DWord
  subbase : DWord
  subn    : Word
  acpt    : Word
  frbase  : DWord
  frsize  : Word
  frhead  : Word
  cpbase  : DWord
  cpsize  : Word
  vec     : Word
  stat    : Word
  kerr    : DWord
  fabw    : Word
  /-- FABW values sent and not yet applied, in order of arrival -/
  fabwIn  : List Word
  cmds    : List HostCmd
  cmdCount : Nat
  /-- the SEQ of the last record that was given one, and the records that wait to be written -/
  seq     : Nat
  traps   : List (Nat × Trap)
  holds   : List Hold
  /-- the last trap record written into the ring -/
  written : Nat
  deriving DecidableEq, Repr

/-- The state of a fabric peer (R367). -/
inductive PeerState where
  | up | recovering | lost
  deriving DecidableEq, Repr

/-- A peer: its node, the links that the routing table names for it (R366), its state. -/
structure Peer where
  node  : Nat
  links : List Nat
  state : PeerState
  deriving DecidableEq, Repr

/-- Where a unit stands (R356, R357): in service, drained, a drained well whose requests have waited long enough, removed. -/
inductive UnitState where
  | service | drained | overdue | removed
  deriving DecidableEq, Repr

/-- A unit with its suspicion score. -/
structure UnitRec where
  unit  : HwUnit
  score : Nat
  state : UnitState
  deriving DecidableEq, Repr

/-- What the device sends over the fabric, newest last (R363, R368, R372, R373): chunks, notices of a faulted member, sectors
written to and asked of remote memory, answers, and the ROM's read of its image. -/
inductive FabricMsg where
  | chunk  (node : Nat) (msg : ChunkMsg)
  | notice (node die asid : Nat) (buf : DWord)
  | write  (node asid : Nat) (addr : DWord) (efmt : Nat) (data : List (Option Byte))
  | ask    (node asid : Nat) (addr : DWord) (efmt : Nat)
  | answer (node : Nat) (sparse : Bool) (data : List Byte) (cause : Nat)
  /-- the boot ROM's read of the firmware image from the storage endpoint at a node (R380) -/
  | image  (node : Nat)
  deriving DecidableEq, Repr

/-- A sector of a launch's code as it was fetched ahead (R71): the launch, the sector's number, its bytes. -/
structure Prefetch where
  launch : Nat
  sector : Nat
  bytes  : List Byte
  deriving DecidableEq, Repr

/-- The whole device. -/
structure State where
  /-- what happens next, the model's own schedule: the first action is the next step -/
  agenda    : List Action
  /-- the split on whose behalf `exec` performs a scalar or lane instruction -/
  focus     : Option SplitRef
  /-- counters from which fresh identifiers and free values are drawn -/
  fresh     : Nat
  choice    : Nat
  /-- what the homes hold, and what each die's view holds (CD0 to CD3, IOD) -/
  mem       : Memory
  views     : Vector Memory 5
  /-- the applied vectors A_d (R259) -/
  vectors   : Vector (Vector Nat 5) 5
  ops       : List MemOp
  late      : List LateWrite
  teams     : List Team
  launches  : List Launch
  cores     : List Core
  loops     : List Loop
  cmds      : List Cmd
  /-- code fetched ahead of its issue (R71) -/
  fetches   : List Prefetch
  held      : List HeldFault
  asids     : List Asid
  /-- kicks not yet consumed, in the order of their arrival (R377) -/
  kicks     : List Kick
  /-- chunks that wait in the siphons (R372) -/
  chunks    : List ChunkMsg
  /-- notices of faulted members that wait for their collective: die of the siphon, ASID, BUF, node (R372) -/
  notices   : List (Nat × Nat × DWord × Nat)
  sent      : List FabricMsg
  /-- MSI-X messages sent: the vectors, oldest first -/
  msix      : List Nat
  /-- what host reads over PCIe returned, newest last -/
  hostReads : List (List Byte)
  peers     : List Peer
  /-- the fabric links that work, one bit for each of the 32 (R366, R380) -/
  links     : Word
  units     : List UnitRec
  nextLaunch : Nat
  /-- each die's turn over its cores, each cluster's turn (R328) -/
  dieTurn   : Vector Nat 4
  clusterTurn : List (Nat × Nat)
  halted    : List Nat
  /-- launches are accepted (R357, R382, R383) -/
  accepting : Bool
  node      : Word
  boot      : Word
  peersel   : Word
  winbase   : DWord
  /-- the fabric recovery limit in cycles of the IOD's counter (R367) -/
  recovery  : Nat
  /-- the fused minimum rollback index (R382) -/
  rollback  : Nat
  /-- the power cap in watts and the steps of 50 MHz below the full core clock (R384) -/
  cap       : Nat
  slower    : Nat
  /-- reports over the management port (R357, R382, R384): codes, oldest first -/
  reports   : List Nat
  deriving DecidableEq, Repr

/-- The state right after reset (R376, R380): the boot ROM runs, no ASID is open, nothing is resident. -/
def State.reset : State where
  agenda := []
  focus := none
  fresh := 1
  choice := 0
  mem := []
  views := Vector.replicate 5 []
  vectors := Vector.replicate 5 (Vector.replicate 5 0)
  ops := []
  late := []
  teams := []
  launches := []
  cores := []
  loops := []
  cmds := []
  fetches := []
  held := []
  asids := []
  kicks := []
  chunks := []
  notices := []
  sent := []
  msix := []
  hostReads := []
  peers := []
  links := 0
  units := []
  nextLaunch := 1
  dieTurn := Vector.replicate 4 0
  clusterTurn := []
  halted := []
  accepting := false
  node := 0
  boot := 0
  peersel := 0
  winbase := 0
  recovery := 2 ^ 30
  rollback := 0
  cap := 1750
  slower := 0
  reports := []

end Sys2Proof.Machine
end

