-- ==== Sys2Proof/Machine/Mem.lean ====
section
/-! DEFINITION. Memory in its canonical form: reading and writing one byte and a run of bytes (R7, R229). -/

namespace Sys2Proof.Machine.Memory

/-- The byte at an address; an unlisted address reads as zero. -/
def read : Memory → Nat → Byte
  | [], _ => 0
  | c :: m, a => if c.1 = a then c.2 else read m a

/-- Memory with one byte written: the list stays sorted, and a zero byte is not listed. -/
def write : Memory → Nat → Byte → Memory
  | [], a, b => if b = 0 then [] else [(a, b)]
  | c :: m, a, b =>
    if a < c.1 then (if b = 0 then c :: m else (a, b) :: c :: m)
    else if c.1 = a then (if b = 0 then m else (a, b) :: m)
    else c :: write m a b

/-- The n bytes from an address. -/
def readN (m : Memory) (a n : Nat) : List Byte := (List.range n).map fun i => read m (a + i)

/-- Memory with a run of bytes written. -/
def writeN : Memory → Nat → List Byte → Memory
  | m, _, [] => m
  | m, a, b :: bs => writeN (write m a b) (a + 1) bs

/-- The bits of `mask` of one byte replaced by those of `v`. -/
def merge (old v mask : Byte) : Byte := (old &&& ~~~mask) ||| (v &&& mask)

/-- Memory with a run of masked bytes written (R241, R298). -/
def writeMasked : Memory → Nat → List (Byte × Byte) → Memory
  | m, _, [] => m
  | m, a, (v, k) :: bs => writeMasked (write m a (merge (read m a) v k)) (a + 1) bs

/-- Canonical form: strictly rising addresses and no listed zero byte. -/
def wf : Memory → Bool
  | [] => true
  | [c] => c.2 != 0
  | c :: d :: m => c.2 != 0 && c.1 < d.1 && wf (d :: m)

end Sys2Proof.Machine.Memory
end

