-- ==== Sys2Proof/Machine/Order.lean ====
section
/-! DEFINITION. The reference ordering machine (14_ordering_model.md): homes, what a load finds, when an operation may issue,
be satisfied, move and be homed, and when it is performed. -/

namespace Sys2Proof.Machine

/-- The compute die of a core (R1). -/
def dieOf (core : Nat) : Nat := core / 96
/-- The cluster of a core, counted over the device (R1, R379). -/
def clusterOf (core : Nat) : Nat := core / 8

/-- The home die of a memory key: CD0 to CD3, or 4 for the IOD (R230, R231). A tag is homed with its line (R280). -/
def homeOf (key : Nat) : Nat :=
  let pa := if key < 2 ^ 48 then key else 32 * (key - 2 ^ 48)
  match pa / 2 ^ 46 with
  | 0 => bits pa 9 8 ^^^ bits pa 13 12
  | 2 => bits pa 26 25
  | 3 => 4
  | _ => 0

/-- The memory key of the tag of the granule that holds an address (R242). -/
def tagKey (pa : Nat) : Nat := 2 ^ 48 + pa / 32

namespace MemOp

/-- A store or the write of an atomic. -/
def isWrite (o : MemOp) : Bool :=
  match o.kind with
  | .store | .wellStore | .rmw _ | .block _ => true
  | _ => false
/-- A load or the read of an atomic. -/
def isRead (o : MemOp) : Bool :=
  match o.kind with
  | .load | .wellLoad | .blockLoad _ | .rmw _ | .echo _ => true
  | _ => false
/-- A write whose bytes are known only at the home. -/
def isRmw (o : MemOp) : Bool := match o.kind with | .rmw _ | .block _ => true | _ => false
def isFence (o : MemOp) : Bool := match o.kind with | .fence _ => true | _ => false

/-- Two operations touch a common byte. -/
def overlaps (a b : MemOp) : Bool := a.space == b.space && a.addr < b.addr + b.size && b.addr < a.addr + a.size

/-- The core whose path the operation takes, for operations from within a core (R254). -/
def core? (o : MemOp) : Option Nat :=
  match o.agent with
  | .group _ _ c => some c
  | .engine _ _ c _ => some c
  | _ => none
/-- The group whose write queue holds it (R254). -/
def group? (o : MemOp) : Option (Nat × Nat) :=
  match o.agent with
  | .group t g _ => some (t, g)
  | .engine t g _ _ => some (t, g)
  | _ => none
/-- The die that observes for the issuer. -/
def die (o : MemOp) : Nat := match o.core? with | some c => dieOf c | none => 4

/-- Masked bytes it writes at an address, if it writes there. -/
def at? (o : MemOp) (a : Nat) : Option (Byte × Byte) :=
  if o.isWrite && o.addr ≤ a && a < o.addr + o.size then o.data[a - o.addr]? else none

def isHomed (o : MemOp) : Bool := o.place == .homed

/-- A write that goes from its write queue straight to its home, and never stands in a core or cluster view (R257). -/
def isDirect (o : MemOp) : Bool := match o.kind with | .rmw _ | .wellStore | .block _ => true | _ => false

/-- The write stands at its issuer's core view, or cluster view, or beyond (R254): one that goes straight to its home does so once
its issuer's die has applied it. -/
def atCore (o : MemOp) : Bool := if o.isDirect then o.applied.contains o.die else o.place != .queue
def atCluster (o : MemOp) : Bool :=
  if o.isDirect then o.applied.contains o.die else o.place == .cluster || o.place == .homed

/-- A write follows a load in program order (R255). -/
def follows (w l : MemOp) : Bool :=
  w.past.contains l.id || (match l.cid with | some c => w.clauses.contains c | none => false)

/-- The order that an access takes effect with: SC pages make every access seq_cst (R263). -/
def effOrder (o : MemOp) : Order := if o.sc then .seqCst else o.order
/-- The scope that an access takes effect with (R263). -/
def effScope (o : MemOp) : Scope := if o.sc && o.scope != .system then .device else o.scope

/-- The check words of the sectors that carry n bytes of an operation (R250): over the 32 bytes of each sector, those that the
operation does not carry as zero, and its physical address. Scratchpad accesses and tags travel without one. -/
def words (o : MemOp) (data : List (Byte × Byte)) : List Nat :=
  if o.space != .mem || 2 ^ 48 ≤ o.addr || data.isEmpty then []
  else
    (List.range ((o.addr % 32 + data.length + 31) / 32)).map fun i =>
      let sec := o.addr / 32 + i
      let byte (j : Nat) : Byte :=
        if 32 * sec + j < o.addr then 0
        else match data[32 * sec + j - o.addr]? with | some (v, k) => v &&& k | none => 0
      crc16 ((List.range 32).map byte ++ natLe 6 (32 * sec))

/-- What of an operation is in transit: the bytes of a write on its way, the operand of an atomic, then what its read returned; with
the bits that were corrupted on the way. -/
def carried (o : MemOp) : List (Byte × Byte) :=
  let sent : List (Byte × Byte) :=
    match o.result, o.kind with
    | some bs, _ => bs.map fun b => (b, 0xFF)
    | none, .rmw r => if o.data.isEmpty then (natLe o.size r.b).map fun b => (b, 0xFF) else o.data
    | none, _ => o.data
  o.flips.foldl (fun ds n => ds.mapIdx fun i d => if i = n / 8 then (d.1 ^^^ BitVec.ofNat 8 (2 ^ (n % 8)), d.2) else d) sent

/-- The check words agree with what arrives (R251). -/
def intact (o : MemOp) : Bool := o.flips.isEmpty || o.check == o.words o.carried

/-- A read satisfied: its bytes, the writes that they come from, and the check words formed over them. -/
def satisfied (o : MemOp) (bs : List Byte) (rf : List Nat) : MemOp :=
  let o := { o with result := some bs, rf := rf, flips := [], suspect := none }
  { o with check := o.words o.carried }

/-- The read is to be taken by the command, the loop or the instruction that makes it (R264). -/
def reading (o : MemOp) : Bool := match o.dest with | .engine _ => true | _ => false

end MemOp

/-- The operation of an identifier; a settled operation is not listed. -/
def State.op? (s : State) (id : Nat) : Option MemOp := s.ops.find? fun o => o.id == id

/-- Replace an operation. -/
def State.setOp (s : State) (o : MemOp) : State := { s with ops := s.ops.map fun x => if x.id == o.id then o else x }

/-- A clause that has not issued its last instruction is still in a clause queue (R23). -/
def State.clausePending (s : State) (cid : Nat) : Bool :=
  s.teams.any fun t => t.groups.any fun g => g.clauses.toList.any fun q => q.any fun c => c.cid == cid

/-- The listed operations that precede one with this program order (R255). -/
def State.pastOps (s : State) (past clauses : List Nat) : List MemOp :=
  s.ops.filter fun o => past.contains o.id || (match o.cid with | some c => clauses.contains c | none => false)

/-- A write is performed at a scope (R260). -/
def MemOp.writePerformed (o : MemOp) (sc : Scope) : Bool :=
  match o.space with
  | .scratch _ | .remote _ => o.isHomed
  | .mem =>
    match sc with
    | .group => true
    | .team => o.atCore
    | .cluster => o.atCluster
    | .die => o.applied.contains o.die
    | .device => o.applied.length == 5
    | .system => o.applied.length == 5 && !o.hostPend

/-- An operation other than a fence is performed at a scope (R260). -/
def MemOp.opPerformed (o : MemOp) (sc : Scope) : Bool :=
  (!o.isRead || o.result.isSome) && (!o.isWrite || o.writePerformed sc)

/-- What a fence waits for (R290): the loads before it satisfied, everything before it performed at its scope. -/
def State.fenceAcq (s : State) (f : MemOp) : Bool :=
  !(f.clauses.any s.clausePending) && (s.pastOps f.past f.clauses).all fun p => !p.isRead || p.result.isSome
def State.fenceRel (s : State) (f : MemOp) : Bool :=
  !(f.clauses.any s.clausePending) && (s.pastOps f.past f.clauses).all fun p => p.isFence || p.opPerformed f.scope

/-- Everything before an operation is performed at a scope. -/
def State.pastPerformed (s : State) (past clauses : List Nat) (sc : Scope) : Bool :=
  !(clauses.any s.clausePending) && (s.pastOps past clauses).all fun p => p.isFence || p.opPerformed sc

/-- An operation may issue: no earlier acquire, seq_cst access or fence holds it back, and a seq_cst access waits for the
operations before it (R228, R261, R262, R290). -/
def State.mayIssue (s : State) (past clauses : List Nat) (order : Order) (scope : Scope) : Bool :=
  ((s.pastOps past clauses).all fun p =>
    match p.kind with
    | .fence 0 | .fence 1 => s.fenceAcq p
    | .fence 3 => s.fenceRel p
    | .fence _ => true
    | _ =>
      match p.effOrder with
      | .acquire | .acqRel => !p.isRead || p.result.isSome
      | .seqCst => p.opPerformed p.effScope
      | _ => true) &&
  (order != .seqCst || s.pastPerformed past clauses scope)

/-- An SC-page access of a core waits for the SC-page accesses of that core (R263). -/
def State.scFree (s : State) (core : Nat) : Bool :=
  s.ops.all fun o => !o.sc || o.core? != some core || o.opPerformed o.effScope

/-- Of the SC-page accesses of a core only the one that came first takes effect, until it is performed (R263): the lanes of one
instruction take their turns. -/
def State.scTurn (s : State) (w : MemOp) : Bool :=
  !w.sc || w.core?.isNone || s.ops.all fun o => !(o.sc && o.id < w.id && o.core? == w.core?) || o.opPerformed o.effScope

/-! What a load finds (R256). -/

/-- Insertion into a list with the latest arrival first. -/
def insertNewest (o : MemOp) : List MemOp → List MemOp
  | [] => [o]
  | p :: ps => if p.stamp ≤ o.stamp then o :: p :: ps else p :: insertNewest o ps
/-- The writes of a list in the order in which a search meets them: latest arrival first. -/
def newestFirst (os : List MemOp) : List MemOp := os.foldr insertNewest []

/-- No write is hidden from a search. -/
def seesAll (_ : MemOp) : Bool := false

/-- The places that an issuer's search passes before its die view: its group's write queue, its core view, its cluster view, which
hold a write until their own die has applied it (R228, R254, R256, R259). `hidden` says which writes the search does not see: those
that follow it in program order (R100, R273). An SC-page access whose turn has not come has not issued (R263). -/
def State.searchPath (s : State) (grp : Option (Nat × Nat)) (core : Option Nat) (hidden : MemOp → Bool) : List MemOp :=
  let w := s.ops.filter fun o => o.isWrite && o.space == .mem && !hidden o
  match core with
  | none => []
  | some c =>
    newestFirst (w.filter fun o => o.place == .queue && !o.isRmw && grp.isSome && o.group? == grp && s.scTurn o) ++
    newestFirst (w.filter fun o => o.place == .core && o.core? == some c) ++
    newestFirst (w.filter fun o => o.place == .cluster && o.core?.map clusterOf == some (clusterOf c)) ++
    newestFirst (w.filter fun o => o.place == .homed && !o.isDirect && o.core?.map clusterOf == some (clusterOf c) && !o.applied.contains (dieOf c))

/-- One byte as a search composes it: bits of the nearest writes first, the rest from the memory underneath. -/
def compose (path : List MemOp) (base : Byte) (a : Nat) : Byte :=
  let r := path.foldl (fun (acc : Byte × Byte) o =>
    match o.at? a with
    | some (v, k) => (acc.1 ||| (v &&& k &&& ~~~acc.2), acc.2 ||| k)
    | none => acc) (0, 0)
  r.1 ||| (base &&& ~~~r.2)

/-- The writes of a path that give a byte some bit. -/
def sources (path : List MemOp) (a : Nat) : List Nat × Byte :=
  path.foldl (fun (acc : List Nat × Byte) o =>
    match o.at? a with
    | some (_, k) => if k &&& ~~~acc.2 != 0 then (acc.1 ++ [o.id], acc.2 ||| k) else acc
    | none => acc) ([], 0)

/-- A die's view, and the homed memory for a requester outside the dies. -/
def State.view (s : State) (die : Nat) : Memory := vget s.views die s.mem

/-- The n bytes that an access from a core finds, and the writes that they come from among those not yet settled. -/
def State.find (s : State) (grp : Option (Nat × Nat)) (core : Option Nat) (hidden : MemOp → Bool) (a n : Nat) : List Byte × List Nat :=
  let path := s.searchPath grp core hidden
  let die := match core with | some c => dieOf c | none => 4
  let base := match core with | some _ => s.view die | none => s.mem
  let applied := newestFirst (s.ops.filter fun o => o.isWrite && o.space == .mem && o.isHomed && (core.isNone || o.applied.contains die))
  let as := (List.range n).map (a + ·)
  (as.map fun x => compose path (Memory.read base x) x,
   as.foldl (fun acc x => unite acc (sources (path ++ applied) x).1) [])

/-- The scratchpad of a team. -/
def State.scratchOf (s : State) (team : Nat) : Memory :=
  match s.teams.find? (fun t => t.id == team) with
  | some t => t.scratch
  | none => []

/-- What a scratchpad load finds: the group's write queue, then the scratchpad (R256). -/
def State.findScratch (s : State) (grp : Option (Nat × Nat)) (hidden : MemOp → Bool) (team a n : Nat) : List Byte × List Nat :=
  let path := newestFirst (s.ops.filter fun o =>
    o.isWrite && o.space == .scratch team && o.place == .queue && !o.isRmw && o.group? == grp && !hidden o)
  let homed := newestFirst (s.ops.filter fun o => o.isWrite && o.space == .scratch team && o.isHomed)
  let as := (List.range n).map (a + ·)
  (as.map fun x => compose path (Memory.read (s.scratchOf team) x) x, as.foldl (fun acc x => unite acc (sources (path ++ homed) x).1) [])

/-! Causality and movement (R257 to R259). -/

/-- The operations behind a set: program order before each, and the writes that its reads returned (R257). -/
def State.behind (s : State) : Nat → List Nat → List Nat
  | 0, ids => ids
  | fuel + 1, ids =>
    let more := s.ops.foldl (fun acc o =>
      if ids.contains o.id then unite acc (unite o.rf ((s.pastOps o.past o.clauses).map (·.id))) else acc) ids
    if more.length == ids.length then ids else s.behind fuel more

/-- The listed writes that causally precede an operation with this program order (R257). -/
def State.causes (s : State) (past clauses : List Nat) : List MemOp :=
  let ids := s.behind s.ops.length ((s.pastOps past clauses).map (·.id))
  s.ops.filter fun o => ids.contains o.id && o.isWrite

/-- A write outside this device's memory stands everywhere once it is in its scratchpad, or on its way to the other device, whose
places are not this machine's (R254). -/
def MemOp.standsElsewhere (w : MemOp) : Bool := match w.space with | .scratch _ => w.isHomed | .remote _ => true | .mem => false

/-- A write stands at a core view, or a cluster view, or beyond (R254). -/
def MemOp.standsAtCore (w : MemOp) (c : Nat) : Bool :=
  w.applied.contains (dieOf c) || w.standsElsewhere ||
  (match w.core? with
   | some d => (d == c && w.atCore) || (clusterOf d == clusterOf c && w.atCluster)
   | none => false)
def MemOp.standsAtCluster (w : MemOp) (c : Nat) : Bool :=
  w.applied.contains (dieOf c) || w.standsElsewhere ||
  (match w.core? with | some d => clusterOf d == clusterOf c && w.atCluster | none => false)
def MemOp.standsAtHome (w : MemOp) (h : Nat) : Bool :=
  w.applied.contains h || w.standsElsewhere

/-- Conditions 1 and 2 of R257, with what a release and the fences before the write add (R261, R290): the loads before the
write are satisfied and every write that causally precedes it stands where `stands` asks. -/
def State.causalOk (s : State) (w : MemOp) (stands : MemOp → Bool) : Bool :=
  !(w.clauses.any s.clausePending) &&
  ((s.pastOps w.past w.clauses).all fun p => !p.isRead || p.result.isSome) &&
  (s.causes w.past w.clauses).all fun p => p.id == w.id || stands p

/-- What holds a write in its write queue: a release's scope, an earlier releasing fence, an epoch not closed (R261, R290, R358); the
later sectors of one transfer to an SC page wait there for the earlier ones (R263, R264). -/
def State.queueOk (s : State) (w : MemOp) : Bool :=
  w.epoch == 0 && s.scTurn w &&
  (match w.effOrder with
   | .release | .acqRel | .seqCst => s.pastPerformed w.past w.clauses w.effScope
   | _ => true) &&
  ((s.pastOps w.past w.clauses).all fun p =>
    match p.kind with
    | .fence 0 | .fence 2 => s.fenceRel p
    | _ => true)

/-- Condition 3 of R257: no earlier write to common bytes stands in the place that the write leaves. -/
def State.placeOk (s : State) (w : MemOp) : Bool :=
  s.ops.all fun o =>
    !(o.isWrite && o.id != w.id && o.stamp < w.stamp && o.overlaps w && o.place == w.place &&
      (match w.place with
       | .queue => o.group? == w.group? && (w.group?.isSome || o.agent == w.agent)
       | .core => o.core? == w.core?
       | .cluster => o.core?.map clusterOf == w.core?.map clusterOf
       | .homed => false))

/-- The write may move one place on towards its home (WRITE_MOVE). -/
def State.mayMove (s : State) (w : MemOp) : Bool :=
  match w.kind, w.space, w.core? with
  | .store, .mem, some c =>
    match w.place with
    | .queue => s.queueOk w && s.placeOk w && s.causalOk w (·.standsAtCore c)
    | .core => s.placeOk w && s.causalOk w (·.standsAtCluster c)
    | _ => false
  | _, _, _ => false

/-- The difference of two 24-bit counters, read as a signed number (R259). -/
def ahead (a b : Nat) : Int := signed 24 (a + 2 ^ 24 - b % 2 ^ 24)

/-- A home may home n more writes: its counter then leads no die's copy of it too far (R259). -/
def State.homeFree (s : State) (h n : Nat) : Bool :=
  (List.range 5).all fun d =>
    ahead (vget (vget s.vectors h (Vector.replicate 5 0)) h 0) (vget (vget s.vectors d (Vector.replicate 5 0)) h 0) + (n : Int) ≤ 2 ^ 23 - 1

/-- Every home may home n more writes: what the device writes in one step. -/
def State.homesFree (s : State) (n : Nat) : Bool := (List.range 5).all fun h => s.homeFree h n

/-- The well of a Cistern address, counted over the device (R230). -/
def wellOf (pa : Nat) : Option Nat :=
  if 2 ^ 47 ≤ pa && pa < 2 ^ 47 + 2 ^ 27 then some (256 * (pa / 2 ^ 25 % 4) + pa / 32 % 256) else none

/-- The well of an address, if it has one, is not drained (R356). -/
def State.wellOpen (s : State) (pa : Nat) : Bool :=
  match wellOf pa with
  | none => true
  | some n => s.units.all fun u => u.unit != .well n || u.state != .drained

/-- Requests to a drained well wait (R356). -/
def State.wellFree (s : State) (o : MemOp) : Bool := o.space != .mem || s.wellOpen o.addr

/-- No byte of a range lies in a drained well: a read of it need not wait (R356). -/
def State.wellsOpen (s : State) (pa n : Nat) : Bool :=
  (List.range ((pa % 32 + n + 31) / 32)).all fun i => s.wellOpen (32 * (pa / 32 + i))

/-- The homes that a write comes to in one step: a block of a compressed page is one operation with its header (R264, R303). -/
def MemOp.homes (w : MemOp) : List Nat := homeOf w.addr :: (match w.kind with | .block hdr => [homeOf hdr] | _ => [])

/-- The write, atomic or well access may be performed at its home (WRITE_HOME): it has come to the last place before it, and
the conditions of R257 hold for the home. -/
def State.mayHome (s : State) (w : MemOp) : Bool :=
  (match w.space with
   | .scratch _ =>
     w.place == .queue && s.queueOk w && s.placeOk w &&
     s.causalOk w (match w.core? with | some c => (·.standsAtCore c) | none => fun _ => true)
   | .remote _ => false
   | .mem =>
     (w.homes.all fun h => s.causalOk w (·.standsAtHome h) && s.homeFree h w.homes.length) && s.wellFree w && s.placeOk w &&
     (match w.kind, w.core? with
      | .store, some _ => w.place == .cluster
      | .store, none => w.place == .queue && s.queueOk w
      | .rmw _, _ | .wellStore, _ | .block _, _ => w.place == .queue && s.queueOk w
      | _, _ => false))

/-- An earlier scalar atomic to bytes of a scalar load has come to the load's die view: scalar accesses of one split to common bytes
take effect in program order (R100). -/
def MemOp.atomicSeen (p l : MemOp) : Bool :=
  !(p.isRmw && p.cid.isNone && l.cid.isNone && p.space == .mem && p.overlaps l) || p.applied.contains l.die

/-- A load that is performed at the home, in program order with the split's other requests, has come there under the conditions of
R257, as a write does. -/
def State.wellLoadOk (s : State) (l : MemOp) : Bool :=
  s.queueOk l && s.placeOk l &&
  (match l.space, l.core? with
   | .mem, _ => s.causalOk l (·.standsAtHome (homeOf l.addr))
   | _, some c => s.causalOk l (·.standsAtCore c)
   | _, none => true)

/-- A load may be satisfied (LOAD_SATISFY): earlier loads of the split to common bytes have been, and a seq_cst load of wide scope
finds its die's view level with the home (R256, R262). -/
def State.maySatisfy (s : State) (l : MemOp) : Bool :=
  l.result.isNone && s.scTurn l && s.wellFree l &&
  (match l.kind with | .load | .blockLoad _ => true | .wellLoad => s.wellLoadOk l | _ => false) &&
  ((s.pastOps l.past l.clauses).all fun p => (!(p.isRead && p.overlaps l) || p.result.isSome) && p.atomicSeen l) &&
  (match l.effOrder, l.effScope with
   | .seqCst, .die | .seqCst, .device | .seqCst, .system =>
     l.space != .mem || s.ops.all fun o => !(o.isWrite && o.isHomed && o.overlaps l) || o.applied.contains l.die
   | _, _ => true)

/-- The bytes and sources that a load returns now. -/
def State.loadValue (s : State) (l : MemOp) : List Byte × List Nat :=
  match l.space with
  | .scratch t =>
    match l.kind with
    | .wellLoad => ((s.scratchOf t).readN l.addr l.size, (s.findScratch none seesAll t l.addr l.size).2)
    | _ => s.findScratch l.group? (·.follows l) t l.addr l.size
  | .remote _ => ([], [])
  | .mem =>
    match l.kind with
    | .wellLoad => s.find none none seesAll l.addr l.size
    | .blockLoad hdr =>
      let h := s.find none none seesAll hdr 1
      let b := s.find none none seesAll l.addr l.size
      (h.1 ++ b.1, unite h.2 b.2)
    | _ =>
      match l.effOrder, l.effScope with
      | .seqCst, .die | .seqCst, .device | .seqCst, .system =>
        ((s.view l.die).readN l.addr l.size, (s.find none none seesAll l.addr l.size).2)
      | _, _ => s.find l.group? l.core? (·.follows l) l.addr l.size

/-! Units and their suspicion scores (R356). -/

/-- A unit's record, in service with a score of 0 when nothing has happened to it. -/
def State.unitRec (s : State) (u : HwUnit) : UnitRec := (s.units.find? fun x => x.unit == u).getD { unit := u, score := 0, state := .service }
def State.setUnit (s : State) (r : UnitRec) : State := { s with units := upsert (fun x => x.unit == r.unit) r s.units }

/-- A unit that the device has (R1). -/
def unitExists : HwUnit → Bool | .core n => n < 384 | .well n => n < 1024 | .pump n => n < 64

/-- A unit of the device stands in service (R356, R357). -/
def State.inService (s : State) (u : HwUnit) : Bool := s.units.all fun x => x.unit != u || x.state == .service

/-- A unit's score raised. -/
def State.charge (s : State) (u : HwUnit) (n : Nat) : State :=
  if unitExists u then (let r := s.unitRec u; s.setUnit { r with score := r.score + n }) else s

/-- A failed check word charged to the unit that last held the sector (R251). -/
def State.mismatch (s : State) (o : MemOp) : State := match o.suspect with | some u => s.charge u 16 | none => s

/-- A fetched sector that fails its check is fetched once more, from its home (R347). -/
def State.refetch (s : State) (o : MemOp) : State :=
  let (bs, rf) := match o.space with
    | .mem => s.loadValue { o with kind := match o.kind with | .load => .wellLoad | k => k }
    | _ => s.loadValue o
  (s.mismatch o).setOp { o.satisfied bs rf with again := true }

/-- A scratchpad changed. -/
def State.setScratch (s : State) (team : Nat) (m : Memory) : State :=
  { s with teams := s.teams.map fun t => if t.id == team then { t with scratch := m } else t }

/-- Masked bytes written at their home: a new vector, the home's memory and view (R258, R259). -/
def State.homeWrite (s : State) (a : Nat) (data : List (Byte × Byte)) : State :=
  let h := homeOf a
  { s with
    mem := s.mem.writeMasked a data
    views := vmod s.views h fun m => m.writeMasked a data
    vectors := vmod s.vectors h fun v => vmod v h fun n => (n + 1) % 2 ^ 24 }

/-- An operation that is settled needs no place in the machine any more: a read is satisfied, delivered and from settled
writes, a write completed and applied at every die, or in a scratchpad with nothing before it left, a fence with nothing before it
outstanding. -/
def State.settled (s : State) (o : MemOp) : Bool :=
  match o.kind with
  | .fence _ => s.fenceRel o && s.fenceAcq o
  | _ =>
    o.done && (s.ops.all fun e => e.kind != .echo o.id || e.done) &&
    (s.teams.all fun t => match t.red with | some r => !r.mail.contains o.id | none => true) && (!o.isRead || (o.result.isSome && o.rf.all fun r => (s.op? r).isNone)) &&
    (!o.isWrite ||
      (match o.space with
       | .scratch _ | .remote _ => o.isHomed && (s.pastOps o.past o.clauses).isEmpty
       | .mem => o.applied.length == 5 && !o.hostPend))

/-- The machine without its settled operations. -/
def State.prune (s : State) : State := { s with ops := s.ops.filter fun o => !s.settled o }

end Sys2Proof.Machine
end

