-- ==== Sys2Proof/Machine/Translate.lean ====
section
/-! DEFINITION. Pointers, page tables and the checks of an access (R230, R233 to R248). -/

namespace Sys2Proof.Machine

/-- The end of GDDR7 data (R230). -/
def gddrEnd : Nat := 0x2F40000000

/-- The region of R230 in which n bytes at an address wholly lie: 0 GDDR7 data, 2 Cistern, 3 host. -/
def regionOf (pa n : Nat) : Option Nat :=
  if pa + n ≤ gddrEnd then some 0
  else if 2 ^ 47 ≤ pa && pa + n ≤ 2 ^ 47 + 2 ^ 27 then some 2
  else if 3 * 2 ^ 46 ≤ pa && pa + n ≤ 2 ^ 48 then some 3
  else none

/-- The fields of a leaf entry (R237). -/
structure Leaf where
  raw    : QWord
  /-- the page's size in bytes -/
  size   : Nat
  deriving DecidableEq, Repr

namespace Leaf
def frame (l : Leaf) : Nat := bits l.raw.toNat 47 16 * 2 ^ 16
def fmt (l : Leaf) : Nat := bits l.raw.toNat 13 8
def rd (l : Leaf) : Bool := l.raw.getLsbD 7
def cmp (l : Leaf) : Bool := l.raw.getLsbD 6
def tag (l : Leaf) : Bool := l.raw.getLsbD 5
def sc (l : Leaf) : Bool := l.raw.getLsbD 4
def xn (l : Leaf) : Bool := l.raw.getLsbD 3
def w (l : Leaf) : Bool := l.raw.getLsbD 2
def rowlen (l : Leaf) : Nat := bits l.raw.toNat 63 48
def aux (l : Leaf) : Nat := bits l.raw.toNat 103 64 * 2 ^ 8
/-- Elements of the page (R237). -/
def elems (l : Leaf) : Nat := if l.fmt == 0x06 || l.fmt == 0x07 || fmtWidth l.fmt == 6 then l.size / 96 * 128 else l.size * 8 / fmtWidth l.fmt
/-- Elements in a row, the whole page when ROWLEN is 0. -/
def row (l : Leaf) : Nat := if l.rowlen == 0 then l.elems else l.rowlen
/-- Bytes of the scale page or header array (R237). -/
def auxLen (l : Leaf) : Nat :=
  if l.cmp then l.size / 256
  else if fmtScaled l.fmt then (l.elems + l.row - 1) / l.row * ((l.row + fmtBlock l.fmt - 1) / fmtBlock l.fmt)
  else 0
/-- The region of the page's frame. -/
def region (l : Leaf) : Option Nat := regionOf l.frame l.size

/-- The fields of a leaf of a level are well formed (R237, R238). -/
def ok (l : Leaf) (level : Nat) : Bool :=
  let r := l.raw.toNat
  let scaled := fmtScaled l.fmt
  bits r 127 104 == 0 && bits r 15 14 == 0 && (level != 1 || bits r 20 16 == 0) && (level != 2 || bits r 29 16 == 0) &&
  l.fmt ≤ 0x24 && l.region.isSome &&
  (l.region == some 0 || (!l.tag && l.fmt == 0x20)) &&
  (l.rowlen == 0 || scaled) && !(l.cmp && scaled) &&
  (if scaled || l.cmp then (regionOf l.aux l.auxLen).isSome else bits r 103 64 == 0)
end Leaf

/-- How a walk ends (R238). -/
inductive Walk where
  | leaf (l : Leaf)
  | notPresent
  | malformed
  deriving DecidableEq, Repr

/-- The registers of an ASID, all zero when none were written. -/
def emptyAsid (id : Nat) : Asid :=
  { id := id, ident := 0, subbase := 0, subn := 0, acpt := 0, frbase := 0, frsize := 0, frhead := 0, cpbase := 0, cpsize := 0,
    vec := 0, stat := 0, kerr := 0, fabw := 0x0101, fabwIn := [], cmds := [], cmdCount := 0, seq := 0, traps := [],
    holds := [], written := 0 }

def State.asid (s : State) (id : Nat) : Asid := (s.asids.find? fun a => a.id == id).getD (emptyAsid id)

/-- Replace the registers of an ASID. -/
def State.setAsid (s : State) (a : Asid) : State := { s with asids := upsert (fun x => x.id == a.id) a s.asids }

/-- A core, idle when nothing has happened on it. -/
def emptyCore (id : Nat) : Core := { id := id, cycle := 0, tlb := [], queue := [], fails := 0, asked := none }
def State.core (s : State) (id : Nat) : Core := (s.cores.find? fun c => c.id == id).getD (emptyCore id)
def State.setCore (s : State) (c : Core) : State := { s with cores := upsert (fun x => x.id == c.id) c s.cores }

/-- An entry of the ASID table is valid (R234). -/
def identValid (e : DWord) : Bool := e.getLsbD 0 && bits e.toNat 63 48 == 0 && bits e.toNat 12 1 == 0

/-- One 16-byte table entry as a walker of a core reads it: core, cluster and die views, no write queue (R247); a walk for a
unit outside the cores reads the homes. -/
def State.pte (s : State) (core : Option Nat) (pa : Nat) : Nat := leNat (s.find none core seesAll pa 16).1

/-- The index bits of a level (R235). -/
def levelShift (level : Nat) : Nat := if level = 0 then 16 else 21 + 9 * (level - 1)
def levelIndex (level va : Nat) : Nat := if level = 0 then bits va 20 16 else bits va (levelShift level + 8) (levelShift level)

/-- The walk from the table of a level down (R235 to R238). -/
def State.walkFrom (s : State) (core : Option Nat) (va : Nat) : Nat → Nat → Walk
  | level, table =>
    let e := s.pte core (table + 16 * levelIndex level va)
    if !bit e 0 then .notPresent
    else if bit e 1 then
      let l : Leaf := { raw := BitVec.ofNat 128 e, size := 2 ^ levelShift level }
      if level ≥ 3 then .malformed else if l.ok level then .leaf l else .malformed
    else
      match level with
      | 0 => .malformed
      | level' + 1 =>
        let next := bits e 47 9 * 2 ^ 9
        let len := if level' = 0 then 512 else 8192
        if bits e 127 48 != 0 || bits e 8 2 != 0 || (level' != 0 && bits e 12 9 != 0) || regionOf next len != some 0 then .malformed
        else s.walkFrom core va level' next

/-- A fresh walk of a pointer under an ASID (R233, R234). -/
def State.walk (s : State) (core : Option Nat) (asid : Nat) (ptr : DWord) : Walk :=
  let e := (s.asid asid).ident
  let root := bits e.toNat 47 13 * 2 ^ 13
  if bits ptr.toNat 63 61 != 0 || !identValid e || regionOf root 8192 != some 0 then .malformed
  else s.walkFrom core (bits ptr.toNat 56 0) 4 root

/-- A core's kept leaf for a pointer (R248). -/
def State.tlbHit (s : State) (core asid : Nat) (ptr : DWord) : Option Leaf :=
  let va := bits ptr.toNat 56 0
  ((s.core core).tlb.find? fun t => t.asid == asid && t.va ≤ va && va < t.va + t.size).map fun t => { raw := t.leaf, size := t.size }

/-- A translation on behalf of a core: a kept leaf or a fresh walk, the spec leaving which (R248). -/
def State.translate (s : State) (core : Option Nat) (asid : Nat) (ptr : DWord) : Walk :=
  match core with
  | none => s.walk none asid ptr
  | some c =>
    match s.tlbHit c asid ptr with
    | some l =>
      if bits ptr.toNat 63 61 != 0 || !identValid (s.asid asid).ident then .malformed
      else if Config.walkAfresh s.choice then s.walk core asid ptr else .leaf l
    | none => s.walk core asid ptr

/-- The physical address of a pointer in a leaf's page. -/
def Leaf.pa (l : Leaf) (ptr : DWord) : Nat := l.frame + bits ptr.toNat 56 0 % l.size

/-- A core keeps the leaf of a valid walk (R248). -/
def State.keepLeaf (s : State) (core asid : Nat) (ptr : DWord) (l : Leaf) : State :=
  let va := bits ptr.toNat 56 0
  let c := s.core core
  let e : TlbEntry := { asid := asid, va := va - va % l.size, size := l.size, leaf := l.raw }
  s.setCore { c with tlb := upsert (fun t => t.asid == asid && t.va == e.va) e c.tlb }

/-- A fault of an access, with the SUB of its trap record (R339). -/
abbrev AccessFault := Cause × Nat

/-- What an access does, as the checks of R239 distinguish it. -/
inductive Access where
  | load
  | store
  /-- an atomic other than load; `atomLoad` is the load operation of an atomic -/
  | atomic
  | atomLoad
  deriving DecidableEq, Repr

def Access.writes : Access → Bool | .store | .atomic => true | _ => false

/-- PERMISSION (R239): RD for a load or any atomic, W for a store or an atomic other than load. -/
def Leaf.permits (l : Leaf) (k : Access) : Bool :=
  (k == .store || l.rd) && (!k.writes || l.w)

/-- The tags of the granules that n bytes at a pointer touch agree with the pointer's tag (R242). -/
def State.tagsOk (s : State) (l : Leaf) (ptr : DWord) (n : Nat) : Bool :=
  !l.tag || (List.range (((l.pa ptr) % 32 + n + 31) / 32)).all fun i =>
    (s.mem.read (tagKey (l.pa ptr) + i)).toNat % 16 == bits ptr.toNat 60 57

/-- Formats that a scalar access and a device's own access accept (R101, R324, R395). -/
def Leaf.plainFmt (l : Leaf) : Bool := !l.cmp && (l.fmt == 0x20 || l.fmt ≤ 0x0F)
/-- Raw pages (R186, R350, R375). -/
def Leaf.isRaw (l : Leaf) : Bool := !l.cmp && l.fmt == 0x20

/-- Translation and the checks of R239 for an access of n bytes within one page, `fmtOk` deciding FORMAT_ACCESS: the leaf, or
the fault. -/
def State.checkAccess (s : State) (core : Option Nat) (asid : Nat) (ptr : DWord) (n : Nat) (k : Access) (fmtOk : Leaf → Bool) :
    Except AccessFault Leaf :=
  match s.translate core asid ptr with
  | .notPresent => .error (.translation, 1)
  | .malformed => .error (.translation, 2)
  | .leaf l =>
    if !l.permits k then .error (.permission, 0)
    else if !fmtOk l then .error (.formatAccess, 0)
    else if !s.tagsOk l ptr n then .error (.tagMismatch, 0)
    else .ok l

/-- The state after an access used a leaf: the core keeps it, and the next choice is fresh. -/
def State.usedLeaf (s : State) (core : Option Nat) (asid : Nat) (ptr : DWord) (l : Leaf) : State :=
  match core with
  | none => s
  | some c => { s.keepLeaf c asid ptr l with choice := s.choice + 1 }

end Sys2Proof.Machine
end

