-- ==== Sys2Proof/Machine/Access.lean ====
section
/-! DEFINITION. Finding and changing teams, groups and splits, the scalar registers (R40), a team's coordinates (R14), memory
operations made by the device itself, and the context area (R350 to R352). -/

namespace Sys2Proof.Machine

/-! Teams, groups, splits. -/

def State.team? (s : State) (id : Nat) : Option Team := s.teams.find? fun t => t.id == id
def State.modTeam (s : State) (id : Nat) (f : Team → Team) : State :=
  { s with teams := s.teams.map fun t => if t.id == id then f t else t }
def Team.group? (t : Team) (gid : Nat) : Option Group := t.groups.find? fun g => g.gid == gid
def Team.modGroup (t : Team) (gid : Nat) (f : Group → Group) : Team :=
  { t with groups := t.groups.map fun g => if g.gid == gid then f g else g }
def State.group? (s : State) (team gid : Nat) : Option Group := (s.team? team).bind fun t => t.group? gid
def State.modGroup (s : State) (team gid : Nat) (f : Group → Group) : State := s.modTeam team fun t => t.modGroup gid f
def Group.split? (g : Group) (k : Fin 4) : Option Split := g.splits[k.val]
def Group.setSplit (g : Group) (k : Nat) (p : Option Split) : Group := { g with splits := vset g.splits k p }
def Group.modSplit (g : Group) (k : Fin 4) (f : Split → Split) : Group :=
  { g with splits := vmod g.splits k.val fun p => p.map f }
def State.modSplit (s : State) (r : SplitRef) (f : Split → Split) : State :=
  s.modGroup r.team r.group fun g => g.modSplit r.split f
def State.launch? (s : State) (id : Nat) : Option Launch := s.launches.find? fun l => l.id == id
def State.modLaunch (s : State) (id : Nat) (f : Launch → Launch) : State :=
  { s with launches := s.launches.map fun l => if l.id == id then f l else l }

/-- Change the lane set of a split. -/
def Split.modSet (p : Split) (f : LaneSet → LaneSet) : Split := { p with set := f p.set }

/-- The numbers and splits of a group's live splits, lowest first. -/
def Group.live (g : Group) : List (Fin 4 × Split) :=
  (List.finRange 4).filterMap fun k => (g.split? k).map fun p => (k, p)

/-- Every deferred entry of a split, top first (R17). -/
def Split.deferred (p : Split) : List LaneSet := p.stack ++ p.overflow.map (·.2)

/-- The held lanes that have not exited: those that a live split or a deferred entry owns (R15). -/
def Group.remaining (g : Group) : Mask :=
  g.live.foldl (fun m kp => kp.2.deferred.foldl (fun m e => m ||| e.own) (m ||| kp.2.set.own)) 0

/-- The lanes on which some split acts, in a pass group the active lanes. -/
def Group.inPass (g : Group) : Bool := g.pass.isSome

/-! Scalar registers (R40). -/

/-- The lane set whose bank a register lies in, none for a register of the group. -/
def Group.regOwner (g : Group) (k : Fin 4) (r : SReg) : Option Nat :=
  if r.toNat < 24 then none else (g.split? k).map (·.set.uid)

/-- A scalar register as a split reads it: s0 is zero, s24 to s31 are the split's bank (R40). -/
def Group.readS (g : Group) (k : Fin 4) (r : SReg) : Word :=
  if r = 0 then 0
  else if r.toNat < 24 then vget g.s r.toNat 0
  else match g.split? k with
    | some p => vget p.set.bank (r.toNat - 24) 0
    | none => 0

/-- A scalar register written: s0 discards, s24 to s31 go to the split's bank (R40). A register written anew is no longer the
token of a command. -/
def Group.writeS (g : Group) (k : Fin 4) (r : SReg) (v : Word) : Group :=
  if r = 0 then g
  else
    let owner := g.regOwner k r
    let g := { g with tokens := g.tokens.filter fun t => !(t.reg == r && t.uid == owner) }
    if r.toNat < 24 then { g with s := vset g.s r.toNat v }
    else g.modSplit k fun p => p.modSet fun e => { e with bank := vset e.bank (r.toNat - 24) v }

/-- The 64-bit value of an even pair (R7, R40). -/
def Group.readPair (g : Group) (k : Fin 4) (r : SReg) : DWord := g.readS k (r + 1) ++ g.readS k r

/-- Scalar register n of a lane set, or of the group (R394): what a completing operation writes. -/
def Group.writeUid (g : Group) (uid : Nat) (r : SReg) (v : Word) : Group :=
  if r = 0 then g
  else if r.toNat < 24 then { g with s := vset g.s r.toNat v }
  else
    let put (e : LaneSet) : LaneSet := if e.uid == uid then { e with bank := vset e.bank (r.toNat - 24) v } else e
    { g with splits := g.splits.map fun p => p.map fun p =>
        { p with set := put p.set, stack := p.stack.map put, overflow := p.overflow.map fun o => (o.1, put o.2) } }

/-- Scalar register n as a completing lane instruction writes it (R42): s24 to s31 in the bank that the split now holds; the write is
gone when the split is. -/
def Group.writeSid (g : Group) (sid : Nat) (r : SReg) (v : Word) : Group :=
  if r = 0 then g
  else if r.toNat < 24 then { g with s := vset g.s r.toNat v }
  else { g with splits := g.splits.map fun p => p.map fun p =>
    if p.sid == sid then p.modSet fun e => { e with bank := vset e.bank (r.toNat - 24) v } else p }

/-- A register waits for a result (R33, R91). -/
def Group.busyReg (g : Group) (k : Fin 4) (r : SReg) : Bool :=
  r != 0 && g.busy.any fun b => b.reg == r && b.uid == g.regOwner k r

/-- A register waits for a result other than the token of an engine command. -/
def Group.busyResult (g : Group) (k : Fin 4) (r : SReg) : Bool :=
  r != 0 && g.busy.any fun b => b.reg == r && b.uid == g.regOwner k r && !b.token

/-- Some banked register of the split is the token of an outstanding command (R394). -/
def Group.bankedToken (g : Group) (k : Fin 4) : Bool :=
  g.busy.any fun b => b.token && b.uid.isSome && b.uid == (g.split? k).map (·.set.uid)

/-- Mark a register busy. -/
def Group.mark (g : Group) (k : Fin 4) (r : SReg) (owner : Nat) (token : Bool) : Group :=
  if r = 0 then g else { g with busy := g.busy ++ [{ reg := r, uid := g.regOwner k r, owner := owner, token := token }] }

/-- s16 to s31 as a split holds them (R41). -/
def Group.capture (g : Group) (k : Fin 4) : Vector Word 16 := Vector.ofFn fun i => g.readS k (BitVec.ofNat 5 (16 + i.val))

/-! Coordinates (R14). -/

def Level.size (l : Level) : Nat := l.x * l.y * l.z

/-- The level of a launch, (1, 1, 1) when it has none. -/
def LaunchRec.level (r : LaunchRec) (i : Nat) : Level := (r.levels[i]?).getD { dom := 0, x := 1, y := 1, z := 1 }

/-- Lanes held by a group (R14). -/
def LaunchRec.heldLanes (r : LaunchRec) : Mask := Mask.gen fun i => i.val < (r.level 0).size

/-- Groups of a team. -/
def LaunchRec.groups (r : LaunchRec) : Nat := (r.level 1).size

/-- The product of the extents of the levels from 2 up that satisfy `f`. -/
def LaunchRec.extent (r : LaunchRec) (f : Level → Bool) (dim : Level → Nat) : Nat :=
  ((r.levels.drop 2).filter f).foldl (fun n l => n * dim l) 1

/-- The extents over which this device deals teams: those of the levels below system. -/
def LaunchRec.localDims (r : LaunchRec) : Nat × Nat × Nat :=
  (r.extent (·.dom != 7) (·.x), r.extent (·.dom != 7) (·.y), r.extent (·.dom != 7) (·.z))

/-- The launch's total team extents (R14). -/
def LaunchRec.totalDims (r : LaunchRec) : Nat × Nat × Nat :=
  (r.extent (fun _ => true) (·.x), r.extent (fun _ => true) (·.y), r.extent (fun _ => true) (·.z))

/-- Teams of a stage, or of a launch without stages, on this device. -/
def LaunchRec.teamCount (r : LaunchRec) (stage : Nat) : Nat :=
  if r.nstage = 0 then let d := r.localDims; d.1 * d.2.1 * d.2.2
  else match r.stages[stage]? with | some j => j.teams | none => 0

/-- TEAMID of the team with a number within its stage (R14, R310). -/
def LaunchRec.coord (r : LaunchRec) (index : Nat) : Nat × Nat × Nat :=
  if r.nstage ≠ 0 then (index, 0, 0)
  else
    let d := r.localDims
    (index % d.1 + d.1 * r.sys.1, index / d.1 % d.2.1 + d.2.1 * r.sys.2.1, index / (d.1 * d.2.1) + d.2.2 * r.sys.2.2)

/-- The linear team index (R14). -/
def LaunchRec.linear (r : LaunchRec) (index : Nat) : Nat :=
  let c := r.coord index
  let d := r.totalDims
  if r.nstage ≠ 0 then index else c.1 + d.1 * (c.2.1 + d.2.1 * c.2.2)

/-- The launch of a team. -/
def State.launchOf (s : State) (t : Team) : Option Launch := s.launch? t.launch
def State.asidOf (s : State) (t : Team) : Nat := match s.launchOf t with | some l => l.asid | none => 0

/-! Operations that the device makes at the home (R266, R340, R378). -/

/-- An operation with nothing filled in. -/
def blankOp (agent : Agent) (asid : Nat) (kind : OpKind) (space : Space) (addr size : Nat) : MemOp :=
  { id := 0, agent := agent, uid := 0, cid := none, asid := asid, kind := kind, space := space, addr := addr, size := size,
    data := [], order := .relaxed, scope := .device, sc := false, past := [], clauses := [], place := .queue, stamp := 0,
    home := 0, vc := Vector.replicate 5 0, applied := [], result := none, rf := [], convert := .bytes, dest := .none,
    flag := none, bd := 15, done := false, epoch := 0, hostPend := false, atomic := false, check := [], flips := [], suspect := none, again := false, site := { spc := 0, lpc := 0, ptr := 0, lane := none } }

/-- An operation enters the machine: it receives its number and its arrival, and what it writes its check words (R250). -/
def State.pushOp (s : State) (o : MemOp) : State :=
  { s with ops := s.ops ++ [{ o with id := s.fresh, stamp := s.fresh, check := o.words o.carried }], fresh := s.fresh + 1 }

/-- Whole bytes as masked data. -/
def plainData (bs : List Byte) : List (Byte × Byte) := bs.map fun b => (b, 0xFF)

/-- A write homed (R258): its bytes at the home and at the home's die, its vector, its record for the other dies. A host write
waits for the host's completion (R266). -/
def State.homeOp (s : State) (o : MemOp) (data : List (Byte × Byte)) : State :=
  match o.space with
  | .scratch t =>
    { s.setScratch t ((s.scratchOf t).writeMasked o.addr data) with
      fresh := s.fresh + 1
      ops := s.ops.map fun x => if x.id == o.id then { o with data := data, place := .homed, stamp := s.fresh } else x }
  | .remote _ => s.setOp { o with place := .homed }
  | .mem =>
    let h := homeOf o.addr
    let s' := s.homeWrite o.addr data
    { s' with
      fresh := s.fresh + 1
      ops := s'.ops.map fun x => if x.id == o.id then
        { o with data := data, place := .homed, stamp := s.fresh, home := h, vc := vget s'.vectors h (Vector.replicate 5 0),
                 applied := [h], hostPend := regionOf o.addr 1 == some 3 } else x }

/-- A write made at the home at once, with what precedes it in program order (R266). -/
def State.homeNew (s : State) (o : MemOp) : State :=
  (s.pushOp o).homeOp { o with id := s.fresh, stamp := s.fresh, check := o.words o.carried } o.data

/-- The pieces of a run of n bytes at a pointer that lie within one sector each: offset and length. -/
def sectorPieces (a : Nat) : Nat → Nat → List (Nat × Nat)
  | 0, _ => []
  | fuel + 1, n =>
    if n = 0 then []
    else
      let k := Nat.min n (32 - a % 32)
      (0, k) :: (sectorPieces (a + k) fuel (n - k)).map fun p => (p.1 + k, p.2)

/-- Bytes written by the device through an ASID's translation, sector by sector; the first fault with its address. -/
def State.deviceWrite (s : State) (asid : Nat) (ptr : DWord) (bs : List Byte) (fmtOk : Leaf → Bool) :
    Except (AccessFault × DWord) State :=
  (sectorPieces ptr.toNat bs.length bs.length).foldl (fun acc p =>
    match acc with
    | .error e => .error e
    | .ok s =>
      let a := ptr + BitVec.ofNat 64 p.1
      match s.checkAccess none asid a p.2 .store fmtOk with
      | .error e => .error (e, a)
      | .ok l =>
        let data := (bs.drop p.1).take p.2
        .ok (s.homeNew { blankOp .device asid .store .mem (l.pa a) data.length with data := plainData data, done := true })) (.ok s)

/-- Bytes read by the device through an ASID's translation, as a core, or the homes, hold them. -/
def State.deviceRead (s : State) (core : Option Nat) (asid : Nat) (ptr : DWord) (n : Nat) (fmtOk : Leaf → Bool) :
    Except (AccessFault × DWord) (List Byte) :=
  (sectorPieces ptr.toNat n n).foldl (fun acc p =>
    match acc with
    | .error e => .error e
    | .ok bs =>
      let a := ptr + BitVec.ofNat 64 p.1
      match s.checkAccess core asid a p.2 .load fmtOk with
      | .error e => .error (e, a)
      | .ok l => .ok (bs ++ (s.find none core seesAll (l.pa a) p.2).1)) (.ok [])

/-- A device's access of n bytes does not wait for a drained well (R356). -/
def State.reachable (s : State) (core : Option Nat) (asid : Nat) (ptr : DWord) (n : Nat) : Bool :=
  (sectorPieces ptr.toNat n n).all fun p =>
    match s.translate core asid (ptr + BitVec.ofNat 64 p.1) with
    | .leaf l => s.wellsOpen (l.pa (ptr + BitVec.ofNat 64 p.1)) p.2
    | _ => true

/-! The context area (R350 to R352). -/

/-- The size of a group block (R351). -/
def LaunchRec.blockSize (r : LaunchRec) : Nat := (32768 + (r.vregs + r.qbud) * 128 + 4095) / 4096 * 4096

/-- The size of the proof region (R351). -/
def LaunchRec.proofSize (r : LaunchRec) : Nat := if r.bpass then 512 * r.groups * 4 ^ r.depth else 0

/-- The size of a team area (R351). -/
def LaunchRec.areaSize (r : LaunchRec) : Nat :=
  4096 + 32 * r.blockSize + r.tiles * 8192 + r.scratch * 1024 + r.proofSize

/-- Pages that the context pool accepts (R350). -/
def Leaf.isPool (l : Leaf) : Bool := l.isRaw && l.rd && l.w && !l.sc

/-- The address of an offset in a team's area. -/
def State.areaAddr (s : State) (t : Team) (off : Nat) : DWord :=
  (s.asid (s.asidOf t)).cpbase + BitVec.ofNat 64 (t.area.getD 0 + off)

/-- The address of a deferred entry's slot in a group block (R352). -/
def State.slotAddr (s : State) (t : Team) (r : LaunchRec) (gid slot : Nat) : DWord :=
  s.areaAddr t (4096 + gid * r.blockSize + 0x1240 + 48 * slot)

/-- A deferred entry as the area holds it: PC, OWN, EXEC, s24 to s31 (R352). -/
def LaneSet.bytes (e : LaneSet) : List Byte :=
  natLe 8 e.pc.toNat ++ natLe 4 e.own.toNat ++ natLe 4 e.exec.toNat ++ e.bank.toList.flatMap fun w => natLe 4 w.toNat

/-- A lane set read back from the area: its PC, OWN, EXEC within OWN, and bank (R350, R353). -/
def LaneSet.ofBytes (e : LaneSet) (bs : List Byte) : LaneSet :=
  { e with
    pc := BitVec.ofNat 64 (leNat (bs.take 8))
    own := BitVec.ofNat 32 (leNat ((bs.drop 8).take 4))
    exec := BitVec.ofNat 32 (leNat ((bs.drop 12).take 4)) &&& BitVec.ofNat 32 (leNat ((bs.drop 8).take 4))
    bank := Vector.ofFn fun i => BitVec.ofNat 32 (leNat ((bs.drop (16 + 4 * i.val)).take 4)) }

/-- Move a stack's bottom entries beyond the fourth to slots of the overflow area that are not in use (R17, R20); the first byte that
cannot be written. -/
def State.spill (s : State) (t : Team) (r : LaunchRec) (gid : Nat) (used : List Nat) :
    Nat → Split → Except DWord (State × Split)
  | 0, p => .ok (s, p)
  | fuel + 1, p =>
    if p.stack.length ≤ 4 then .ok (s, p)
    else
      match p.stack.getLast? with
      | none => .ok (s, p)
      | some e =>
        let slot := ((List.range 32).find? fun i => !used.contains i).getD 31
        match s.deviceWrite (s.asidOf t) (s.slotAddr t r gid slot) e.bytes Leaf.isPool with
        | .error e => .error e.2
        | .ok s' => s'.spill t r gid (slot :: used) fuel { p with stack := p.stack.dropLast, overflow := (slot, e) :: p.overflow }

/-- Slots that a group's overflow entries hold. -/
def Group.usedSlots (g : Group) : List Nat := g.live.flatMap fun kp => kp.2.overflow.map (·.1)

/-- A split with its stack held to four entries (R17), the others in slots beside the used ones; the address at which the area cannot
be written. -/
def State.fitStack (s : State) (t : Team) (gid : Nat) (used : List Nat) (p : Split) : Except DWord (State × Split) :=
  match s.launchOf t with
  | some l => s.spill t l.record gid used p.stack.length p
  | none => .ok (s, p)

/-- The lanes of a pass group that have become UNDECIDED (R202). -/
def Group.undecided (g : Group) : Mask := match g.pass with | some p => p.undecided | none => 0

/-- The top deferred entry of a split and what remains, read back from the area when the stack is empty: none when there is no
entry, else the first byte that cannot be read (R17, R350). UNDECIDED lanes of a pass do not come back (R202). -/
def State.popEntry (s : State) (t : Team) (gid : Nat) (p : Split) : Except DWord (Option (LaneSet × Split)) :=
  let gone := match t.group? gid with | some g => g.undecided | none => 0
  match p.stack with
  | e :: es => .ok (some (e, { p with stack := es }))
  | [] =>
    match p.overflow with
    | [] => .ok none
    | (slot, e) :: es =>
      match s.launchOf t with
      | none => .ok none
      | some l =>
        match s.deviceRead none l.asid (s.slotAddr t l.record gid slot) 48 Leaf.isPool with
        | .error x => .error x.2
        | .ok bs =>
          let e := e.ofBytes bs
          .ok (some ({ e with exec := e.exec &&& ~~~gone }, { p with overflow := es }))

end Sys2Proof.Machine
end

