-- ==== Sys2Proof/Machine/Await.lean ====
section
/-! DEFINITION. What a group waits on (R354, R355): the operations, commands, loops and long-latency writes that keep its splits and its
clauses from going on. -/

namespace Sys2Proof.Machine

/-- The registers of an operand of n words. -/
def regsFrom (r : SReg) (n : Nat) : List SReg := (List.range n).map fun k => r + BitVec.ofNat 5 k

/-- The scalar registers that a scalar instruction may wait for. -/
def scalarRegs : Instr → List SReg
  | .add d a b | .sub d a b | .mul d a b | .mulhi d a b | .mulhu d a b | .and d a b | .or d a b | .xor d a b | .shl d a b | .shr d a b
  | .sra d a b | .min d a b | .max d a b | .minu d a b | .maxu d a b | .slt d a b | .sltu d a b | .seq d a b | .divu d a b | .remu d a b
  | .barHold d a b | .barOwe d a b | .barMarkn d a b => [d, a, b]
  | .popc d a | .clz d a | .ctz d a | .brev d a | .addi d a _ | .andi d a _ | .ori d a _ | .xori d a _ | .shli d a _ | .shri d a _
  | .srai d a _ | .slti d a _ | .muli d a _ | .barMark d a | .barJoin d a | .stepq d a _ | .stepp d a _ => [d, a]
  | .lui d _ | .mfc d _ => [d]
  | .sld d a _ | .sst d a _ => d :: regsFrom a 2
  | .sld2 d a _ | .sst2 d a _ => regsFrom d 2 ++ regsFrom a 2
  | .satom d a b f => regsFrom d (if f.size then 2 else 1) ++ regsFrom a 2 ++ regsFrom b (if f.size then 2 else 1)
  | .bz c _ | .bnz c _ => [c]
  | .call _ | .ret => [31]
  | .bx a | .mtc a _ | .mtcExec a | .mtcTcfg a _ | .mtcQdep a _ | .mtcG a _ | .mtcFabw a => [a]
  | .mtcBd a _ => regsFrom a 2
  | .run _ _ _ => regsFrom 16 16
  | .runx a _ _ => a :: regsFrom 16 16
  | .cpy d a b bar _ | .cpys d a b bar _ => d :: regsFrom a 2 ++ if bar then [b] else []
  | .siph d a _ | .lnch d a _ => d :: regsFrom a 2
  | .mloop d a _ _ _ | .mloopSbp d a _ _ _ => d :: regsFrom a 4
  | .mloopDirect d a b _ _ _ => d :: regsFrom a 4 ++ regsFrom b 2
  | _ => []

/-- The scalar instruction that a split stands on, as its core would fetch it. -/
def State.standsOn (s : State) (t : Team) (p : Split) : Option Instr :=
  match s.translate (some t.core) (match s.launch? t.launch with | some l => l.asid | none => 0) p.set.pc with
  | .leaf l => if l.xn then none else (decodeScalar (BitVec.ofNat 32 (leNat (s.find none (some t.core) seesAll (l.pa p.set.pc) 4).1))).toOption
  | _ => none

/-- What of the machine is outstanding for a group under some of its flags. -/
def State.flagged (s : State) (t : Team) (g : Group) (mask : BitVec 12) : List Nat :=
  ((s.ops.filter fun o => !o.done && o.group? == some (t.id, g.gid) && match o.flag with | some f => mask.getLsbD f.val | none => false).map (·.id)) ++
  (s.late.filter fun l => l.team == t.id && l.group == g.gid && mask.getLsbD l.flag.val).map (·.id)

/-- The commands of an engine queue. -/
def Group.queued (g : Group) (q : Nat) : List Nat := (vget g.engines q []).filterMap fun x => match x with | .cmd id => some id | .mark _ => none

/-- What a split waits on: the owners of the registers that its instruction names, and what the instruction itself awaits (R27, R28, R183,
R228, R291, R292). -/
def State.splitAwaits (s : State) (t : Team) (g : Group) (k : Fin 4) (p : Split) : List Nat :=
  match p.status, s.standsOn t p with
  | .running, some i =>
    let regs := (g.busy.filter fun b => (scalarRegs i).any fun r => b.reg == r && b.uid == g.regOwner k r).map (·.owner)
    let own (u : Nat) : Bool := u == p.set.uid
    regs ++ match i with
      | .waitk mask => s.flagged t g mask
      | .qfence mask => (List.range 8).flatMap fun q => if mask.getLsbD q then g.queued q else []
      | .cpy _ _ _ _ q | .cpys _ _ _ _ q | .siph _ _ q => if 16 ≤ (g.queued q.toNat).length then g.queued q.toNat else []
      | .mloop _ _ _ _ _ | .mloopSbp _ _ _ _ _ | .mloopDirect _ _ _ _ _ _ => (s.loops.filter fun l => l.team == t.id).map (·.id)
      | .exit =>
        ((s.ops.filter fun o => !o.done && o.agent == .group t.id g.gid t.core && (own o.uid || match o.cid with | some c => p.set.ran.contains c | none => false)).map (·.id)) ++
        ((s.late.filter fun l => p.set.ran.contains l.cid).map (·.id)) ++ ((s.cmds.filter fun c => own c.uid).map (·.id)) ++
        (s.loops.filter fun l => own l.uid).map (·.id)
      | .sld _ _ _ | .sld2 _ _ _ | .sst _ _ _ | .sst2 _ _ _ | .satom _ _ _ _ | .mtcBd _ _ | .fence _ _ _ | .barMark _ _ | .barJoin _ _
      | .barHold _ _ _ | .barOwe _ _ _ | .barMarkn _ _ _ => ((s.pastOps p.set.past []).filter fun o => !o.done).map (·.id)
      | _ => []
  | _, _ => []

/-- What the clause at the head of a queue waits on: the flags of its wait mask, or what the group's lane instructions have outstanding. -/
def State.clauseAwaits (s : State) (t : Team) (g : Group) (q : Clause) : List Nat :=
  match q.fetched with
  | none => []
  | some (h, _) =>
    if q.issuing then (s.ops.filter fun o => !o.done && o.cid.isSome && o.group? == some (t.id, g.gid)).map (·.id)
    else s.flagged t g h.wait

/-- Everything that a group waits on. -/
def State.groupAwaits (s : State) (t : Team) (g : Group) : List Nat :=
  (g.live.flatMap fun kp => s.splitAwaits t g kp.1 kp.2) ++ g.clauses.toList.flatMap fun q => match q with | c :: _ => s.clauseAwaits t g c | [] => []

/-- A group waits on something (R354). -/
def State.awaits (s : State) (team gid id : Nat) : Bool :=
  match s.team? team with
  | none => false
  | some t => match t.group? gid with | some g => (s.groupAwaits t g).contains id | none => false

/-- What a group waits on has completed: its watchdog starts again (R354). -/
def Group.awaited (g : Group) (yes : Bool) : Group := { g with watch := if yes then 0 else g.watch }

end Sys2Proof.Machine
end

