-- ==== Sys2Proof/Machine/Ops.lean ====
section
/-! DEFINITION. The operations that many instructions share: taking a fault (R336 to R349) and answering it (R344), the end of
groups, teams and launches (R28, R319, R335, R378), instruction boundaries with merging and resuming (R19, R20), and the issue
of a scalar instruction (R91). -/

namespace Sys2Proof.Machine

/-! Words that the device sends (R340, R378, R379). -/

/-- The MSI-X vector of an ASID fires when it is enabled (R376). -/
def State.fireVector (s : State) (asid : Nat) : State :=
  let v := (s.asid asid).vec
  if v.getLsbD 31 then { s with msix := s.msix ++ [v.toNat % 65536] } else s

/-- Set a bit of STAT (R376). -/
def State.setStat (s : State) (asid n : Nat) : State :=
  let a := s.asid asid
  s.setAsid { a with stat := a.stat ||| BitVec.ofNat 32 (2 ^ n) }

/-- Bytes sent by the device through an ASID's translation as system-scope stores, in ascending order, the last of which fires
the vector when it completes (R340, R378, R379, R395); none when some byte cannot be written. -/
def State.deviceSend (s : State) (asid : Nat) (ptr : DWord) (bs : List Byte) (order : Order) (past : List Nat) : Option State :=
  let ps := sectorPieces ptr.toNat bs.length bs.length
  (ps.foldl (fun (acc : Option (State × List Nat × Nat)) p =>
    match acc with
    | none => none
    | some (s, past, n) =>
      let a := ptr + BitVec.ofNat 64 p.1
      match s.checkAccess none asid a p.2 .store Leaf.plainFmt with
      | .error _ => none
      | .ok l =>
        let last := n + 1 == ps.length
        let o := { blankOp .device asid .store .mem (l.pa a) p.2 with
          data := plainData ((bs.drop p.1).take p.2), order := order, scope := .system, sc := l.sc, past := past
          dest := if last then .vector asid else .none, done := !last }
        some (s.pushOp o, past ++ [s.fresh], n + 1)) (some (s, past, 0))).map (·.1)

/-- A word sent, or the STAT bit that says it could not be (R395). -/
def State.deviceWord (s : State) (asid : Nat) (ptr : DWord) (bs : List Byte) (order : Order) (past : List Nat) (statBit : Nat) : State :=
  match s.deviceSend asid ptr bs order past with
  | some s' => s'
  | none => (s.setStat asid statBit).fireVector asid

/-- The CPL word of a launch or of a rejected record (R378): a release behind every operation of the ASID. -/
def State.writeCpl (s : State) (asid : Nat) (cpl : DWord) (status ident : Nat) : State :=
  if cpl = 0 then s
  else s.deviceWord asid cpl (natLe 4 status ++ natLe 4 ident) .release ((s.ops.filter fun o => o.asid == asid).map (·.id)) 6

/-- The CPL words of launches that have ended and whose trap records are written (R378). -/
def State.flushFinals (s : State) : State :=
  s.launches.foldl (fun s l =>
    match l.final with
    | some st =>
      if (s.asid l.asid).traps.any fun t => t.2.launch == l.id then s
      else ({ s with launches := s.launches.filter fun x => x.id != l.id } : State).writeCpl l.asid l.record.cpl st l.id
    | none => s) s

/-! Engine commands and their tokens (R33, R291, R294, R394). -/

/-- A command's status reaches its token register: the bank of its lane set, or the group (R394); a watchdog of a group that waits for it
starts again (R354). -/
def State.writeToken (s : State) (team gid uid : Nat) (reg : SReg) (owner : Nat) (v : Word) : State :=
  let waits := s.awaits team gid owner
  s.modGroup team gid fun g =>
    let owned := g.busy.filter fun b => b.owner == owner
    let g' := Group.awaited { g with busy := g.busy.filter fun b => b.owner != owner } waits
    if reg = 0 || owned.isEmpty then g'
    else
      { g'.writeUid uid reg v with
        tokens := g.tokens ++ [{ reg := reg, uid := if reg.toNat < 24 then none else some uid, cmd := owner }] }

/-- Join marks with no command ahead of them in any queue are passed (R265, R292). -/
def Group.dropMarks (g : Group) : Group :=
  let ahead (id : Nat) (q : List QItem) : Bool := q.contains (.mark id) && (q.takeWhile (· != .mark id)).any fun x => match x with | .cmd _ => true | .mark _ => false
  { g with engines := g.engines.map fun q => q.filter fun x =>
      match x with
      | .mark id => g.engines.toList.any (ahead id)
      | .cmd _ => true }

def State.dropCmd (s : State) (c : Cmd) : State :=
  ({ s with cmds := s.cmds.filter fun x => x.id != c.id } : State).modGroup c.team c.group fun g =>
    ({ g with engines := g.engines.map fun q => q.filter fun x => x != .cmd c.id } : Group).dropMarks

/-- A command completes: it leaves its queue and its token receives the status, in both copies of a redundant team (R358). -/
def State.completeCmd (s : State) (id : Nat) (v : Word) : State :=
  (s.cmds.filter fun c => c.id == id || c.kind == .echo id).foldl (fun s c =>
    (s.dropCmd c).writeToken c.team c.group c.uid c.tok c.id v) s

def State.cmd? (s : State) (id : Nat) : Option Cmd := s.cmds.find? fun c => c.id == id
def State.modCmd (s : State) (id : Nat) (f : Cmd → Cmd) : State := { s with cmds := s.cmds.map fun c => if c.id == id then f c else c }

/-- Operations of a command that are still in the machine. -/
def State.cmdOps (s : State) (id : Nat) : List MemOp :=
  s.ops.filter fun o => match o.agent with | .engine _ _ _ k => k == id | _ => false

/-- The teams that receive a command's token are on their cores; the token of a saved team waits for its restore. -/
def State.tokenHome (s : State) (id : Nat) : Bool :=
  s.cmds.all fun c => !(c.id == id || c.kind == .echo id) || s.teams.all fun t => t.id != c.team || t.state != .saved

/-- A command that has ended completes once its operations are performed at device scope (R265, R294), and once copy 1 of a redundant
team has taken it up (R358). -/
def State.finishCmd (s : State) (id : Nat) : State :=
  match s.cmd? id with
  | none => s
  | some c =>
    match c.ending with
    | none => s
    | some v =>
      let mailed := s.teams.any fun t => match t.red with | some r => r.mail.contains id | none => false
      if (s.cmdOps id).all (·.done) && !mailed && s.tokenHome id then s.completeCmd id (BitVec.ofNat 32 v) else s

/-- The results that a command's reads returned are taken: later reads are made afresh. -/
def State.cmdTaken (s : State) (id : Nat) : State :=
  { s with ops := s.ops.map fun o => match o.agent with
      | .engine _ _ _ k => if k == id && o.reading then { o with dest := .none, done := o.result.isSome } else o
      | _ => o }

/-- A command ends with a status word. -/
def State.endCmd (s : State) (id v : Nat) : State := ((s.cmdTaken id).modCmd id fun c => { c with ending := some v }).finishCmd id

/-! Trap records (R337 to R341). -/

/-- Queue a trap record, or set STAT[3] when the ASID has no fault ring (R340, R341). -/
def State.record (s : State) (t : Trap) : State :=
  let a := s.asid t.asid
  if a.frsize = 0 then s.setStat t.asid 3
  else s.setAsid { a with seq := a.seq + 1, traps := a.traps ++ [(a.seq + 1, t)] }

/-- The fields of a trap record that its group and split give (R337, R338). -/
def State.siteTrap (s : State) (t : Team) (g : Group) (split : Nat) (pc : DWord) (src : Nat) (f : AccessFault) (addr : DWord) : Trap :=
  { asid := s.asidOf t, launch := t.launch, cause := f.1, sub := f.2, ucode := 0, addr := addr, spc := pc, lpc := 0
    team := match s.launchOf t with | some l => l.record.coord t.index | none => (t.index, 0, 0)
    stage := t.stage, group := g.gid, split := split, lane := none, bpm := g.inPass, held := false, src := src, node := 0, reg := 0, behind := [] }

/-! The end of work (R28, R289, R319, R335, R345). -/

/-- A matrix loop taken back: its C tiles as the shadow holds them (R186). -/
def Loop.rollback (l : Loop) (t : Team) : Team :=
  { t with tiles := t.tiles.mapIdx fun i m => if l.tc ≤ i then (l.shadow[i - l.tc]?).getD m else m }

/-- The team barrier with every member arrived moves on (R285). -/
def Team.settleBar (t : Team) : Team :=
  let members := t.groups.filter fun g => !g.ended
  if !members.isEmpty && members.all fun g => t.arrived.contains g.gid then { t with barGen := t.barGen + 1, arrived := [] } else t

/-- A status word of `bar` (R284): 0 OK, 1 ABANDONED, 2 OVERARRIVE. -/
def barStatus (status : Nat) (gen : BitVec 4) : Word := BitVec.ofNat 32 (16 * status + gen.toNat)

/-- The generation of a barrier: the team's, or an object's (R285, R286). -/
def Team.generation (t : Team) (obj : Option Nat) : BitVec 4 :=
  match obj with
  | none => t.barGen
  | some a => BitVec.ofNat 4 ((Memory.read t.scratch (a + 4)).toNat / 16)

/-- A split's waiting `bar` returns with a status word (R287). -/
def Group.returnBar (g : Group) (k : Fin 4) (w : BarWait) (v : Word) : Group :=
  (g.writeS k w.sd v).modSplit k fun p => { p.modSet (fun e => { e with pc := e.pc + 4 }) with status := .running }

/-- Another group of the team was killed (R289): a waiting `bar` returns ABANDONED, else the next one will. -/
def Group.abandon (g : Group) (t : Team) : Group :=
  let waits := (List.finRange 4).filterMap fun k =>
    match g.split? k with
    | some p => match p.status with | .barWait w => some (k, w) | .running => none
    | none => none
  if g.ended then g
  else if waits.isEmpty then { g with abandoned := true }
  else waits.foldl (fun g kw => g.returnBar kw.1 kw.2 (barStatus 1 (t.generation kw.2.obj))) g

/-- A group with nothing left of it. -/
def Group.close (g : Group) : Group :=
  { g with splits := Vector.replicate 4 none, clauses := Vector.replicate 4 [], engines := Vector.replicate 8 [], busy := [],
           tokens := [], ended := true }

/-- The work that a held fault stops belongs to a group. -/
def State.workIn (s : State) (w : HeldWork) (team gid : Nat) : Bool :=
  match w with
  | .split r _ | .clause r _ => r.team == team && r.group == gid
  | .loop id => s.loops.any fun l => l.id == id && l.team == team && l.group == gid
  | .cmd id => s.cmds.any fun c => c.id == id && c.team == team && c.group == gid
  | _ => false

/-- A member whose collective ends by a fault tells its ring neighbours (R372, R375). -/
def State.notify (s : State) (c : Cmd) : State :=
  match c.kind with
  | .coll _ _ (some st) =>
    let n := st.ring.length
    let at_ (k : Nat) : List FabricMsg := (st.ring[k % n]?).toList.map fun node => .notice node (match s.team? c.team with | some t => dieOf t.core | none => 0) c.asid st.coll.buf
    if n < 2 || c.ending.isSome then s else { s with sent := s.sent ++ at_ (st.rank + 1) ++ at_ (st.rank + n - 1) }
  | _ => s

/-- A group ends: its clauses, commands, loops and held faults end with it. Loops are taken back, and writes that an open epoch
holds are dropped; other operations already issued are performed, their results going nowhere (R345). -/
def State.closeGroup (s : State) (team gid : Nat) : State :=
  let mine (t g : Nat) : Bool := t == team && g == gid
  let s : State := { s with
    held := s.held.filter fun h => !s.workIn h.work team gid
    teams := s.teams.map fun t =>
      if t.id == team then (s.loops.filter fun l => mine l.team l.group).foldl (fun t l => l.rollback t) t else t }
  ({ s with
    loops := s.loops.filter fun l => !mine l.team l.group
    cmds := s.cmds.filter fun c => !mine c.team c.group
    late := s.late.filter fun l => !mine l.team l.group
    ops := (s.ops.filter fun o => !(o.epoch != 0 && o.group? == some (team, gid))).map fun o =>
      if o.group? == some (team, gid) then { o with dest := .none, flag := none } else o } : State).modGroup
      team gid Group.close

/-- The cause of a launch's first kill (R319, R346). -/
def State.noteKill (s : State) (launch cause : Nat) : State :=
  s.modLaunch launch fun l => { l with killed := match l.killed with | some c => some c | none => some cause }

/-- A team leaves the machine with whatever its groups still do (R28, R345). -/
def State.dropTeam (s : State) (t : Team) : State :=
  let s := t.groups.foldl (fun s g => s.closeGroup t.id g.gid) s
  { s with
    held := s.held.filter fun h => h.work != .outcomeMap t.id
    teams := s.teams.filter fun x => x.id != t.id
    cores := s.cores.map fun c => { c with queue := c.queue.filter fun id => id != t.id } }

/-- The core's cycle count. -/
def State.cycleOf (s : State) (core : Nat) : Nat := (s.core core).cycle

/-- One more team of its stage has ended, with its duration (R331). -/
def State.countEnd (s : State) (t : Team) : State :=
  s.modLaunch t.launch fun l => { l with stages := l.stages.mapIdx fun i st =>
    if i == t.stage then
      { st with ended := st.ended + 1, durations := (st.durations ++ [s.cycleOf t.core - t.since]).drop (st.durations.length + 1 - 16) }
    else st }

/-- Every live team of a launch. -/
def State.teamsOf (s : State) (launch : Nat) : List Team := s.teams.filter fun t => t.launch == launch

/-- Teams of a stage that are still to be dealt. -/
def Launch.undealt (l : Launch) (stage : Nat) : Nat :=
  match l.stages[stage]? with
  | some st => l.record.teamCount stage - st.next + st.requeued.length
  | none => 0

/-- Every team of a stage has ended (R311). -/
def Launch.stageDone (l : Launch) (stage : Nat) : Bool :=
  match l.stages[stage]? with
  | some st => l.record.teamCount stage ≤ st.ended
  | none => true

/-- A launch whose teams have all ended (R311, R335) reports its status (R319), to the `lnch.end` that waits for it (R327) and
in its CPL word (R378). -/
def State.checkLaunch (s : State) (id : Nat) : State :=
  match s.launch? id with
  | none => s
  | some l =>
    let finished := l.cancel.isSome || (List.range l.stages.length).all l.stageDone
    if l.final.isSome || !finished || !(s.teamsOf id).isEmpty then s
    else
      let status := match l.cancel, l.killed with
        | some c, _ => 5 + 256 * c
        | none, some c => 6 + 256 * c
        | none, none => 0
      let s := s.modLaunch id fun l => { l with final := some status }
      let s := match l.parent with | some c => s.endCmd c status | none => s
      s.flushFinals

/-- A launch is cancelled (R335): its teams are discarded, nothing is requeued. After a failed scheduler read it reports that read's
cause, otherwise the cause of the first kill, or zero (R319). -/
def State.cancelLaunch (s : State) (id : Nat) (read : Option Nat) : State :=
  match s.launch? id with
  | none => s
  | some l =>
    if l.final.isSome || l.cancel.isSome then s
    else
      let s := s.modLaunch id fun l => { l with cancel := some (match read with | some c => c | none => l.killed.getD 0) }
      let s := { s with held := s.held.filter fun h => match h.work with | .stageCounter k _ => k != id | _ => true }
      ((s.teamsOf id).foldl (fun s t => s.dropTeam t) s).checkLaunch id

/-- A read that the scheduler makes for a stage (R324): the bytes; or the state in which the fault is held, or the launch
cancelled. -/
def State.schedulerRead (s : State) (l : Launch) (stage : Nat) (ptr : DWord) (n : Nat) : Except State (List Byte) :=
  match s.deviceRead none l.asid ptr n Leaf.plainFmt with
  | .ok bs => .ok bs
  | .error (f, a) =>
    let a' := s.asid l.asid
    let t : Trap := { asid := l.asid, launch := l.id, cause := f.1, sub := f.2, ucode := 0, addr := a, spc := 0, lpc := 0
                      team := (0, 0, 0), stage := stage, group := 0, split := 0, lane := none, bpm := false
                      held := f.1 == .translation, src := 5, node := 0, reg := 0, behind := [] }
    if f.1 == .translation && a'.frsize ≠ 0 then
      let s' := s.record t
      .error { s' with held := s'.held ++ [{ asid := l.asid, seq := a'.seq + 1, trap := t, work := .stageCounter l.id stage, answer := none }] }
    else
      .error ((s.record t).cancelLaunch l.id (some f.1.code))

/-- A stage's scheduler reads are stopped by a held fault (R324). -/
def State.stageHeld (s : State) (launch stage : Nat) : Bool := s.held.any fun h => h.work == .stageCounter launch stage

/-- HEAD and TAIL of a stage queue (R321). -/
def headTail (bs : List Byte) : Nat × Nat := (leNat (bs.take 4), leNat ((bs.drop 4).take 4))

/-- A stage's queue is closed (R322). -/
def Launch.closed (l : Launch) (stage : Nat) : Bool := stage = 0 || l.stageDone (stage - 1)

/-- A team counts by its copy 0 (R358). -/
def Team.counts (t : Team) : Bool := match t.red with | some r => r.copy == 0 | none => true

/-- The undispatched teams of a stage count as ended: those not yet dealt, and those in core queues (R322). -/
def State.endUndispatched (s : State) (l : Launch) (stage : Nat) : State :=
  let gone := s.teams.filter fun t => t.launch == l.id && t.stage == stage && t.state == .queued
  let queued := gone.map (·.id)
  let s : State := { s with
    teams := s.teams.filter fun t => !queued.contains t.id
    cores := s.cores.map fun c => { c with queue := c.queue.filter fun id => !queued.contains id } }
  s.modLaunch l.id fun l => { l with stages := l.stages.mapIdx fun i x =>
    if i == stage then { x with ended := x.ended + l.undealt stage + (gone.filter (·.counts)).length, next := l.record.teamCount stage, requeued := [] } else x }

/-- The undispatched teams of eligible stages whose queue is closed and empty count as ended (R311, R322). -/
def State.closeStages (s : State) (id : Nat) : State :=
  (List.range 8).foldl (fun s j =>
    match s.launch? id with
    | none => s
    | some l =>
      match l.record.stages[j]? with
      | none => s
      | some st =>
        let queued := s.teams.any fun t => t.launch == id && t.stage == j && t.state == .queued
        let eligible := match l.stages[j]? with | some x => x.eligible | none => false
        if st.qaddr = 0 || !eligible || !l.closed j || (l.undealt j = 0 && !queued) || s.stageHeld id j then s
        else
          match s.schedulerRead l j st.qaddr 8 with
          | .error s' => s'
          | .ok bs => if (headTail bs).1 = (headTail bs).2 then s.endUndispatched l j else s) s

/-- A team is in its bounds pass (R203 to R206). -/
def Team.inPasses (t : Team) : Bool := match t.pass with | some p => !p.released | none => false

/-- A team has ended (R28): a redundant copy counts once, with its twin's end (R358). -/
def State.teamOver (s : State) (t : Team) : State :=
  let s := s.dropTeam t
  let twinLives := match t.red with | some r => (s.team? r.twin).isSome | none => false
  if twinLives then s
  else (((s.countEnd t).closeStages t.launch).checkLaunch t.launch)

/-- A group has ended: its team's barrier may move on, and the team ends with its last group (R28, R285). A team in its bounds
pass ends only by the judgement of its passes (R205). -/
def State.groupOver (s : State) (team : Nat) : State :=
  let s := s.modTeam team Team.settleBar
  match s.team? team with
  | none => s
  | some t => if !t.inPasses && t.groups.all (·.ended) then s.teamOver t else s

/-- The team and its redundant twin (R360). -/
def State.copies (s : State) (team : Nat) : List Team :=
  match s.team? team with
  | none => []
  | some t => match t.red with
    | some r => t :: (s.team? r.twin).toList
    | none => [t]

/-- The collectives of groups that a fault ends tell their neighbours (R372). -/
def State.notifyAll (s : State) (mine : Cmd → Bool) : State := (s.cmds.filter mine).foldl State.notify s

/-- A group is killed, in both copies of a redundant team (R289, R345, R360). -/
def State.killGroup (s : State) (team gid cause : Nat) : State :=
  (s.copies team).foldl (fun s t =>
    let s := ((s.noteKill t.launch cause).notifyAll fun c => c.team == t.id && c.group == gid).closeGroup t.id gid
    let s := s.modTeam t.id fun t => { t with groups := t.groups.map fun g => if g.gid == gid then g else g.abandon t }
    s.groupOver t.id) s

/-- A team is killed, in both copies; under `requeue` it starts again (R345, R349, R360). -/
def State.killTeam (s : State) (team cause : Nat) (requeue : Bool) : State :=
  match s.team? team with
  | none => s
  | some t =>
    let s' := (s.copies team).foldl (fun s t => (s.notifyAll fun c => c.team == t.id).dropTeam t) (s.noteKill t.launch cause)
    if requeue then
      s'.modLaunch t.launch fun l => { l with stages := l.stages.mapIdx fun i st =>
        if i == t.stage then { st with requeued := st.requeued ++ [t.index] } else st }
    else ((s'.countEnd t).closeStages t.launch).checkLaunch t.launch

/-- A context is halted (R345): STAT[2], and every resident team of the ASID is to be saved. -/
def State.halt (s : State) (asid : Nat) : State :=
  let s := s.setStat asid 2
  { s with
    halted := if s.halted.contains asid then s.halted else s.halted ++ [asid]
    teams := s.teams.map fun t => if s.asidOf t == asid && t.state == .resident then { t with saving := true } else t }

/-- A cause reaches the launch's policy (R209, R345, R348, R349). -/
def State.contain (s : State) (cause : Cause) (team gid : Nat) : State :=
  match s.team? team with
  | none => s
  | some t =>
    match s.launchOf t with
    | none => s
    | some l =>
      let group := if t.inPasses then s.killTeam team cause.code false else s.killGroup team gid cause.code
      match cause with
      | .uncorrectableReg => group
      | .uncorrectableScratch => s.killTeam team cause.code l.record.idemp
      | _ =>
        match l.record.policy with
        | 0 => s.killTeam team cause.code false
        | 1 => group
        | _ => s.halt l.asid

/-- A held cause (R336). -/
def Cause.isHeld : Cause → Bool | .translation | .userTrap => true | _ => false

/-- Taking a fault (R336, R340, R341, R344, R345): its record is queued; a held cause stops its work and waits for the host, any
other goes to the policy. Without a fault ring a held cause is handled as abandoned. -/
def State.takeFault (s : State) (t : Trap) (team gid : Nat) (work : HeldWork) : State :=
  let a := s.asid t.asid
  if t.cause.isHeld && a.frsize ≠ 0 then
    let s' := s.record { t with held := true }
    { s' with held := s'.held ++ [{ asid := t.asid, seq := a.seq + 1, trap := { t with held := true }, work := work, answer := none }] }
  else (s.record t).contain t.cause team gid

/-! Instruction boundaries (R19, R20). -/

/-- The lane set that two sets form: the lower's number, bank and registers; lanes and program order of both (R20, R255). -/
def LaneSet.join (a b : LaneSet) : LaneSet :=
  { a with own := a.own ||| b.own, exec := a.exec ||| b.exec, past := unite a.past b.past, ran := unite a.ran b.ran
           order := unite a.order b.order, after := unite a.after b.after }

/-- A split has issued the instruction at its PC (R20): it waits in a `bar` whose operation is done, its `trap` is held, or the
instruction has issued a read. -/
def State.issuedAt (s : State) (r : SplitRef) (p : Split) : Bool :=
  p.status != .running || (s.held.any fun h => h.work == .split r p.set.uid && h.trap.cause == .userTrap) ||
  s.ops.any fun o => o.reading && o.uid == p.set.uid && (match o.agent with | .group t _ _ => t == r.team | _ => false)

/-- A split is stopped by a held fault (R342, R344). -/
def State.splitHeld (s : State) (r : SplitRef) (p : Split) : Bool :=
  s.held.any fun h =>
    match h.work with
    | .split r' uid => r' == r && uid == p.set.uid
    | .clause r' cid => r'.team == r.team && r'.group == r.group && p.set.ran.contains cid
    | .cmd id => s.cmds.any fun c => c.id == id && c.team == r.team && c.group == r.group && c.uid == p.set.uid &&
        (match c.kind with | .stage _ _ _ _ => true | _ => false)
    | _ => false

/-- The live splits of a group that may merge. -/
def State.mergeable (s : State) (team : Nat) (g : Group) : List (Fin 4 × Split) :=
  g.live.filter fun kp => !s.issuedAt { team := team, group := g.gid, split := kp.1 } kp.2

/-- The first two live splits of a group that stand at one PC and may merge. -/
def State.meeting (s : State) (team : Nat) (g : Group) : Option ((Fin 4 × Split) × (Fin 4 × Split)) :=
  let ok := s.mergeable team g
  (ok.flatMap fun a => (ok.filter fun b => a.1 < b.1 && a.2.set.pc == b.2.set.pc).map fun b => (a, b)).head?

/-- The work of lane sets that merged away counts as that of the lane set that took them in (R20, R93, R117): their operations,
commands and loops, and what a held fault stops. -/
def State.adopt (s : State) (team gid : Nat) (keep : Fin 4 × Nat) (gone : List Nat) : State :=
  let own (u : Nat) : Nat := if gone.contains u then keep.2 else u
  { s with
    ops := s.ops.map fun o => { o with uid := own o.uid }
    cmds := s.cmds.map fun c => { c with uid := own c.uid }
    loops := s.loops.map fun l => { l with uid := own l.uid }
    teams := s.teams.map fun t => if t.id == team then t.modGroup gid fun g =>
      { g with clauses := g.clauses.map fun q => q.map fun c => { c with uid := own c.uid } } else t
    held := s.held.map fun h => match h.work with
      | .split _ u => if gone.contains u then { h with work := .split { team := team, group := gid, split := keep.1 } keep.2 } else h
      | _ => h }

/-- Two live splits of a group merge (R20): the higher's stack goes above the lower's, its number is free, its bank is gone, and
its work counts as the merged split's. Without the context area, the address at which it cannot be written. -/
def State.mergeLive (s : State) (t : Team) (g : Group) (i j : Fin 4 × Split) : Except DWord State :=
  let queued := (vget g.clauses i.1.val [] ++ vget g.clauses j.1.val []).map (·.cid)
  let set := (i.2.set.join j.2.set)
  let p : Split := { sid := i.2.sid, set := { set with after := unite set.after queued }
                     stack := j.2.deferred ++ i.2.stack, overflow := i.2.overflow, status := .running }
  -- the slots of the higher's entries are free again
  match s.fitStack t g.gid ({ g with splits := vset g.splits j.1.val none } : Group).usedSlots p with
  | .error e => .error e
  | .ok (s, p) =>
    let gone := j.2.set.uid
    .ok ((s.adopt t.id g.gid (i.1, i.2.set.uid) [gone]).modGroup t.id g.gid fun g =>
        { (g.setSplit j.1.val none).setSplit i.1.val (some p) with busy := g.busy.filter fun b => b.uid != some gone })

/-- The deferred entries of a group that stand at an address. -/
def Group.deferredAt (g : Group) (pc : DWord) : List LaneSet := g.live.flatMap fun kp => kp.2.deferred.filter fun e => e.pc == pc

/-- The deferred entries at a live split's PC merge into it, bringing their lanes (R20). -/
def Group.absorb (g : Group) (k : Fin 4) : Group :=
  match g.split? k with
  | none => g
  | some p =>
    let met := g.deferredAt p.set.pc
    if met.isEmpty then g
    else
      let g : Group := { g with splits := g.splits.map fun q => q.map fun q =>
        { q with stack := q.stack.filter fun e => e.pc != p.set.pc, overflow := q.overflow.filter fun o => o.2.pc != p.set.pc } }
      g.modSplit k fun q => q.modSet fun e => met.foldl LaneSet.join e

/-- The first live split that may merge and has deferred entries at its PC. -/
def State.absorbing (s : State) (team : Nat) (g : Group) : Option (Fin 4 × Split) :=
  (s.mergeable team g).find? fun kp => !(g.deferredAt kp.2.set.pc).isEmpty

/-- A split number that a deferred entry may take, and the split whose stack gives it (R19, R20). -/
def Group.resumable (g : Group) : Option (Fin 4 × Fin 4 × Split) :=
  match (List.finRange 4).find? fun k => (g.split? k).isNone && (vget g.clauses k.val []).isEmpty with
  | none => none
  | some k => ((g.live.filter fun kp => !kp.2.deferred.isEmpty).head?).map fun kp => (k, kp.1, kp.2)

/-- A CONTEXT_AREA fault at a split, with the first byte of the area that could not be accessed (R18, R20, R337, R350). -/
def State.areaFault (s : State) (t : Team) (g : Group) (k : Fin 4) (p : Split) (sub : Nat) (addr : DWord) : State :=
  s.takeFault (s.siteTrap t g k.val p.set.pc 0 (.contextArea, sub) addr) t.id g.gid
    (.split { team := t.id, group := g.gid, split := k } p.set.uid)

/-- The homes may take what one spill writes (R259). -/
def State.spillFree (s : State) : Bool := s.homesFree 64

/-- What happens at an instruction boundary of a group (R19, R20): sets that stand at one PC merge, and deferred entries take
the unused split numbers. -/
def State.boundary (s : State) (team gid : Nat) : Nat → State
  | 0 => s
  | fuel + 1 =>
    match s.team? team with
    | none => s
    | some t =>
      match t.group? gid with
      | none => s
      | some g =>
        match s.meeting team g with
        | some (a, b) =>
          if 4 < a.2.stack.length + b.2.deferred.length && !s.spillFree then s
          else
            match s.mergeLive t g a b with
            | .ok s' => s'.boundary team gid fuel
            | .error e => s.areaFault t g a.1 a.2 1 e
        | none =>
          match s.absorbing team g with
          | some (k, p) =>
            ((s.adopt team gid (k, p.set.uid) ((g.deferredAt p.set.pc).map (·.uid))).modGroup team gid fun _ => g.absorb k).boundary team gid fuel
          | none =>
            match g.resumable with
            | none => s
            | some (k, owner, p) =>
              match s.popEntry t gid p with
              | .error e => s.areaFault t g owner p 2 e
              | .ok none => s
              | .ok (some (e, p')) =>
                (({ s with fresh := s.fresh + 1 } : State).modGroup team gid fun g =>
                  (g.setSplit owner.val (some p')).setSplit k.val
                    (some { sid := s.fresh, set := e, stack := [], overflow := [], status := .running })).boundary team gid fuel

/-- Enough for every merge and resumption of one boundary. -/
def boundaryFuel : Nat := 64

/-- A group's watchdog restarts (R354). -/
def Group.restart (g : Group) : Group := { g with watch := 0 }

/-- A group issues: its watchdog restarts, and so does that of the team's groups that wait in a `bar` (R354). -/
def Team.issued (t : Team) (gid : Nat) : Team :=
  { t with groups := t.groups.map fun g => if g.gid == gid || (g.live.any fun kp => kp.2.status != .running) then g.restart else g }

/-- The close at an action is over (R358). -/
def Team.closeOver (t : Team) (a : Action) : Team :=
  { t with red := t.red.map fun r => if r.closing == some a then { r with closing := none, granted := false } else r }

/-- A split goes on at an address (R21, R207): the group's turn passes from it and a pass counts the instruction. -/
def Group.goOn (g : Group) (k : Fin 4) (pc : DWord) : Group :=
  { g.modSplit k (fun p => p.modSet fun e => { e with pc := pc }) with
    last := k, pass := g.pass.map fun p => { p with issued := p.issued + 1 } }

/-- What the retirement of a split's scalar instruction does to its team, the boundary apart (R354, R358). -/
def Team.goOn (t : Team) (r : SplitRef) (pc : DWord) : Team :=
  ((t.modGroup r.group fun g => g.goOn r.split pc).issued r.group).closeOver (.scalar r)

/-- A scalar instruction of a split is done and the split goes on at an address: the group's turn, its watchdog, the pass's
count, then the instruction boundary (R20, R21, R207, R354). -/
def State.retire (s : State) (r : SplitRef) (pc : DWord) : State :=
  (s.modTeam r.team fun t => t.goOn r pc).boundary r.team r.group boundaryFuel

/-! Scalar issue (R91 to R93). -/

/-- The issuing split with what it belongs to. -/
structure Issuer where
  ref    : SplitRef
  team   : Team
  group  : Group
  split  : Split
  launch : Launch
  deriving DecidableEq, Repr

namespace Issuer
def pc (c : Issuer) : DWord := c.split.set.pc
def uid (c : Issuer) : Nat := c.split.set.uid
def read (c : Issuer) (r : SReg) : Word := c.group.readS c.ref.split r
def pair (c : Issuer) (r : SReg) : DWord := c.group.readPair c.ref.split r
def exec (c : Issuer) : Mask := c.split.set.exec
def asid (c : Issuer) : Nat := c.launch.asid
def core (c : Issuer) : Nat := c.team.core
/-- In a pass group of the bounds pass (R94). -/
def inPass (c : Issuer) : Bool := c.group.inPass
end Issuer

/-- What a split number names, when it is a live split of a resident team (R36). -/
def State.issuerOf (s : State) (r : SplitRef) : Option Issuer :=
  match s.team? r.team with
  | none => none
  | some t =>
    match t.group? r.group, s.launchOf t with
    | some g, some l =>
      match g.split? r.split with
      | some p => if t.state == .resident && !g.ended then some { ref := r, team := t, group := g, split := p, launch := l } else none
      | none => none
    | _, _ => none

/-- The split that issues. -/
def State.issuer? (s : State) : Option Issuer := s.focus.bind s.issuerOf

/-- A team does not issue while its context is halted (R345), or while an epoch close of its copy waits at another
instruction (R358). -/
def State.teamStopped (s : State) (t : Team) (asid : Nat) (a : Action) : Bool :=
  s.halted.contains asid ||
  (match t.red with
   | some r => (match r.closing with | some x => x != a | none => false)
   | none => false)

/-- A pass group that has issued its 65,536 scalar instructions has ended (R207). -/
def Group.spent (g : Group) : Bool := match g.pass with | some p => 65536 ≤ p.issued | none => false

/-- A split does not issue: its context is halted, its copy waits at an epoch close, its pass is over, a held fault stops it, or it
waits in a `bar` (R207, R344, R345, R358). -/
def State.stopped (s : State) (c : Issuer) : Bool :=
  s.teamStopped c.team c.asid (.scalar c.ref) || c.group.spent || s.splitHeld c.ref c.split || c.split.status != .running

/-- The loads and atomics of a lane set whose values have not been delivered. -/
def State.undelivered (s : State) (uid : Nat) : List Nat :=
  (s.ops.filter fun o => o.uid == uid && o.isRead && !o.done && (o.result.isNone || o.dest != .none)).map (·.id)

/-- A fault of a scalar instruction (R93): taken at the instruction, which is not performed; its record waits for the values of
the split's earlier loads and atomics. -/
def State.scalarFault (s : State) (c : Issuer) (f : AccessFault) (addr : DWord) : State :=
  s.takeFault { s.siteTrap c.team c.group c.ref.split.val c.pc 0 f addr with behind := s.undelivered c.uid } c.team.id c.group.gid
    (.split c.ref c.uid)

/-! Redundant execution (R358). -/

/-- The same instruction in another copy of the team. -/
def Action.inTeam (a : Action) (team : Nat) : Action :=
  match a with
  | .scalar r => .scalar { r with team := team }
  | .lane r => .lane { r with team := team }
  | .event i => .event i

/-- The instruction at which the twin waits to close its epoch. -/
def State.twinCloses (s : State) (r : Redundant) (team : Nat) : Option Action :=
  match (s.team? r.twin).bind (·.red) with
  | some x => if x.granted then none else x.closing.map (·.inTeam team)
  | none => none

/-- An instruction that closes an epoch: both copies wait until each has come to its close and the signatures have matched;
it is then performed once in each copy, its close being over when it retires. The copy that comes second closes at the instruction
at which the first one waits. The passes of a team run once, for both copies, and close nothing. -/
def State.atClose (s : State) (t : Team) (a : Action) (k : State → Out State) : Out State :=
  match t.red, t.inPasses with
  | none, _ | _, true => k s
  | some r, false =>
    if r.granted && r.closing == some a then k s
    else if r.closing.isSome || (s.twinCloses r t.id).any (· != a) then .next s
    else .next (s.modTeam t.id fun t => { t with red := t.red.map fun r => { r with closing := some a } })

/-- The sector that a held write counts for: a tag's is its granule's. -/
def MemOp.heldSector (o : MemOp) : Nat := if o.addr < 2 ^ 48 then o.addr / 32 else o.addr

/-- The writes that a copy's open epoch holds. -/
def State.epochOps (s : State) (team : Nat) : List MemOp := s.ops.filter fun o => o.epoch == 1 && o.group?.map (·.1) == some team

/-- Sectors that a team's open epoch holds. -/
def State.heldSectors (s : State) (team : Nat) : List Nat := ((s.epochOps team).map MemOp.heldSector).eraseDups

/-- A team's open epoch is to be closed before the copy goes on: it holds 4,096 sectors, or a release or seq_cst store (R358). -/
def State.epochDue (s : State) (t : Team) : Bool :=
  t.red.isSome && (4096 ≤ (s.heldSectors t.id).length ||
    (s.epochOps t.id).any fun o => match o.effOrder with | .release | .acqRel | .seqCst => true | _ => false)

/-- An instruction that comes behind an epoch that is to be closed waits for that. -/
def State.atDue (s : State) (t : Team) (a : Action) (k : State → Out State) : Out State := if s.epochDue t then s.atClose t a k else k s

/-- The commands whose token a split reads precede its later operations (R255). -/
def State.noteReads (s : State) (c : Issuer) (reads : List SReg) : Issuer × State :=
  let cmds := (c.group.tokens.filter fun t => reads.any fun r => r == t.reg && c.group.regOwner c.ref.split r == t.uid).map (·.cmd)
  if cmds.isEmpty then (c, s)
  else
    let ids := (s.ops.filter fun o => match o.agent with | .engine _ _ _ k => cmds.contains k | _ => false).map (·.id)
    let note (p : Split) : Split := p.modSet fun e => { e with past := unite e.past ids }
    ({ c with split := note c.split }, s.modSplit c.ref note)

/-- The issue of a scalar instruction (R80, R91): the issuing split, unless it is stopped; ILLEGAL_ENCODING for refused fields;
a wait for registers that are still to receive a result; then what the instruction does. -/
def scalarIssue (i : Instr) (reads writes : List SReg) (s : State) (k : Issuer → State → Out State) : Out State :=
  match s.issuer? with
  | none => .fault .noIssuer
  | some c =>
    if s.stopped c then .next s
    else if !i.scalarWf then .next (s.scalarFault c (.illegalEncoding, 0) 0)
    else if (reads ++ writes).any (c.group.busyReg c.ref.split) then .next s
    else s.atDue c.team (.scalar c.ref) fun s => k (s.noteReads c reads).1 (s.noteReads c reads).2

/-- The issue of an engine command: its token may still be the token of other commands (R33). -/
def commandIssue (i : Instr) (reads : List SReg) (tok : SReg) (s : State) (k : Issuer → State → Out State) : Out State :=
  match s.issuer? with
  | none => .fault .noIssuer
  | some c =>
    if s.stopped c then .next s
    else if !i.scalarWf then .next (s.scalarFault c (.illegalEncoding, 0) 0)
    else if reads.any (c.group.busyReg c.ref.split) || c.group.busyResult c.ref.split tok then .next s
    else s.atDue c.team (.scalar c.ref) fun s => k (s.noteReads c reads).1 (s.noteReads c reads).2

/-- A register written and the split at the next instruction. -/
def State.writeRetire (s : State) (c : Issuer) (rd : SReg) (v : Word) : State :=
  (s.modGroup c.team.id c.group.gid fun g => g.writeS c.ref.split rd v).retire c.ref (c.pc + 4)

/-- The split at the next instruction. -/
def State.advance (s : State) (c : Issuer) : State := s.retire c.ref (c.pc + 4)

/-! What goes on after a trap instruction (R93, R149, R343). -/

/-- The clause of a trap goes on after its `ltrap`. -/
def Group.pastTrap (g : Group) (r : SplitRef) (cid : Nat) : Group :=
  { g with clauses := vmod g.clauses r.split.val fun q => q.filterMap fun c =>
      if c.cid != cid then some c
      else
        match c.fetched with
        | some (h, _) => if h.n.toNat ≤ c.next + 1 then none else some { c with next := c.next + 1 }
        | none => some { c with next := c.next + 1 } }

/-- A split whose `trap`, or a clause whose `ltrap`, is over stands at the next instruction, if it is still there. -/
def State.passTrap (s : State) (w : HeldWork) : State :=
  match w with
  | .split r uid =>
    match s.issuerOf r with
    | some c => if c.uid = uid then s.advance c else s
    | none => s
  | .clause r cid => (s.modGroup r.team r.group fun g => g.pastTrap r cid).boundary r.team r.group boundaryFuel
  | _ => s

/-- USER_TRAP taken (R116, R149): held for the host, or handed to the launch's policy, after which the work that goes on stands
at the next instruction. -/
def State.takeTrap (s : State) (t : Trap) (team gid : Nat) (work : HeldWork) : State :=
  let s' := s.takeFault t team gid work
  if (s.asid t.asid).frsize ≠ 0 then s' else s'.passTrap work

/-! Pass groups (R94, R203). -/

/-- Active lanes of a pass group become UNDECIDED and leave EXEC for the rest of the pass. -/
def Group.undecide (g : Group) (m : Mask) : Group :=
  { g with
    pass := g.pass.map fun p => { p with undecided := p.undecided ||| m }
    splits := g.splits.map fun q => q.map fun q =>
      let drop (e : LaneSet) : LaneSet := { e with exec := e.exec &&& ~~~m }
      { q with set := drop q.set, stack := q.stack.map drop, overflow := q.overflow.map fun o => (o.1, drop o.2) } }

/-- Lanes of a pass group are marked as having effects. -/
def Group.effects (g : Group) (m : Mask) : Group := { g with pass := g.pass.map fun p => { p with effects := p.effects ||| m } }

/-- An instruction that a pass does not perform and that has effects (R94, R219). -/
def State.passEffects (s : State) (c : Issuer) : State :=
  (s.modGroup c.team.id c.group.gid fun g => g.effects c.exec).advance c

/-- An instruction at which every active lane of a pass becomes UNDECIDED (R94). -/
def State.passUndecided (s : State) (c : Issuer) : State :=
  (s.modGroup c.team.id c.group.gid fun g => g.undecide c.exec).advance c

end Sys2Proof.Machine
end

