-- ==== Sys2Proof/Machine/Flags.lean ====
section
/-! DEFINITION. Completion flags (R25 to R27), predicates in element mode and as three-valued pairs (R45, R202, R213), and the
control words that float instructions resolve (R121, R122). -/

namespace Sys2Proof.Machine

/-! Completion flags. -/

/-- An operation tags a flag (R26). -/
def Group.tagFlag (g : Group) (f : Fin 12) : Group := { g with k := vmod g.k f.val (· + 1) }

/-- A tagged operation has completed (R26). -/
def Group.releaseFlag (g : Group) (f : Fin 12) : Group := { g with k := vmod g.k f.val (· - 1) }

/-- Every flag of a mask is idle (R23, R27). -/
def Group.idle (g : Group) (mask : BitVec 12) : Bool :=
  (List.finRange 12).all fun i => !mask.getLsbD i.val || g.k[i.val] == 0

/-- The flag that an instruction with this fs bit tags (R25). -/
def flagOf (h : Header) (fs : Bool) : Fin 12 :=
  let n := if fs then h.flb.toNat else h.fla.toNat
  if h : n < 12 then ⟨n, h⟩ else 0

/-- The header enables the flag that an fs bit selects (R25). -/
def flagEnabled (h : Header) (fs : Bool) : Bool := if fs then h.ben else h.aen

/-- A header names some flag of a mask (R27). -/
def headerNames (h : Header) (mask : BitVec 12) : Bool :=
  (h.aen && mask.getLsbD h.fla.toNat) || (h.ben && mask.getLsbD h.flb.toNat)

/-! Predicates. -/

/-- A predicate as a mask, p0 all ones (R45). -/
def Group.pred (g : Group) (p : Nat) : Mask := if p = 0 then BitVec.allOnes 32 else vget g.p p 0

/-- A predicate operand with its negate bit. -/
def Group.predNeg (g : Group) (p : Nat) (neg : Bool) : Mask := if neg then ~~~(g.pred p) else g.pred p

/-- A predicate written on the lanes of a mask; p0 discards (R45). -/
def Group.setPred (g : Group) (p : Nat) (em bits : Mask) : Group :=
  if p = 0 then g else { g with p := vmod g.p p fun old => (old &&& ~~~em) ||| (bits &&& em) }

/-- A three-valued truth (R202). -/
inductive Tri where
  | yes | no | unk
  deriving DecidableEq, Repr

namespace Tri
def not : Tri → Tri | .yes => .no | .no => .yes | .unk => .unk
def and : Tri → Tri → Tri
  | .no, _ | _, .no => .no
  | .yes, .yes => .yes
  | _, _ => .unk
def or (a b : Tri) : Tri := (a.not.and b.not).not
def xor : Tri → Tri → Tri
  | .unk, _ | _, .unk => .unk
  | a, b => if a = b then .no else .yes
def ofBool (b : Bool) : Tri := if b then .yes else .no
end Tri

/-- A predicate field of a pass group in one lane: the pair p2n, p2n+1, field 0 decided true (R202, R213). -/
def Group.tri (g : Group) (p : Nat) (neg : Bool) (i : Fin 32) : Tri :=
  let v : Tri :=
    if p = 0 then .yes
    else match (vget g.p (2 * p) 0).has i, (vget g.p (2 * p + 1) 0).has i with
      | true, false => .yes
      | false, true => .no
      | _, _ => .unk
  if neg then v.not else v

/-- A three-valued predicate written on the lanes of a mask (R213). -/
def Group.setTri (g : Group) (p : Nat) (em : Mask) (v : Fin 32 → Tri) : Group :=
  if p = 0 then g
  else { g with p := Vector.ofFn fun j =>
      if j.val = 2 * p then (g.p[j] &&& ~~~em) ||| (Mask.gen (fun i => v i != .no) &&& em)
      else if j.val = 2 * p + 1 then (g.p[j] &&& ~~~em) ||| (Mask.gen (fun i => v i != .yes) &&& em)
      else g.p[j] }

/-! Control words (R112, R121, R122). -/

/-- A control word RMODE as a write leaves it: RND codes 6 and 7 are written as 0 (R112). -/
def rmodeWrite (w : Word) : Word :=
  BitVec.ofNat 32 ((List.range 8).foldl (fun acc c =>
    let rnd := rmodeRnd w c
    acc + 2 ^ (4 * c) * ((if rnd < 6 then rnd else 0) + if rmodeSat w c then 8 else 0)) 0)

/-- The rounding mode of an instruction's rnd field for a class (R121). -/
def rndMode (r : RndField) (rmode : Word) (c : Nat) : Nat :=
  match r with
  | .rmode => rmodeRnd rmode c
  | .rne => 0 | .rz => 1 | .rdn => 2 | .rup => 3 | .rna => 4 | .stoch => 5

/-- The saturation of an instruction's sat field for a class (R121). -/
def satOn (f : SatField) (rmode : Word) (c : Nat) : Bool :=
  match f with
  | .rmode => rmodeSat rmode c
  | .none => false
  | .sat => true

end Sys2Proof.Machine
end

