-- ==== Sys2Proof/Machine/Operands.lean ====
section
/-! DEFINITION. Operand forms: the addresses of scalar accesses (R99), and for lane instructions the issuing clause, the
effective mask (R24), general sources with their maps (R44, R53 to R55, R61), destinations (R42, R56, R57, R61, R62) and the end
of a lane instruction. -/

namespace Sys2Proof.Machine

/-! Scalar operands. -/

/-- A sign-extended immediate (R76). -/
def sext16 (imm : BitVec 16) : Word := imm.signExtend 32
def sext64 (imm : BitVec 16) : DWord := imm.signExtend 64
/-- A zero-extended immediate (R76). -/
def zext16 (imm : BitVec 16) : Word := imm.zeroExtend 32

/-- The target of an SJ offset (R75): PC + 4 + 4 × the signed offset. -/
def branchTarget (pc : DWord) (off : BitVec 21) : DWord := pc + 4 + 4 * off.signExtend 64

/-! Lane maps (R50 to R57). -/

abbrev LMap := Lanes (Fin 32)

/-- The identity map (R50). -/
def LMap.id : LMap := Lanes.gen fun i => i
/-- A map whose 32 entries differ (R51). -/
def LMap.injective (m : LMap) : Bool := Mask.gen (fun p => (List.finRange 32).any fun i => m[i] == p) == BitVec.allOnes 32
/-- A map whose entries are all equal (R51). -/
def LMap.broadcast (m : LMap) : Bool := (List.finRange 32).all fun i => m[i] == m[(0 : Fin 32)]

/-- Physical lanes after the active logical lanes are written through a map: with lanes that share a physical lane and differ,
the spec does not say whose result remains (R55, R56). -/
def scatter {α : Type} [DecidableEq α] (choice : Nat) (base : Lanes α) (m : LMap) (em : Mask) (f : Fin 32 → α) : Lanes α :=
  Lanes.gen fun p =>
    match (List.finRange 32).filter fun i => em.has i && m[i] == p with
    | [] => base[p]
    | i :: is =>
      if is.all fun j => f j == f i then f i
      else f (((i :: is)[Config.slotLane choice p.val % (is.length + 1)]?).getD i)

/-- The value of a logical lane (R50). -/
def VReg.read (r : VReg) (i : Fin 32) : Word := r.phys[r.map[i]]
def WReg.read (r : WReg) (i : Fin 32) : WLane := r.phys[r.map[i]]

/-- A register moved to another map with its logical values (R55, R57). -/
def VReg.realign (r : VReg) (m : LMap) : VReg :=
  if r.map = m then r else { phys := scatter 0 r.phys m (BitVec.allOnes 32) r.read, map := m }
def WReg.realign (r : WReg) (m : LMap) : WReg :=
  if r.map = m then r else { phys := scatter 0 r.phys m (BitVec.allOnes 32) r.read, map := m }

/-- A register written under a destination map D: under the full mask it receives D, under a partial one it is realigned to D
first (R57). -/
def VReg.put (r : VReg) (choice : Nat) (full : Bool) (D : LMap) (em : Mask) (f : Fin 32 → Word) : VReg :=
  let r := if full then { r with map := D } else r.realign D
  { r with phys := scatter choice r.phys r.map em f }
def WReg.put (r : WReg) (choice : Nat) (full : Bool) (D : LMap) (em : Mask) (f : Fin 32 → WLane) : WReg :=
  let r := if full then { r with map := D } else r.realign D
  { r with phys := scatter choice r.phys r.map em f }

/-- The target map T of the sources' maps, in order, with broadcasts set aside (R54, R55). -/
def targetMap (ms : List (Option LMap)) : LMap :=
  match ms.filterMap fun m => m.bind fun m => if m.broadcast then none else some m with
  | [] => LMap.id
  | m :: rest => if rest.all (· == m) then m else ((m :: rest).find? LMap.injective).getD LMap.id

/-- The destination's map D (R56). -/
def destMap (T : LMap) (full dep : Bool) : LMap := if T.injective || (full && !dep) then T else LMap.id

/-! The issuing clause. -/

/-- A lane instruction's clause with what it belongs to, and its effective mask. -/
structure LaneCtx where
  ref    : SplitRef
  team   : Team
  group  : Group
  launch : Launch
  clause : Clause
  hdr    : Header
  em     : Mask
  deriving DecidableEq, Repr

namespace LaneCtx
/-- The address of the lane instruction (R69). -/
def pc (c : LaneCtx) : DWord := c.clause.addr + BitVec.ofNat 64 (12 * (c.clause.next + 1))
/-- The effective mask is the group's held lanes, none of which has exited (R52). -/
def full (c : LaneCtx) : Bool := c.em == c.group.held && c.group.remaining == c.group.held
def inPass (c : LaneCtx) : Bool := c.group.inPass
def asid (c : LaneCtx) : Nat := c.launch.asid
def core (c : LaneCtx) : Nat := c.team.core
end LaneCtx

/-- The clause that a split number's queue is issuing. -/
def State.laneCtx? (s : State) : Option LaneCtx :=
  match s.focus with
  | none => none
  | some r =>
    match s.team? r.team with
    | none => none
    | some t =>
      match t.group? r.group, s.launchOf t with
      | some g, some l =>
        match (vget g.clauses r.split.val []).head? with
        | some q =>
          match q.fetched with
          | some (h, _) =>
            if q.issuing && t.state == .resident && !g.ended then
              some { ref := r, team := t, group := g, launch := l, clause := q, hdr := h, em := 0 } else none
          | none => none
        | none => none
      | _, _ => none

/-- The clause is stopped by a held fault of its own (R342). -/
def State.clauseHeld (s : State) (r : SplitRef) (cid : Nat) : Bool :=
  s.held.any fun h => match h.work with | .clause r' k => r' == r && k == cid | _ => false

/-- A clause issues nothing: its context is halted, its copy waits at an epoch close, its pass is over, a held fault stops it, or
another clause of the group waits for a queue (R63, R207, R342, R345, R358). -/
def State.laneStopped (s : State) (c : LaneCtx) : Bool :=
  s.teamStopped c.team c.asid (.lane c.ref) || c.group.spent || s.clauseHeld c.ref c.clause.cid ||
  (match c.group.holds with
   | some cid => cid != c.clause.cid && c.group.clauses.toList.any fun q => q.any fun x => x.cid == cid
   | none => false)

/-- A lane instruction has issued (R23, R354): the clause goes on, and leaves its queue with its last instruction. -/
def State.laneDone (s : State) (c : LaneCtx) : State :=
  let last := c.clause.next + 1 ≥ c.hdr.n.toNat
  let s := s.modGroup c.team.id c.group.gid fun g =>
    { g with
      holds := if g.holds == some c.clause.cid then none else g.holds
      clauses := vmod g.clauses c.ref.split.val fun q =>
        match q with
        | [] => []
        | x :: xs => if last then xs else { x with next := x.next + 1 } :: xs }
  let s := s.modTeam c.team.id fun t => (t.issued c.group.gid).closeOver (.lane c.ref)
  if last then s.boundary c.team.id c.group.gid boundaryFuel else s

/-- Lanes of a pass group become UNDECIDED: they leave EXEC and every clause mask (R213). -/
def Group.undecideLanes (g : Group) (m : Mask) : Group :=
  { g.undecide m with clauses := g.clauses.map fun q => q.map fun c => { c with mask := c.mask &&& ~~~m } }

/-- The lanes of a mask on which a predicate holds, and in a pass group those on which it is undecided (R24, R213). -/
def Group.guarded (g : Group) (base : Mask) (p : Nat) (neg : Bool) : Mask × Mask :=
  if g.inPass then
    (base &&& Mask.gen (fun i => g.tri p neg i == .yes), base &&& Mask.gen (fun i => g.tri p neg i == .unk))
  else (base &&& g.predNeg p neg, 0)

/-- The issue of a lane instruction (R24, R31, R213): the clause that issues, unless it is stopped; the effective mask, lanes
with an undecided guard leaving the pass; nothing happens under an empty mask; else what the instruction does. -/
def laneIssue (h : LaneHead) (s : State) (k : LaneCtx → State → Out State) : Out State :=
  match s.focus with
  | none => .fault .noIssuer
  | some _ =>
    match s.laneCtx? with
    | none => .fault .noClause
    | some c =>
      if s.laneStopped c then .next s
      else s.atDue c.team (.lane c.ref) fun s =>
        let gone : Mask := match c.group.pass with | some p => p.undecided | none => 0
        let base := (if h.all then c.group.remaining else c.clause.mask) &&& ~~~gone
        let m := c.group.guarded base h.guard.toNat h.gneg
        let g := if m.2 = 0 then c.group else c.group.undecideLanes m.2
        let s := if m.2 = 0 then s else s.modGroup c.team.id c.group.gid fun _ => g
        let c := { c with group := g, em := m.1 }
        if c.em = 0 then .next (s.laneDone c) else k c s

/-- A fault of a lane instruction (R342): it and what follows it in the clause are not performed. -/
def State.laneFault (s : State) (c : LaneCtx) (f : AccessFault) (addr : DWord) (lane : Option Nat) : State :=
  let t := s.siteTrap c.team c.group c.ref.split.val c.clause.runPc 1 f addr
  s.takeFault { t with lpc := c.pc, lane := lane } c.team.id c.group.gid (.clause c.ref c.clause.cid)

/-! Queues (R59 to R64). -/

/-- Queue numbers of general source fields, in the order a, b, c (R58, R61). -/
def popsOf (fields : List (Cls × BitVec 7)) : List Nat :=
  (fields.drop 1).filterMap fun k =>
    match k.1 with
    | .src _ | .srcNoQ _ | .vec _ => if 96 ≤ k.2.toNat && k.2.toNat < 112 then some (k.2.toNat - 96) else none
    | _ => none

/-- The queue that a general destination pushes. -/
def pushOf (fields : List (Cls × BitVec 7)) : Option Nat :=
  match fields with
  | (.dst _, v) :: _ => if 96 ≤ v.toNat && v.toNat < 112 then some (v.toNat - 96) else none
  | _ => none

/-- How an instruction finds the queues it names. -/
inductive QueueState where
  | ready
  /-- a queue of depth 0 (R60) -/
  | config
  /-- too few or too many entries and reservations (R63) -/
  | short
  /-- an entry whose data has not arrived (R62) -/
  | pending
  deriving DecidableEq, Repr

def queueOf (g : Group) (n : Nat) : QReg := vget g.q n { depth := 0, entries := [] }

/-- Queue conditions at issue (R60 to R63). -/
def Group.queueState (g : Group) (pops : List Nat) (push : Option Nat) : QueueState :=
  let named := pops ++ push.toList
  let need (n : Nat) : Nat := (pops.filter (· == n)).length
  if named.any fun n => (queueOf g n).depth == 0 then .config
  else if pops.any fun n => (queueOf g n).entries.length < need n then .short
  else if push.any fun n => (queueOf g n).depth ≤ (queueOf g n).entries.length - need n then .short
  else if pops.any fun n => ((queueOf g n).entries.take (need n)).any fun e => e.waiting != 0 then .pending
  else .ready

/-- Take the entries that an instruction pops (R61). -/
def Group.pop (g : Group) (pops : List Nat) : Group :=
  { g with q := Vector.ofFn fun n => { g.q[n] with entries := g.q[n].entries.drop (pops.filter (· == n.val)).length } }

/-- Push an entry (R61, R62). -/
def Group.push (g : Group) (n : Nat) (e : QEntry) : Group :=
  { g with q := vmod g.q n fun q => { q with entries := q.entries ++ [e] } }

/-- The queue conditions of an instruction that waits (R60, R62, R63): QUEUE_CONFIG faults, a short queue holds the group's
lane issue. -/
def withQueues (c : LaneCtx) (s : State) (pops : List Nat) (push : Option Nat) (k : State → Out State) : Out State :=
  match c.group.queueState pops push with
  | .config => .next (s.laneFault c (.queueConfig, 0) 0 none)
  | .short => .next (s.modGroup c.team.id c.group.gid fun g => { g with holds := some c.clause.cid })
  | .pending => .next s
  | .ready => k s

/-! General sources (R44, R53, R61, R268). -/

/-- A general operand by logical lane, as a number of 32 bits per register, with its map; none for a broadcast (R53, R54). -/
structure Operand where
  vals : Lanes Nat
  map  : Option LMap
  deriving DecidableEq, Repr

def Operand.broadcast (v : Nat) : Operand := { vals := Lanes.all v, map := none }

/-- A vector register, zero beyond the allocation. -/
def Group.vreg (g : Group) (n : Nat) : VReg := (g.v[n]?).getD { phys := Lanes.all 0, map := LMap.id }

/-- A group of n registers as one operand, under the map of the first: a copy of each other register is realigned to it (R44, R55,
R268). -/
def Group.vregs (g : Group) (v n : Nat) : Operand :=
  { vals := Lanes.gen fun i =>
      (List.range n).foldl (fun acc k => acc + 2 ^ (32 * k) * (((g.vreg (v + k)).realign (g.vreg v).map).read i).toNat) 0
    map := some (g.vreg v).map }

/-- Captured scalar registers from a field code, low word first (R41, R44). -/
def Clause.scalars (c : Clause) (code n : Nat) : Nat :=
  (List.range n).foldl (fun acc k => acc + 2 ^ (32 * k) * (vget c.caps (code - 112 + k) 0).toNat) 0

/-- A general field that is the `nth` pop of its queue (R61, R83). -/
def LaneCtx.general (c : LaneCtx) (code n nth : Nat) : Operand :=
  if code < 96 then c.group.vregs code n
  else if code < 112 then
    match (queueOf c.group (code - 96)).entries[nth]? with
    | some e => { vals := Lanes.gen fun i => e.data[i].toNat, map := some LMap.id }
    | none => { vals := Lanes.all 0, map := some LMap.id }
  else Operand.broadcast (c.clause.scalars code n)

/-- A field of a class as an operand: general fields as above, predicates as 0 and 1, other fields as zero. `earlier` are the
fields before it, for the order of pops. -/
def LaneCtx.field (c : LaneCtx) (earlier : List (Cls × BitVec 7)) (k : Cls × BitVec 7) : Operand :=
  let code := k.2.toNat
  let nth := ((popsOf ((.unused, 0) :: earlier)).filter (· == code - 96)).length
  match k.1 with
  | .src n | .srcNoQ n | .vec n => c.general code n nth
  | .pred => { vals := Lanes.gen fun i => if (c.group.pred code).has i then 1 else 0, map := none }
  | _ => Operand.broadcast 0

/-- The immediate of the LA format, widened for pair types (R84). -/
def immValue (t : LType) (w : Word) : Nat :=
  match t with
  | .f64 => FFmt.f64.round 0 false 0 (FFmt.f32.decode w.toNat)
  | .i64 => wrap 64 (signed 32 w.toNat)
  | _ => w.toNat

/-- The immediate in the place of an operand: an operand of one register takes the word itself (R84, R127, R130). -/
def immOf (op : BitVec 8) (f : LA) : Nat :=
  match LaRule.ofOp op f with
  | some r => if r.b == .src 1 && op != 0x1A then f.imm32.toNat else immValue f.ty f.imm32
  | none => f.imm32.toNat

/-- The sources a, b, c of an LA, LM or LX instruction (R84). -/
structure Sources where
  a : Operand
  b : Operand
  c : Operand
  deriving DecidableEq, Repr

/-- The sources that an instruction's fields name; the immediate takes the place of b, or of `mov`'s a (R84, R128). -/
def LaneCtx.sources (c : LaneCtx) (i : Instr) : Sources :=
  match i.laneFields with
  | [_, a, b, cc] =>
    let r : Sources := { a := c.field [] a, b := c.field [a] b, c := c.field [a, b] cc }
    match i.view with
    | .la op f =>
      if f.imm then
        if op == 0x1A then { r with a := Operand.broadcast (immOf op f) }
        else { r with b := Operand.broadcast (immOf op f) }
      else r
    | _ => r
  | _ => { a := Operand.broadcast 0, b := Operand.broadcast 0, c := Operand.broadcast 0 }

/-- Maps of the sources that take part in choosing T (R54, R55). -/
def Sources.maps (x : Sources) : List (Option LMap) := [x.a.map, x.b.map, x.c.map]

/-- The old destination as a source (R133, R143): a register, the captured scalars, or, for a pushed entry, values that the spec
does not state. -/
def LaneCtx.oldDest (c : LaneCtx) (choice : Nat) (code n : Nat) : Operand :=
  if code < 96 then c.group.vregs code n
  else if code < 112 then { vals := Lanes.gen fun i => (Config.freeWord (choice + i.val)).toNat, map := none }
  else Operand.broadcast (c.clause.scalars code n)

/-! Destinations (R42, R56, R57, R61, R124). -/

/-- Word k of a number. -/
def wordAt (v k : Nat) : Word := BitVec.ofNat 32 (v / 2 ^ (32 * k))

/-- n vector registers written under D (R44, R57). -/
def Group.putVregs (g : Group) (choice v n : Nat) (full : Bool) (D : LMap) (em : Mask) (f : Fin 32 → Nat) : Group :=
  { g with v := g.v.mapIdx fun j r => if v ≤ j && j < v + n then r.put choice full D em fun i => wordAt (f i) (j - v) else r }

/-- The lanes of a pushed entry: results in the effective mask, zero elsewhere (R61). -/
def entryLanes (em : Mask) (f : Fin 32 → Nat) : Lanes Word := Lanes.gen fun i => if em.has i then wordAt (f i) 0 else 0

/-- A long-latency write outside memory, tagged with a flag (R25, R26). -/
def State.later (s : State) (c : LaneCtx) (fs : Bool) (effects : List LateEffect) : State :=
  let f := flagOf c.hdr fs
  effects.foldl (fun s e =>
    ({ s with
      fresh := s.fresh + 1
      late := s.late ++ [{ id := s.fresh, team := c.team.id, group := c.group.gid, sid := c.clause.sid, cid := c.clause.cid,
                           flag := f, effect := e }] } : State).modGroup c.team.id c.group.gid fun g => g.tagFlag f) s

/-- The value of the lowest lane of a mask (R42). -/
def lowestOf (em : Mask) (f : Fin 32 → Nat) : Nat := match em.lowest with | some i => f i | none => 0

/-- A result written to a general destination of n registers (R42, R56, R57, R61): vector registers under D, a pushed entry, or
s16 to s31 once it is ready. -/
def State.putGeneral (s : State) (c : LaneCtx) (h : LaneHead) (n : Nat) (D : LMap) (f : Fin 32 → Nat) : State :=
  let d := h.d.toNat
  if d < 96 then
    { s.modGroup c.team.id c.group.gid (fun g => g.putVregs s.choice d n c.full D c.em f) with choice := s.choice + 1 }
  else if d < 112 then
    { s.modGroup c.team.id c.group.gid (fun g => g.push (d - 96) { eid := s.fresh, data := entryLanes c.em f, waiting := 0 }) with
      fresh := s.fresh + 1, choice := s.choice + 32 }
  else s.later c h.fs [.sreg (BitVec.ofNat 5 (d - 96)) (wordAt (lowestOf c.em f) 0)]

end Sys2Proof.Machine
end

