-- ==== Sys2Proof/Machine/Interval.lean ====
section
/-! DEFINITION. Register pairs of pass groups as intervals: tags, full ranges, reading and writing (R210 to R212, R214), and loop
widening (R222). -/

namespace Sys2Proof.Machine

/-- One value in every element of a register of n elements of w bits. -/
def splat (w n v : Nat) : Nat := (List.range n).foldl (fun acc k => acc + v * 2 ^ (w * k)) 0

/-- Element k of a register of w-bit elements. -/
def elemAt (w v k : Nat) : Nat := v / 2 ^ (w * k) % 2 ^ w

/-- A register from its elements. -/
def ofElems (w n : Nat) (f : Nat → Nat) : Nat := (List.range n).foldl (fun acc k => acc + f k % 2 ^ w * 2 ^ (w * k)) 0

/-- The number format of a lane type's elements (R84, R158). -/
def typeElem : LType → Elem
  | .i32 => .sint 32 | .n32 | .b32 => .uint 32 | .f32 => .flt .f32 | .f16x2 => .flt .f16 | .bf16x2 => .flt .bf16
  | .i16x2 => .sint 16 | .n16x2 => .uint 16 | .i8x4 => .sint 8 | .n8x4 => .uint 8 | .e4m3x4 => .flt .e4m3 | .e5m2x4 => .flt .e5m2
  | .f64 => .flt .f64 | .i64 => .sint 64 | .n64 => .uint 64 | .e2m1x8 => .flt .e2m1 | .i4x8 => .sint 4 | .n4x8 => .uint 4
  | .e3m2x16 => .flt .e3m2 | .e2m3x16 => .flt .e2m3

/-- The bounds of an element of full range (R211). -/
def Elem.full : Elem → Nat × Nat
  | .flt f => if f.special == .none then (f.sign + f.maxCode, f.maxCode) else (f.nan, f.nan)
  | .sint w => (2 ^ (w - 1), 2 ^ (w - 1) - 1)
  | .uint w => (0, 2 ^ w - 1)
  | .b1 => (0, 1)

/-- The full range of a type as a register's low and high bound (R211). -/
def fullRange (t : LType) : Nat × Nat :=
  let r := Elem.full (typeElem t)
  (splat t.width t.count r.1, splat t.width t.count r.2)

/-- Signed and unsigned and plain types of one element width (R212). -/
def sameInts (t u : LType) : Bool :=
  match typeElem t, typeElem u with
  | .sint w, .sint x | .sint w, .uint x | .uint w, .sint x | .uint w, .uint x => w == x
  | _, _ => false

/-- An integer type of one width for which every element of a register is non-negative (R212). -/
def nonNeg (t : LType) (v : Nat) : Bool :=
  match typeElem t with
  | .sint w => (List.range t.count).all fun k => elemAt t.width v k < 2 ^ (w - 1)
  | _ => true

def isInt (t : LType) : Bool := match typeElem t with | .sint _ | .uint _ => true | _ => false

/-- An element's low bound is at most its high bound under its type. -/
def ordered (e : Elem) (lo hi : Nat) : Bool :=
  match e with
  | .sint w => signed w lo ≤ signed w hi
  | _ => lo ≤ hi

/-- A pair of bounds with a tag, none for registers that carry different tags, read under a type (R212). -/
def readBounds (t : LType) (tag : Option LType) (lo hi : Nat) : Nat × Nat :=
  if lo = hi then (lo, hi)
  else
    let keep := match tag with
      | none => false
      | some u => u == t || (sameInts t u && nonNeg t lo && nonNeg t hi && nonNeg u lo && nonNeg u hi)
    let inOrder := !isInt t || (List.range t.count).all fun k => ordered (typeElem t) (elemAt t.width lo k) (elemAt t.width hi k)
    if keep && inOrder then (lo, hi) else fullRange t

/-- The tag of a pair field in a logical lane (R210). -/
def Group.tagOf (g : Group) (n : Nat) (i : Fin 32) : LType :=
  match g.pass with
  | none => .b32
  | some p =>
    let code := (p.tags[n]?).getD (Lanes.all 19)
    (LType.ofCode (code[(g.vreg (2 * n)).map[i]]).toNat).getD .b32

/-- The common tag of w pair fields from n. -/
def Group.commonTag (g : Group) (n w : Nat) (i : Fin 32) : Option LType :=
  let t := g.tagOf n i
  if (List.range w).all fun k => g.tagOf (n + k) i == t then some t else none

/-- The bounds that w pair fields from n hold in a logical lane, under the map of the first register (R44). -/
def Group.rawPair (g : Group) (n w : Nat) (i : Fin 32) : Nat × Nat :=
  let word (j : Nat) : Nat := (((g.vreg j).realign (g.vreg (2 * n)).map).read i).toNat
  ((List.range w).foldl (fun acc k => acc + 2 ^ (32 * k) * word (2 * (n + k))) 0,
   (List.range w).foldl (fun acc k => acc + 2 ^ (32 * k) * word (2 * (n + k) + 1)) 0)

/-- The bounds of the pair fields from n under a type (R212). -/
def Group.bounds (g : Group) (n : Nat) (t : LType) (i : Fin 32) : Nat × Nat :=
  let r := g.rawPair n t.regs i
  readBounds t (g.commonTag n t.regs i) r.1 r.2

/-- The tags of w pair fields from n, written under D with the registers (R57, R210): before the registers change. -/
def Group.putTags (g : Group) (choice n w : Nat) (full : Bool) (D : LMap) (em : Mask) (tag : Fin 32 → LType) : Group :=
  let tags (p : PassInfo) : List (Lanes (BitVec 5)) := p.tags.mapIdx fun j old =>
    if n ≤ j && j < n + w then
      let m := (g.vreg (2 * j)).map
      let base := if full || m = D then old else scatter 0 old D (BitVec.allOnes 32) fun i => old[m[i]]
      scatter choice base D em fun i => BitVec.ofNat 5 (tag i).code
    else old
  { g with pass := g.pass.map fun p => { p with tags := tags p } }

/-- Pair fields from n written with bounds and a tag per lane (R210): both registers of each pair take the map D. -/
def Group.putPair (g : Group) (choice n w : Nat) (full : Bool) (D : LMap) (em : Mask) (f : Fin 32 → Nat × Nat) (tag : Fin 32 → LType) : Group :=
  (List.range w).foldl (fun g k =>
    (g.putVregs choice (2 * (n + k)) 1 full D em fun i => (f i).1 / 2 ^ (32 * k)).putVregs choice (2 * (n + k) + 1) 1 full D em
      fun i => (f i).2 / 2 ^ (32 * k)) (g.putTags choice n w full D em tag)

/-- The full range of one pair field by its tag: a field of a 64-bit pair holds the low or the high words (R44, R222). -/
def fullField (t : LType) (n : Nat) : Nat × Nat :=
  let r := fullRange t
  if t.isPair then (wordAt r.1 (n % 2) |>.toNat, wordAt r.2 (n % 2) |>.toNat) else r

/-! Widening (R222). -/

/-- The logical values of every vector register, and the predicates. -/
def Group.snapshot (g : Group) : List (Lanes Word) × List Mask := (g.v.map fun r => Lanes.gen r.read, g.p.toList)

/-- Values of a record replaced on the lanes of a mask. -/
def refresh (em : Mask) (old new : List (Lanes Word)) : List (Lanes Word) :=
  new.mapIdx fun j v => Lanes.gen fun i => if em.has i then v[i] else ((old[j]?).getD v)[i]

/-- The records of a split with one more taking of a target, and the record before it. -/
def takeTarget (rs : List WidenRec) (target : DWord) (em : Mask) (now : List (Lanes Word) × List Mask) :
    List WidenRec × Option WidenRec :=
  let stamp := (rs.foldl (fun m r => if m < r.stamp then r.stamp else m) 0) + 1
  match rs.find? fun r => r.target == target with
  | some r =>
    let r' : WidenRec := { target := target, count := r.count + 1, stamp := stamp, regs := refresh em r.regs now.1
                           preds := now.2.mapIdx fun j m => ((r.preds[j]?).getD 0 &&& ~~~em) ||| (m &&& em) }
    (rs.map fun x => if x.target == target then r' else x, some r)
  | none =>
    let oldest := rs.foldl (fun m r => if r.stamp < m then r.stamp else m) stamp
    let rs := if rs.length < 8 then rs else rs.filter fun r => r.stamp != oldest
    (rs ++ [{ target := target, count := 1, stamp := stamp, regs := now.1, preds := now.2 }], none)

/-- Pairs of active lanes that differ from a record go to full range, predicates to undecided. -/
def Group.widen (g : Group) (em : Mask) (r : WidenRec) : Group :=
  let changed (n : Nat) (i : Fin 32) : Bool :=
    let was (j : Nat) : Word := ((r.regs[j]?).getD (Lanes.all 0))[i]
    em.has i && ((g.vreg (2 * n)).read i != was (2 * n) || (g.vreg (2 * n + 1)).read i != was (2 * n + 1))
  let fields := match g.pass with | some p => p.tags.length | none => 0
  let g' := (List.range fields).foldl (fun a n =>
    let m := Mask.gen (changed n)
    if m = 0 then a
    else
      let put (v : VReg) (f : Fin 32 → Word) : VReg := { v with phys := scatter 0 v.phys v.map m f }
      { a with v := a.v.mapIdx fun j v =>
          if j = 2 * n then put v (fun i => BitVec.ofNat 32 (fullField (g.tagOf n i) n).1)
          else if j = 2 * n + 1 then put v (fun i => BitVec.ofNat 32 (fullField (g.tagOf n i) n).2) else v }) g
  let was (j : Nat) : Mask := (r.preds[j]?).getD 0
  (List.range 4).foldl (fun a n =>
    let m := em &&& ((vget g.p (2 * n) 0 ^^^ was (2 * n)) ||| (vget g.p (2 * n + 1) 0 ^^^ was (2 * n + 1)))
    if n = 0 || m = 0 then a else a.setTri n m fun _ => .unk) g'

/-- A taking of a target by lanes of a split: in a pass group, a target not above the branch's address counts (R222). -/
def State.countTaking (s : State) (c : Issuer) (target : DWord) (em : Mask) : State :=
  if !c.inPass || c.pc.ult target then s
  else
    s.modGroup c.team.id c.group.gid fun g =>
      match g.split? c.ref.split with
      | none => g
      | some p =>
        let (rs, before) := takeTarget p.set.widen target em g.snapshot
        let g := g.modSplit c.ref.split fun p => p.modSet fun e => { e with widen := rs }
        match before with
        | some r => if r.count ≥ 4 then g.widen em r else g
        | none => g

/-- A taken branch of a split. -/
def State.jump (s : State) (c : Issuer) (target : DWord) : State := (s.countTaking c target c.exec).retire c.ref target

end Sys2Proof.Machine
end

