-- ==== Sys2Proof/Machine/Lane.lean ====
section
/-! DEFINITION. What lane arithmetic shares: elements (R120), sign modifiers, rounding and flushing (R121, R122), the element
operation of an instruction in element mode, and its bounds in a pass group (R126, R212, R214 to R216). -/

namespace Sys2Proof.Machine

/-- A pair of bounds of a lane. -/
abbrev Bounds := Nat × Nat

def Bounds.point (b : Bounds) : Bool := b.1 == b.2

/-- The operands of one lane: a, b, c and the old destination. -/
structure Args where
  a : Nat
  b : Nat
  c : Nat
  d : Nat
  deriving DecidableEq, Repr

/-- The operands of one lane of a pass group. -/
structure IArgs where
  a : Bounds
  b : Bounds
  c : Bounds
  d : Bounds
  deriving DecidableEq, Repr

namespace IArgs
def lows (x : IArgs) : Args := { a := x.a.1, b := x.b.1, c := x.c.1, d := x.d.1 }
def highs (x : IArgs) : Args := { a := x.a.2, b := x.b.2, c := x.c.2, d := x.d.2 }
/-- Every source is degenerate. -/
def point (x : IArgs) : Bool := x.a.point && x.b.point && x.c.point && x.d.point
end IArgs

/-- What an LA or LX instruction computes: the registers of its destination, the types that its sources are read under in a pass,
the tag of its result, whether its result depends on the lane (R56), whether it reads the old destination, and per lane its value,
with the lane's generator, and its bounds. -/
structure LaneOp where
  n   : Nat
  ta  : LType
  tb  : LType
  tc  : LType
  td  : LType
  tag : LType
  dep : LaneCtx → Bool
  old : Bool
  f   : LaneCtx → Args → DWord → Nat × DWord
  iv  : LaneCtx → IArgs → Bounds

/-- The bounds of a field of a pass group in a lane: a pair under a type, a captured scalar as a point (R212, R214). -/
def LaneCtx.ivField (c : LaneCtx) (k : Cls × BitVec 7) (t : LType) (i : Fin 32) : Bounds :=
  let code := k.2.toNat
  match k.1 with
  | .src n | .srcNoQ n | .vec n =>
    if code < 96 then c.group.bounds code t i
    else let v := c.clause.scalars code n; (v, v)
  | _ => (0, 0)

/-- The map of a general field of a pass group: its low register's (R210). -/
def LaneCtx.ivMap (c : LaneCtx) (k : Cls × BitVec 7) : Option LMap :=
  match k.1 with
  | .src _ | .srcNoQ _ | .vec _ => if k.2.toNat < 96 then some (c.group.vreg (2 * k.2.toNat)).map else none
  | _ => none

/-- The bounds of the sources of an instruction in a lane, with the immediate in its place. -/
def LaneCtx.ivArgs (c : LaneCtx) (i : Instr) (o : LaneOp) (l : Fin 32) : IArgs :=
  match i.laneFields with
  | [d, a, b, cc] =>
    let r : IArgs := { a := c.ivField a o.ta l, b := c.ivField b o.tb l, c := c.ivField cc o.tc l
                       d := if o.old then c.ivField (.src o.n, d.2) o.td l else (0, 0) }
    match i.view with
    | .la op f =>
      if f.imm then (let v := immOf op f; if op == 0x1A then { r with a := (v, v) } else { r with b := (v, v) }) else r
    | _ => r
  | _ => { a := (0, 0), b := (0, 0), c := (0, 0), d := (0, 0) }

/-- A result of a pass group: to a pair with its tag, or to s16 to s31 when every active lane holds one value, the lanes becoming
UNDECIDED otherwise (R214). -/
def State.putBounds (s : State) (c : LaneCtx) (h : LaneHead) (n : Nat) (D : LMap) (f : Fin 32 → Bounds) (tag : Fin 32 → LType) : State :=
  let d := h.d.toNat
  if d < 96 then
    { s.modGroup c.team.id c.group.gid (fun g => g.putPair s.choice d n c.full D c.em f tag) with choice := s.choice + 1 }
  else
    let v := lowestOf c.em fun i => (f i).1
    if (List.finRange 32).all fun i => !c.em.has i || f i == (v, v) then s.later c h.fs [.sreg (BitVec.ofNat 5 (d - 96)) (wordAt v 0)]
    else s.modGroup c.team.id c.group.gid fun g => g.undecideLanes c.em

/-- The element mode of an instruction: pops, the target map, results by logical lane, the generators that were drawn, the
destination under its map, pushes (R55 to R57, R61, R120). -/
def laneElements (i : Instr) (h : LaneHead) (o : LaneOp) (c : LaneCtx) (s : State) : Out State :=
  let fields := i.laneFields
  withQueues c s (popsOf fields) (pushOf fields) fun s =>
    let x := c.sources i
    let old := if o.old then c.oldDest s.choice h.d.toNat o.n else Operand.broadcast 0
    let T := targetMap (x.maps ++ [old.map])
    let D := destMap T c.full (o.dep c)
    let D := if h.d.toNat < 96 then D else LMap.id
    let r : Lanes (Nat × DWord) := Lanes.gen fun l =>
      if c.em.has l then o.f c { a := x.a.vals[l], b := x.b.vals[l], c := x.c.vals[l], d := old.vals[l] } c.group.gen[l]
      else (0, c.group.gen[l])
    let s := s.modGroup c.team.id c.group.gid fun g => { g.pop (popsOf fields) with gen := Lanes.gen fun l => r[l].2 }
    .next ((s.putGeneral c h o.n D fun l => r[l].1).laneDone c)

/-- The interval mode of an instruction (R126, R216). -/
def laneBounds (i : Instr) (h : LaneHead) (o : LaneOp) (c : LaneCtx) (s : State) : Out State :=
  let T := targetMap ((i.laneFields.drop 1).map c.ivMap ++ (if o.old then [c.ivMap (.src o.n, h.d)] else []))
  let D := destMap T c.full (o.dep c)
  .next ((s.putBounds c h o.n D (fun l => o.iv c (c.ivArgs i o l)) fun _ => o.tag).laneDone c)

/-- A lane instruction whose result is a general destination computed lane by lane. -/
def laneCompute (i : Instr) (h : LaneHead) (o : LaneOp) (s : State) : Out State :=
  laneIssue h s fun c s => if c.inPass then laneBounds i h o c s else laneElements i h o c s

/-! Elements. -/

/-- A register computed element by element. -/
def zipElems (t : LType) (f : Nat → Nat → Nat → Nat) (x : Args) : Nat :=
  ofElems t.width t.count fun k => f (elemAt t.width x.a k) (elemAt t.width x.b k) (elemAt t.width x.c k)

/-- Bounds computed element by element. -/
def zipBounds (t : LType) (f : Bounds → Bounds → Bounds → Bounds) (x : IArgs) : Bounds :=
  let e (b : Bounds) (k : Nat) : Bounds := (elemAt t.width b.1 k, elemAt t.width b.2 k)
  let r (k : Nat) : Bounds := f (e x.a k) (e x.b k) (e x.c k)
  (ofElems t.width t.count fun k => (r k).1, ofElems t.width t.count fun k => (r k).2)

/-- The exact result when every source is degenerate, else the full range of the result (R216). -/
def exactOrFull (tag : LType) (f : LaneCtx → Args → DWord → Nat × DWord) (c : LaneCtx) (x : IArgs) : Bounds :=
  if x.point then (let v := (f c x.lows 1).1; (v, v)) else fullRange tag

/-- The value of an element as an integer of its type. -/
def intOf (t : LType) (v : Nat) : Int := match typeElem t with | .sint w => signed w v | _ => (v : Int)

/-- The range of an integer type's elements. -/
def intRange (t : LType) : Int × Int :=
  match typeElem t with
  | .sint w => (-(2 ^ (w - 1) : Nat), (2 ^ (w - 1) : Nat) - 1)
  | _ => (0, (2 ^ t.width : Nat) - 1)

/-- An exact integer as an element: wrapped, or clamped under saturation (R121, R128). -/
def fitInt (t : LType) (sat : Bool) (v : Int) : Nat :=
  wrap t.width (if sat then clampInt (intRange t).1 (intRange t).2 v else v)

/-- Exact integer bounds as an element's: with an exact fit those, under saturation clamped, otherwise full (R216). -/
def fitBounds (t : LType) (sat : Bool) (lo hi : Int) : Bounds :=
  let r := intRange t
  if (r.1 ≤ lo && hi ≤ r.2) || sat then (wrap t.width (clampInt r.1 r.2 lo), wrap t.width (clampInt r.1 r.2 hi))
  else Elem.full (typeElem t)

/-- The least and greatest of a list. -/
def least (l : List Int) : Int := match l with | [] => 0 | x :: xs => xs.foldl (fun m y => if y < m then y else m) x
def greatest (l : List Int) : Int := match l with | [] => 0 | x :: xs => xs.foldl (fun m y => if m < y then y else m) x

/-- Corner values of a function of two integer intervals. -/
def corners (f : Int → Int → Int) (a b : Int × Int) : List Int := [f a.1 b.1, f a.1 b.2, f a.2 b.1, f a.2 b.2]

/-- Integer bounds of an element. -/
def intBounds (t : LType) (b : Bounds) : Int × Int := (intOf t b.1, intOf t b.2)

/-- Saturation of an instruction in a class, from the captured RMODE (R121). -/
def LaneCtx.sat (c : LaneCtx) (f : LA) (cls : Nat) : Bool := satOn f.sat c.clause.rmode cls
/-- The rounding mode of an instruction in a class. -/
def LaneCtx.rnd (c : LaneCtx) (f : LA) (cls : Nat) : Nat := rndMode f.rnd c.clause.rmode cls

end Sys2Proof.Machine
end

