-- ==== Sys2Proof/Machine/LaneInt.lean ====
section
/-! DEFINITION. Integer lane instructions (R127 to R129) with their interval results (R216). -/

namespace Sys2Proof.Machine

/-- An instruction over one type, with values per lane and bounds. -/
def intOp (t : LType) (f : LaneCtx → Args → Nat) (iv : LaneCtx → IArgs → Bounds) : LaneOp :=
  { n := t.regs, ta := t, tb := t, tc := t, td := t, tag := t, dep := fun _ => false, old := false, f := fun c x g => (f c x, g), iv := iv }

/-- An instruction over one type whose bounds are exact or full. -/
def bitOp (t : LType) (f : Args → Nat) : LaneOp :=
  intOp t (fun _ => f) (exactOrFull t fun _ x g => (f x, g))

/-- Elements that an exact integer function gives, wrapped or saturated by class 7, with exact bounds (R121, R128, R216). -/
def exactOp (f : LA) (v : Int → Int → Int → Int) (b : Int × Int → Int × Int → Int × Int → Int × Int) : LaneOp :=
  let t := f.ty
  intOp t
    (fun c x => zipElems t (fun p q r => fitInt t (c.sat f 7) (v (intOf t p) (intOf t q) (intOf t r))) x)
    (fun c x => zipBounds t (fun p q r =>
      let e := b (intBounds t p) (intBounds t q) (intBounds t r)
      fitBounds t (c.sat f 7) e.1 e.2) x)

/-- The hull of corner values. -/
def hull (l : List Int) : Int × Int := (least l, greatest l)

/-- IADD: a.e + b.e. -/
def execIadd (f : LA) (s : State) : Out State :=
  laneCompute (.iadd f) f.h (exactOp f (fun a b _ => a + b) fun a b _ => (a.1 + b.1, a.2 + b.2)) s

/-- ISUB: a.e − b.e. -/
def execIsub (f : LA) (s : State) : Out State :=
  laneCompute (.isub f) f.h (exactOp f (fun a b _ => a - b) fun a b _ => (a.1 - b.2, a.2 - b.1)) s

/-- IMUL: the low bits of a.e × b.e, or the product clamped. -/
def execImul (f : LA) (s : State) : Out State :=
  laneCompute (.imul f) f.h (exactOp f (fun a b _ => a * b) fun a b _ => hull (corners (· * ·) a b)) s

/-- IMULHI: bits [2w − 1 : w] of the exact product. -/
def execImulhi (f : LA) (s : State) : Out State :=
  let t := f.ty
  let hi (v : Int) : Nat := wrap t.width (v / (2 ^ t.width : Nat))
  laneCompute (.imulhi f) f.h (intOp t (fun _ x => zipElems t (fun a b _ => hi (intOf t a * intOf t b)) x)
    (fun _ x => zipBounds t (fun a b _ =>
      let h := hull (corners (· * ·) (intBounds t a) (intBounds t b))
      (hi h.1, hi h.2)) x)) s

/-- IMAD: a.e × b.e + c.e. -/
def execImad (f : LA) (s : State) : Out State :=
  laneCompute (.imad f) f.h (exactOp f (fun a b c => a * b + c) fun a b c =>
    let h := hull (corners (· * ·) a b)
    (h.1 + c.1, h.2 + c.2)) s

def minInt (a b : Int) : Int := if a < b then a else b
def maxInt (a b : Int) : Int := if a < b then b else a

/-- IMIN: the smaller element. -/
def execImin (f : LA) (s : State) : Out State :=
  laneCompute (.imin f) f.h (exactOp f (fun a b _ => minInt a b) fun a b _ => (minInt a.1 b.1, minInt a.2 b.2)) s

/-- IMAX: the larger element. -/
def execImax (f : LA) (s : State) : Out State :=
  laneCompute (.imax f) f.h (exactOp f (fun a b _ => maxInt a b) fun a b _ => (maxInt a.1 b.1, maxInt a.2 b.2)) s

/-- IABS: the most negative value stays itself, or becomes the largest under saturation. -/
def execIabs (f : LA) (s : State) : Out State :=
  laneCompute (.iabs f) f.h (exactOp f (fun a _ _ => (a.natAbs : Int)) fun a _ _ =>
    if 0 ≤ a.1 then a else if a.2 ≤ 0 then (-a.2, -a.1) else (0, maxInt (-a.1) a.2)) s

/-- AND: bitwise; in a pass an unsigned result is at most either source. -/
def execLaneAnd (f : LA) (s : State) : Out State :=
  let t := f.ty
  let g (x : Args) : Nat := x.a &&& x.b
  laneCompute (.laneAnd f) f.h (intOp t (fun _ => g) fun c x =>
    if !x.point && (t == .n32 || t == .n64) then (0, if x.a.2 < x.b.2 then x.a.2 else x.b.2)
    else exactOrFull t (fun _ x g' => (g x, g')) c x) s

/-- OR: bitwise. -/
def execLaneOr (f : LA) (s : State) : Out State := laneCompute (.laneOr f) f.h (bitOp f.ty fun x => x.a ||| x.b) s

/-- XOR: bitwise. -/
def execLaneXor (f : LA) (s : State) : Out State := laneCompute (.laneXor f) f.h (bitOp f.ty fun x => x.a ^^^ x.b) s

/-- NOT: the complement of a. -/
def execNot (f : LA) (s : State) : Out State :=
  laneCompute (.not f) f.h (bitOp f.ty fun x => 2 ^ (32 * f.ty.regs) - 1 - x.a) s

/-- The signed and the unsigned type of a width (R216). -/
def asUnsigned : LType → LType
  | .i32 => .n32 | .i16x2 => .n16x2 | .i8x4 => .n8x4 | .i64 => .n64 | t => t
def asSigned : LType → LType
  | .n32 => .i32 | .n16x2 => .i16x2 | .n8x4 => .i8x4 | .n64 => .i64 | t => t

/-- SHL: a.e << (b.e mod w). -/
def execLaneShl (f : LA) (s : State) : Out State :=
  let t := f.ty
  let w := t.width
  let full := Elem.full (typeElem t)
  laneCompute (.laneShl f) f.h { intOp t (fun _ x => zipElems t (fun a b _ => a * 2 ^ (b % w)) x)
    (fun _ x => zipBounds t (fun a b _ =>
      if x.b.point then (let e := intBounds t a; fitBounds t false (e.1 * (2 ^ (b.1 % w) : Nat)) (e.2 * (2 ^ (b.1 % w) : Nat)))
      else full) x) with tb := if t.isPair then .i32 else t } s

/-- SHR: a.e >> (b.e mod w), filling with zeros. -/
def execLaneShr (f : LA) (s : State) : Out State :=
  let t := f.ty
  let w := t.width
  let g (a n : Nat) : Nat := a / 2 ^ (n % w)
  laneCompute (.laneShr f) f.h { intOp t (fun _ x => zipElems t (fun a b _ => g a b) x)
    (fun _ x => zipBounds t (fun a b _ => if x.b.point then (g a.1 b.1, g a.2 b.1) else Elem.full (typeElem t)) x) with
    ta := asUnsigned t, tb := if t.isPair then .i32 else t } s

/-- SRA: a.e >> (b.e mod w), filling with the sign bit. -/
def execLaneSra (f : LA) (s : State) : Out State :=
  let t := f.ty
  let w := t.width
  let g (a n : Nat) : Nat := wrap w (signed w a / (2 ^ (n % w) : Nat))
  laneCompute (.laneSra f) f.h { intOp t (fun _ x => zipElems t (fun a b _ => g a b) x)
    (fun _ x => zipBounds t (fun a b _ => if x.b.point then (g a.1 b.1, g a.2 b.1) else Elem.full (typeElem t)) x) with
    ta := asSigned t, tb := if t.isPair then .i32 else t } s

/-- ROT: a rotated left by b mod w. -/
def execRot (f : LA) (s : State) : Out State :=
  let w := f.ty.width
  laneCompute (.rot f) f.h { bitOp f.ty (fun x => x.a * 2 ^ (x.b % w) % 2 ^ w + x.a / 2 ^ (w - x.b % w)) with
    tb := if f.ty.isPair then .i32 else f.ty } s

/-- A count of at most 32, [0, 32] in a pass unless a is degenerate. -/
def countOp (t : LType) (g : Nat → Nat) : LaneOp :=
  intOp t (fun _ x => g x.a) fun _ x => if x.point then (g x.a.1, g x.a.1) else (0, 32)

/-- POPC: the number of ones in a. -/
def execLanePopc (f : LA) (s : State) : Out State := laneCompute (.lanePopc f) f.h (countOp f.ty (popcount 32)) s

/-- CLZ: the leading zeros of a, 32 for zero. -/
def execLaneClz (f : LA) (s : State) : Out State := laneCompute (.laneClz f) f.h (countOp f.ty (clz 32)) s

/-- BREV: bit j moved to bit 31 − j. -/
def execLaneBrev (f : LA) (s : State) : Out State := laneCompute (.laneBrev f) f.h (bitOp f.ty fun x => brev 32 x.a) s

/-- The length of a bit field (R129). -/
def fieldLen (b : Nat) : Nat := Nat.min (bits b 13 8) 32

/-- BFE (R129): the field of a at b[4:0], of min(b[13:8], 32) bits, bits above 31 read as zero or as a[31]. -/
def execBfe (f : LA) (s : State) : Out State :=
  laneCompute (.bfe f) f.h (bitOp f.ty fun x =>
    let off := bits x.b 4 0
    let len := fieldLen x.b
    let v : Int := if f.ty == .i32 then signed 32 x.a / (2 ^ off : Nat) else ((x.a / 2 ^ off : Nat) : Int)
    if len = 0 then 0
    else if f.ty == .i32 then wrap 32 (signed len (wrap len v)) else wrap len v) s

/-- BFI (R129): the low bits of a inserted into c. -/
def execBfi (f : LA) (s : State) : Out State :=
  laneCompute (.bfi f) f.h (bitOp f.ty fun x =>
    let off := bits x.b 4 0
    let m := (2 ^ fieldLen x.b - 1) * 2 ^ off % 2 ^ 32
    (x.c &&& (2 ^ 32 - 1 - m)) ||| (x.a * 2 ^ off % 2 ^ 32 &&& m)) s

/-- IADDC (R129): the sum a + b + c[0], or its carry. -/
def execIaddc (f : LA) (s : State) : Out State :=
  laneCompute (.iaddc f) f.h (bitOp f.ty fun x =>
    let t := x.a + x.b + x.c % 2
    if f.fmod.getLsbD 0 then t / 2 ^ 32 else t % 2 ^ 32) s

/-- ISAD (R129): c plus the absolute differences of the elements, modulo 2^32; c and d are n32. -/
def execIsad (f : LA) (s : State) : Out State :=
  let t := f.ty
  let g (x : Args) : Nat :=
    ((List.range t.count).foldl (fun acc k => acc + (intOf t (elemAt t.width x.a k) - intOf t (elemAt t.width x.b k)).natAbs) x.c) % 2 ^ 32
  laneCompute (.isad f) f.h { bitOp .n32 g with ta := t, tb := t } s

/-- LEA (R129): a + (b << fmod), b zero-extended. -/
def execLea (f : LA) (s : State) : Out State :=
  let t := f.ty
  let sh := 2 ^ (f.fmod.toNat % 8)
  laneCompute (.lea f) f.h { intOp t (fun _ x => (x.a + x.b * sh) % 2 ^ t.width)
    (fun _ x => fitBounds t false ((x.a.1 + x.b.1 * sh : Nat) : Int) ((x.a.2 + x.b.2 * sh : Nat) : Int)) with tb := .n32 } s

/-- The quotient and remainder of R128 and R129, truncated towards zero. -/
def divide (t : LType) (a b : Int) : Int × Int :=
  let r := intRange t
  if b = 0 then (if r.1 = 0 then (r.2, a) else (if 0 ≤ a then r.2 else r.1, a))
  else if a = r.1 ∧ b = -1 then (r.1, 0)
  else (a.tdiv b, a.tmod b)

/-- IDIV: the quotient; in a pass full where b may be 0 or the quotient may not fit (R216). -/
def execIdiv (f : LA) (s : State) : Out State :=
  let t := f.ty
  let q (a b : Int) : Int := (divide t a b).1
  laneCompute (.idiv f) f.h (intOp t (fun _ x => wrap t.width (q (intOf t x.a) (intOf t x.b))) fun _ x =>
    let a := intBounds t x.a
    let b := intBounds t x.b
    let low := (intRange t).1
    if (b.1 ≤ 0 && 0 ≤ b.2) || (low < 0 && a.1 == low && b.1 ≤ -1 && -1 ≤ b.2) then fullRange t
    else let h := hull (corners q a b); (wrap t.width h.1, wrap t.width h.2)) s

/-- IREM: a − b × quotient, with the sign of a. -/
def execIrem (f : LA) (s : State) : Out State :=
  let t := f.ty
  laneCompute (.irem f) f.h (bitOp t fun x => wrap t.width (divide t (intOf t x.a) (intOf t x.b)).2) s

/-- ICLAMP: min(max(a.e, b.e), c.e). -/
def execIclamp (f : LA) (s : State) : Out State :=
  laneCompute (.iclamp f) f.h (exactOp f (fun a b c => minInt (maxInt a b) c) fun a b c =>
    (minInt (maxInt a.1 b.1) c.1, minInt (maxInt a.2 b.2) c.2)) s

/-- Pairs of a pass group copied with their tags (R216). -/
def copyPairs (g : Group) (choice d a n : Nat) (full : Bool) (D : LMap) (em : Mask) : Group :=
  (List.range n).foldl (fun acc k => acc.putPair choice (d + k) 1 full D em (fun i => g.rawPair (a + k) 1 i) fun i => g.tagOf (a + k) i) g

/-- MOV: a, bit for bit; in a pass the pairs of a register move with their tags. -/
def execMov (f : LA) (s : State) : Out State :=
  let t := f.ty
  laneIssue f.h s fun c s =>
    let o := bitOp t fun x => x.a
    if c.inPass && !f.imm && f.a.toNat < 96 && f.h.d.toNat < 96 then
      let D := destMap (targetMap [c.ivMap (.src t.regs, f.a)]) c.full false
      .next ({ s.modGroup c.team.id c.group.gid (fun g => copyPairs g s.choice f.h.d.toNat f.a.toNat t.regs c.full D c.em) with
        choice := s.choice + 1 }.laneDone c)
    else if c.inPass then laneBounds (.mov f) f.h { o with iv := fun _ x => x.a } c s
    else laneElements (.mov f) f.h o c s

end Sys2Proof.Machine
end

