-- ==== Sys2Proof/Machine/LaneFloat.lean ====
section
/-! DEFINITION. Floating-point lane instructions and dot products (R121 to R123, R130 to R132) with their interval results (R215,
R216). -/

namespace Sys2Proof.Machine

/-- The float format of a type's elements. -/
def typeFmt (t : LType) : FFmt := match typeElem t with | .flt f => f | _ => .f32

/-- FIN and FOUT of a format's class, from the captured FTZM (R122). -/
def LaneCtx.fin (c : LaneCtx) (m : FFmt) : Bool := ftzmIn c.clause.ftzm m.cls
def LaneCtx.fout (c : LaneCtx) (m : FFmt) : Bool := ftzmOut c.clause.ftzm m.cls

/-- The sign modifiers of an element's code: abs clears the sign, then neg flips it (R130). -/
def signMod (m : FFmt) (neg abs : Bool) (v : Nat) : Nat :=
  let v := if abs then v % m.sign else v
  if neg then (if v ≥ m.sign then v - m.sign else v + m.sign) else v

/-- A value rounded once into a format, under the stochastic mode with a draw of the lane's generator, and flushed (R121, R122,
R169). -/
def LaneCtx.roundTo (c : LaneCtx) (m : FFmt) (mode : Nat) (sat : Bool) (v : FVal) (g : DWord) : Nat × DWord :=
  if mode = 5 then
    let d := draw g
    (m.flush (c.fout m) (m.round 5 sat d.2 v), d.1)
  else (m.flush (c.fout m) (m.round mode sat 0 v), g)

/-- A register of n elements of w bits computed in ascending order with the generator. -/
def foldElems (w n : Nat) (f : Nat → DWord → Nat × DWord) (g : DWord) : Nat × DWord :=
  (List.range n).foldl (fun acc k => let r := f k acc.2; (acc.1 + r.1 % 2 ^ w * 2 ^ (w * k), r.2)) (0, g)

/-- The elements of the sources of a float instruction, after the sign modifiers. -/
def laCodes (f : LA) (x : Args) (k : Nat) : Nat × Nat × Nat :=
  let t := f.ty
  let m := typeFmt t
  (signMod m f.aneg f.aabs (elemAt t.width x.a k), signMod m f.bneg false (elemAt t.width x.b k),
   signMod m f.cneg false (elemAt t.width x.c k))

/-- An interval of values of a float element: none when it may hold NaN (R210). -/
def floatRange (m : FFmt) (fin : Bool) (b : Bounds) : Option (FVal × FVal) :=
  let lo := m.decode b.1
  let hi := m.decode b.2
  if lo.isNan || hi.isNan || FVal.lt hi lo then none else some (m.decodeIn fin b.1, m.decodeIn fin b.2)

/-- Bounds of an element after the sign modifiers. -/
def signBounds (m : FFmt) (neg abs : Bool) (b : Bounds) : Bounds :=
  let v (x : Nat) : FVal := m.decode x
  let b := if abs then
      (if (v b.1).isNan || (v b.2).isNan || FVal.lt (v b.2) (v b.1) then b
       else if !(v b.1).isNeg then b
       else if (v b.2).isNeg then (b.2 % m.sign, b.1 % m.sign)
       else (0, Nat.max (b.1 % m.sign) (b.2 % m.sign)))
    else b
  if neg then (signMod m true false b.2, signMod m true false b.1) else b

/-- The bounds of the sources' elements of a float instruction. -/
def laRanges (f : LA) (x : IArgs) (k : Nat) : Bounds × Bounds × Bounds :=
  let t := f.ty
  let m := typeFmt t
  let e (b : Bounds) : Bounds := (elemAt t.width b.1 k, elemAt t.width b.2 k)
  (signBounds m f.aneg f.aabs (e x.a), signBounds m f.bneg false (e x.b), signBounds m f.cneg false (e x.c))

/-- Exact bounds rounded outward into a format (R215). -/
def LaneCtx.outward (c : LaneCtx) (m : FFmt) (sat : Bool) (lo hi : FVal) : Bounds :=
  (m.flush (c.fout m) (m.round 2 sat 0 lo), m.flush (c.fout m) (m.round 3 sat 0 hi))

/-- The full range of a float element (R211). -/
def FFmt.full (m : FFmt) : Bounds := Elem.full (.flt m)

/-- Bounds of a register of float elements, those without a value taking the full range. -/
def boundElems (f : LA) (x : IArgs) (g : Bounds × Bounds × Bounds → Option Bounds) : Bounds :=
  let t := f.ty
  let r (k : Nat) : Bounds := (g (laRanges f x k)).getD (typeFmt t).full
  (ofElems t.width t.count fun k => (r k).1, ofElems t.width t.count fun k => (r k).2)

/-- The resolved mode of an instruction rounding into a format is stochastic: its result depends on the lane (R56, R121). -/
def stochasticIn (f : LA) (m : FFmt) (c : LaneCtx) : Bool := c.rnd f m.cls == 5

/-- An instruction over a float type: its value per element in a mode, and its bounds per element. -/
def floatOp (f : LA) (v : LaneCtx → Nat → Nat × Nat × Nat → DWord → Nat × DWord)
    (iv : LaneCtx → Bounds × Bounds × Bounds → Option Bounds) (dep : LaneCtx → Bool) : LaneOp :=
  let t := f.ty
  { n := t.regs, ta := t, tb := t, tc := t, td := t, tag := t, dep := dep, old := false
    f := fun c x g => foldElems t.width t.count (fun k g => v c k (laCodes f x k) g) g
    iv := fun c x => boundElems f x (iv c) }

/-- An arithmetic instruction that rounds once: the exact value of its operands, and the exact bounds (R121, R130, R215). -/
def roundOp (f : LA) (v : Bool → FVal → FVal → FVal → FVal)
    (iv : FVal × FVal → FVal × FVal → FVal × FVal → Option (FVal × FVal)) (uses : Nat) : LaneOp :=
  let m := typeFmt f.ty
  floatOp f
    (fun c _ e g =>
      let d (x : Nat) : FVal := m.decodeIn (c.fin m) x
      let mode := c.rnd f m.cls
      c.roundTo m mode (c.sat f m.cls) (v (mode == 2) (d e.1) (d e.2.1) (d e.2.2)) g)
    (fun c e =>
      let z : Option (FVal × FVal) := some (.zero, .zero)
      let a := floatRange m (c.fin m) e.1
      let b := if 2 ≤ uses then floatRange m (c.fin m) e.2.1 else z
      let cc := if 3 ≤ uses then floatRange m (c.fin m) e.2.2 else z
      match a, b, cc with
      | some a, some b, some cc => (iv a b cc).map fun r => c.outward m (c.sat f m.cls) r.1 r.2
      | _, _, _ => none)
    (stochasticIn f m)

/-- The smaller and the larger of a list of values. -/
def leastF (l : List FVal) : FVal := match l with | [] => .zero | x :: xs => xs.foldl (fun m y => if FVal.below y m then y else m) x
def greatestF (l : List FVal) : FVal := match l with | [] => .zero | x :: xs => xs.foldl (fun m y => if FVal.below m y then y else m) x

/-- Zero lies in an interval; an interval reaches an infinity. -/
def hasZero (a : FVal × FVal) : Bool := FVal.le a.1 .zero && FVal.le .zero a.2
def hasInf (a : FVal × FVal) : Bool := a.1.isInf || a.2.isInf

/-- The interval of a sum of intervals, none when Inf − Inf may arise (R215). -/
def sumRange (ts : List (FVal × FVal)) : Option (FVal × FVal) :=
  let n := ts.length
  let plus (k : Nat) : Bool := match ts[k]? with | some t => t.2 == .inf false | none => false
  let minus (k : Nat) : Bool := match ts[k]? with | some t => t.1 == .inf true | none => false
  if (List.range n).any fun j => (List.range n).any fun k => j != k && plus j && minus k then none
  else some (FVal.sum true (ts.map (·.1)), FVal.sum false (ts.map (·.2)))

/-- The interval of a product, none when 0 × Inf may arise (R215). -/
def mulRange (a b : FVal × FVal) : Option (FVal × FVal) :=
  if (hasZero a && hasInf b) || (hasInf a && hasZero b) then none
  else
    let l := [a.1.mul b.1, a.1.mul b.2, a.2.mul b.1, a.2.mul b.2]
    some (leastF l, greatestF l)

/-- FADD: a.e + b.e, rounded once. -/
def execFadd (f : LA) (s : State) : Out State :=
  laneCompute (.fadd f) f.h (roundOp f (fun r a b _ => FVal.add r a b) (fun a b _ => sumRange [a, b]) 2) s

/-- FSUB: a.e − b.e. -/
def execFsub (f : LA) (s : State) : Out State :=
  laneCompute (.fsub f) f.h (roundOp f (fun r a b _ => FVal.add r a b.neg) (fun a b _ => sumRange [a, (b.2.neg, b.1.neg)]) 2) s

/-- FMUL: a.e × b.e. -/
def execFmul (f : LA) (s : State) : Out State :=
  laneCompute (.fmul f) f.h (roundOp f (fun _ a b _ => a.mul b) (fun a b _ => mulRange a b) 2) s

/-- FFMA: a.e × b.e + c.e, rounded once. -/
def execFfma (f : LA) (s : State) : Out State :=
  laneCompute (.ffma f) f.h (roundOp f (fun r a b c => FVal.add r (a.mul b) c)
    (fun a b c => (mulRange a b).bind fun p => sumRange [p, c]) 3) s

/-! Selections among operands (R131). -/

/-- IEEE minimum and maximum, NaN if either is. -/
def fminV (a b : FVal) : FVal := if a.isNan || b.isNan then .nan else if FVal.below b a then b else a
def fmaxV (a b : FVal) : FVal := if a.isNan || b.isNan then .nan else if FVal.below a b then b else a

/-- An instruction that gives one of its operands, unrounded; in a pass bound by bound. -/
def pickOp (f : LA) (v : FVal → FVal → FVal → FVal) (uses : Nat) : LaneOp :=
  let m := typeFmt f.ty
  floatOp f
    (fun c _ e g =>
      let d (x : Nat) : FVal := m.decodeIn (c.fin m) x
      (m.flush (c.fout m) (m.round 0 false 0 (v (d e.1) (d e.2.1) (d e.2.2))), g))
    (fun c e =>
      let z : Option (FVal × FVal) := some (.zero, .zero)
      let cc := if 3 ≤ uses then floatRange m (c.fin m) e.2.2 else z
      match floatRange m (c.fin m) e.1, floatRange m (c.fin m) e.2.1, cc with
      | some a, some b, some cc => some (c.outward m false (v a.1 b.1 cc.1) (v a.2 b.2 cc.2))
      | _, _, _ => none)
    (fun _ => false)

/-- FMIN: IEEE 754-2019 minimum. -/
def execFmin (f : LA) (s : State) : Out State := laneCompute (.fmin f) f.h (pickOp f (fun a b _ => fminV a b) 2) s

/-- FMAX: IEEE 754-2019 maximum. -/
def execFmax (f : LA) (s : State) : Out State := laneCompute (.fmax f) f.h (pickOp f (fun a b _ => fmaxV a b) 2) s

/-- FMINNUM: minimumNumber, or maximumNumber with fmod 1. -/
def execFminnum (f : LA) (s : State) : Out State :=
  laneCompute (.fminnum f) f.h (pickOp f (fun a b _ =>
    if a.isNan then b else if b.isNan then a else if f.fmod.getLsbD 0 then fmaxV a b else fminV a b) 2) s

/-- FMID: the median, NaN if any operand is. -/
def execFmid (f : LA) (s : State) : Out State :=
  laneCompute (.fmid f) f.h (pickOp f (fun a b c => fmaxV (fminV a b) (fminV (fmaxV a b) c)) 3) s

/-- FRND: rounded to an integral value; a stochastic RMODE gives RNE. In a pass [floor(lo), ceil(hi)]. -/
def execFrnd (f : LA) (s : State) : Out State :=
  let m := typeFmt f.ty
  let r (mode : Nat) (v : FVal) : FVal := match v with | .fin n k e => .fin n (roundSteps mode n k e 0 0).1 0 | v => v
  laneCompute (.frnd f) f.h (floatOp f
    (fun c _ e g =>
      let mode := c.rnd f m.cls
      let mode := if mode = 5 then 0 else mode
      (m.flush (c.fout m) (m.round mode false 0 (r mode (m.decodeIn (c.fin m) e.1))), g))
    (fun c e => (floatRange m (c.fin m) e.1).map fun a => c.outward m false (r 2 a.1) (r 3 a.2))
    (fun _ => false)) s

/-- The type under which fscale reads b (R130). -/
def scaleType : LType → LType | .f16x2 | .bf16x2 => .i16x2 | _ => .i32

/-- FSCALE: a.e × 2^n, n the signed element of b. -/
def execFscale (f : LA) (s : State) : Out State :=
  let t := f.ty
  let m := typeFmt t
  let tb := scaleType t
  -- beyond 2^±8192 every format overflows or underflows alike
  let n (b k : Nat) : Int := clampInt (-8192) 8192 (intOf tb (elemAt tb.width b k))
  laneCompute (.fscale f) f.h
    { n := t.regs, ta := t, tb := tb, tc := t, td := t, tag := t, dep := stochasticIn f m, old := false
      f := fun c x g => foldElems t.width t.count (fun k g =>
        c.roundTo m (c.rnd f m.cls) (c.sat f m.cls) ((m.decodeIn (c.fin m) (laCodes f x k).1).scale (n x.b k)) g) g
      iv := fun c x =>
        let r (k : Nat) : Bounds :=
          match floatRange m (c.fin m) (laRanges f x k).1 with
          | none => m.full
          | some a =>
            let l := [a.1.scale (n x.b.1 k), a.1.scale (n x.b.2 k), a.2.scale (n x.b.1 k), a.2.scale (n x.b.2 k)]
            c.outward m (c.sat f m.cls) (leastF l) (greatestF l)
        (ofElems t.width t.count fun k => (r k).1, ofElems t.width t.count fun k => (r k).2) } s

/-- The class bit of a code (R131). -/
def classBit (m : FFmt) (code : Nat) : Nat :=
  let n := code ≥ m.sign
  match m.decode code with
  | .nan => if bit code (m.mbits - 1) then 1 else 0
  | .inf _ => if n then 2 else 9
  | .fin _ k _ => if k = 0 then (if n then 5 else 6) else if m.isSub code then (if n then 4 else 7) else (if n then 3 else 8)

/-- FCLASS: one bit of ten per element; with f64, d is a single register. In a pass n32, full unless degenerate. -/
def execFclass (f : LA) (s : State) : Out State :=
  let t := f.ty
  let m := typeFmt t
  let g (x : Args) : Nat := ofElems (if t.isPair then 32 else t.width) t.count fun k => 2 ^ classBit m (elemAt t.width x.a k)
  laneCompute (.fclass f) f.h
    { n := 1, ta := t, tb := t, tc := t, td := t, tag := .n32, dep := fun _ => false, old := false, f := fun _ x q => (g x, q)
      iv := fun _ x =>
        let nan := (List.range t.count).any fun k => (m.decode (elemAt t.width x.a.1 k)).isNan
        if x.point && !nan then (g x.lows, g x.lows) else fullRange .n32 } s

/-- FFRACT: a − floor(a), rounded, below 1; +0 for an exact zero; NaN for infinities. In a pass the bounds of a degenerate source are
rounded outward (R215, R216). -/
def execFfract (f : LA) (s : State) : Out State :=
  let m := typeFmt f.ty
  let one := m.bias * 2 ^ m.mbits
  let fract (x : FVal) : FVal := match x with
    | .fin n k e => let r := FVal.add false x (FVal.ofInt (-(FVal.roundInt 2 0 (.fin n k e)))); if r.isZero then .zero else r
    | _ => .nan
  let below (r : Nat) : Nat := if r ≥ one && r < m.inf then one - 1 else r
  let o := floatOp f
    (fun c _ e g => let r := c.roundTo m (c.rnd f m.cls) false (fract (m.decodeIn (c.fin m) e.1)) g; (below r.1, r.2))
    (fun _ _ => none) (stochasticIn f m)
  laneCompute (.ffract f) f.h { o with
    iv := fun c x => boundElems f x fun e =>
      match floatRange m (c.fin m) e.1 with
      | none => none
      | some a =>
        if hasInf a then none
        else if x.a.point then (let r := c.outward m false (fract a.1) (fract a.1); some (below r.1, below r.2))
        else some (0, one - 1) } s

/-- FCOPYSIGN: the magnitude of a.e with the sign of b.e; neither flushed nor made canonical (R122, R123). -/
def execFcopysign (f : LA) (s : State) : Out State :=
  let m := typeFmt f.ty
  let v (e : Nat × Nat × Nat) : Nat := e.1 % m.sign + (if e.2.1 ≥ m.sign then m.sign else 0)
  laneCompute (.fcopysign f) f.h { floatOp f (fun _ _ e g => (v e, g)) (fun _ _ => none) (fun _ => false) with
    iv := fun _ x => boundElems f x fun e =>
      if x.point && !(m.decode e.1.1).isNan && !(m.decode e.2.1.1).isNan then (let r := v (e.1.1, e.2.1.1, 0); some (r, r)) else none } s

/-! Dot products (R132). -/

/-- The products of the elements of a and b and the addend: exact, rounded once to f32, or wrapped or clamped. -/
def dotOp (f : LA) : LaneOp :=
  let t := f.ty
  let m := typeFmt t
  let n := t.count
  let e (v k : Nat) : Nat := elemAt t.width v k
  if isInt t then
    let td : LType := if t == .i8x4 then .i32 else .n32
    { n := 1, ta := t, tb := t, tc := td, td := td, tag := td, dep := fun _ => false, old := false
      f := fun c x g =>
        let cc := if f.cneg then -(intOf td x.c) else intOf td x.c
        (fitInt td (c.sat f 7) ((List.range n).foldl (fun acc k => acc + intOf t (e x.a k) * intOf t (e x.b k)) cc), g)
      iv := fun c x =>
        let cc := intBounds td x.c
        let cc := if f.cneg then (-cc.2, -cc.1) else cc
        let h := (List.range n).map fun k => hull (corners (· * ·) (intOf t (e x.a.1 k), intOf t (e x.a.2 k)) (intOf t (e x.b.1 k), intOf t (e x.b.2 k)))
        fitBounds td (c.sat f 7) (h.foldl (fun acc b => acc + b.1) cc.1) (h.foldl (fun acc b => acc + b.2) cc.2) }
  else
    let a (c : LaneCtx) (v : Nat) : FVal := m.decodeIn (c.fin m) v
    { n := 1, ta := t, tb := t, tc := .f32, td := .f32, tag := .f32, dep := stochasticIn f .f32, old := false
      f := fun c x g =>
        let ps := (List.range n).map fun k => (a c (signMod m f.aneg false (e x.a k))).mul (a c (signMod m f.bneg false (e x.b k)))
        let cc := FFmt.f32.decodeIn (c.fin .f32) (signMod .f32 f.cneg false x.c)
        let mode := c.rnd f 1
        c.roundTo .f32 mode (c.sat f 1) (FVal.sum (mode == 2) (cc :: ps)) g
      iv := fun c x =>
        let ps := (List.range n).map fun k =>
          match floatRange m (c.fin m) (signBounds m f.aneg false (e x.a.1 k, e x.a.2 k)),
                floatRange m (c.fin m) (signBounds m f.bneg false (e x.b.1 k, e x.b.2 k)) with
          | some p, some q => mulRange p q
          | _, _ => none
        let cc := floatRange .f32 (c.fin .f32) (signBounds .f32 f.cneg false x.c)
        if (cc :: ps).any Option.isNone then FFmt.full .f32
        else
          match sumRange ((cc :: ps).filterMap id) with
          | some r => c.outward .f32 (c.sat f 1) r.1 r.2
          | none => FFmt.full .f32 }

/-- FDOT2: c plus two products. -/
def execFdot2 (f : LA) (s : State) : Out State := laneCompute (.fdot2 f) f.h (dotOp f) s

/-- FDOT4: c plus four products. -/
def execFdot4 (f : LA) (s : State) : Out State := laneCompute (.fdot4 f) f.h (dotOp f) s

end Sys2Proof.Machine
end

