-- ==== Sys2Proof/Machine/LaneConv.lean ====
section
/-! DEFINITION. Conversions (R133 to R135, R170) and `unpk` (R65, R198), with their interval results (R216). -/

namespace Sys2Proof.Machine

/-- The draw of a lane under the stochastic mode, 0 under any other (R169). -/
def drawn (mode : Nat) (g : DWord) : Nat × DWord := if mode = 5 then (let d := draw g; (d.2, d.1)) else (0, g)

/-- The value of an element under FIN of its class (R122, R170). -/
def LaneCtx.elemValue (c : LaneCtx) (e : Elem) (code : Nat) : FVal :=
  match e with
  | .flt m => m.decodeIn (c.fin m) code
  | e => e.decode code

def Elem.isFlt : Elem → Bool | .flt _ => true | _ => false

/-- The value of an element as an exact integer. -/
def Elem.int (e : Elem) (code : Nat) : Int := match e with | .sint w => signed w code | _ => (code : Int)

/-- One element times 2^k converted, rounded once (R134, R135, R170). Under a shift of −128 it is not read and the result is zero,
which takes its draw where a float format takes part. -/
def LaneCtx.convert (c : LaneCtx) (f : LA) (src : Elem) (k : Int) (code : Nat) (g : DWord) : Nat × DWord :=
  let t := f.ty
  let dst := typeElem t
  let mode := c.rnd f dst.cls
  let sat := c.sat f dst.cls
  let flt := src.isFlt || dst.isFlt
  if k = -128 then (0, if flt then (drawn mode g).2 else g)
  else
    match dst with
    | .flt m => c.roundTo m mode sat ((c.elemValue src code).scale k) g
    | _ =>
      if src.isFlt then
        let d := drawn mode g
        let r := intRange t
        (wrap t.width (((c.elemValue src code).scale k).toRange mode d.1 r.1 r.2), d.2)
      else if 0 ≤ k then (fitInt t sat (src.int code * (2 ^ k.toNat : Nat)), g)
      else
        let d := drawn mode g
        (fitInt t sat (((c.elemValue src code).scale k).roundInt mode d.1), d.2)

/-- The bounds of a converted element over a range of shifts, +0 among the values when the shift may be −128 (R215, R216). -/
def LaneCtx.convertBounds (c : LaneCtx) (f : LA) (src : Elem) (k : Int × Int) (b : Bounds) : Bounds :=
  let t := f.ty
  let dst := typeElem t
  let sat := c.sat f dst.cls
  let ks : List Int := if k.1 = -128 then (if k.2 = -128 then [] else [-127, k.2]) else [k.1, k.2]
  let range : Option (FVal × FVal) := match src with
    | .flt m => floatRange m (c.fin m) b
    | e => some (e.decode b.1, e.decode b.2)
  if ks.isEmpty then (0, 0)
  else
    match range with
    | none => Elem.full dst
    | some r =>
      let vals := ks.flatMap (fun j => [r.1.scale j, r.2.scale j]) ++ (if k.1 = -128 then [FVal.zero] else [])
      let lo := leastF vals
      let hi := greatestF vals
      match dst with
      | .flt m =>
        let o := c.outward m sat lo hi
        if (m.decode o.1).isNan || (m.decode o.2).isNan then m.full else o
      | _ =>
        let z := intRange t
        if src.isFlt then (wrap t.width (lo.toRange 2 0 z.1 z.2), wrap t.width (hi.toRange 3 0 z.1 z.2))
        else (fitInt t sat (lo.roundInt 2 0), fitInt t sat (hi.roundInt 3 0))

/-- The conversion of a register or pair: for every element of d its source and element, none for an element that keeps old d;
the shift of a lane; and the shifts of a lane of a pass group. -/
def convOp (f : LA) (old : Bool) (from_ : Nat → Option (Bool × Nat)) (scaled : Bool) : LaneOp :=
  let t := f.ty
  let u := LaRule.cvtSrc f
  let src := typeElem u
  let w := t.width
  let shift (b : Nat) : Int := if !scaled then 0 else if f.imm then signed 8 (b / 256) else signed 8 b
  { n := t.regs, ta := u, tb := if scaled then .i32 else u, tc := t, td := t, tag := t
    dep := fun c => (scaled || src.isFlt || (typeElem t).isFlt) && c.rnd f (typeElem t).cls == 5
    old := old
    f := fun c x g => foldElems w t.count (fun e g =>
      match from_ e with
      | some (second, k) => c.convert f src (shift x.b) (elemAt u.width (if second then x.b else x.a) k) g
      | none => (elemAt w x.d e, g)) g
    iv := fun c x =>
      let ks : Int × Int :=
        if !scaled || f.imm || x.b.point then (shift x.b.1, shift x.b.1)
        else
          let lo := signed 32 x.b.1
          let hi := signed 32 x.b.2
          if -128 ≤ lo && hi ≤ 127 then (lo, hi) else (-128, 127)
      let r (e : Nat) : Bounds :=
        match from_ e with
        | some (second, k) =>
          let b := if second then x.b else x.a
          c.convertBounds f src ks (elemAt u.width b.1 k, elemAt u.width b.2 k)
        | none => (elemAt w x.d.1 e, elemAt w x.d.2 e)
      (ofElems w t.count fun e => (r e).1, ofElems w t.count fun e => (r e).2) }

/-- The group number of a conversion (R133). -/
def convGroup (f : LA) : Nat := f.imm32.toNat % 8

/-- CVT: d.e = conv(a.(g·n_d + e)). -/
def execCvt (f : LA) (s : State) : Out State :=
  laneCompute (.cvt f) f.h (convOp f false (fun e => some (false, convGroup f * f.ty.count + e)) false) s

/-- CVTB: d.e = conv(a.(g·n_d + e) × 2^k). -/
def execCvtb (f : LA) (s : State) : Out State :=
  laneCompute (.cvtb f) f.h (convOp f false (fun e => some (false, convGroup f * f.ty.count + e)) true) s

/-- PACK: the elements of a and b into two runs of d, the other elements keeping old d. -/
def execPack (f : LA) (s : State) : Out State :=
  let n := (LaRule.cvtSrc f).count
  let at_ := 2 * convGroup f * n
  laneCompute (.pack f) f.h (convOp f true (fun e =>
    if e < at_ then none
    else if e < at_ + n then some (false, e - at_)
    else if e < at_ + 2 * n then some (true, e - at_ - n)
    else none) false) s

/-! Unpacking. -/

/-- The type of unpacked elements (R198). -/
def unpackType : LType → LType | .i4x8 => .i8x4 | .n4x8 => .n8x4 | _ => .e4m3x4

/-- One element unpacked exactly. -/
def unpackElem (t : LType) (code : Nat) : Nat :=
  match typeElem t with
  | .flt m => FFmt.e4m3.round 0 false 0 (m.decode code)
  | .sint w => wrap 8 (signed w code)
  | _ => code

/-- The code of element e of a planar operand or of a register of 4-bit elements (R65, R161). -/
def unpackCode (t : LType) (a b e : Nat) : Nat := if t.isPlanar then 4 * elemAt 4 a e + elemAt 2 b e else elemAt 4 a e

/-- UNPK: element e to register d + e / 4, or under `.di` to register d + (e mod q). -/
def execUnpk (f : LA) (s : State) : Out State :=
  let t := f.ty
  let q := t.count / 4
  let place (e : Nat) : Nat := if f.fmod.getLsbD 0 then 32 * (e % q) + 8 * (e / q) else 8 * e
  let join (code : Nat → Nat) : Nat := (List.range t.count).foldl (fun acc e => acc + unpackElem t (code e) * 2 ^ place e) 0
  let o : LaneOp :=
    { n := q, ta := t, tb := t, tc := t, td := t, tag := unpackType t, dep := fun _ => false, old := false
      f := fun _ x g => (join (unpackCode t x.a x.b), g)
      iv := fun _ x => (join (unpackCode t x.a.1 x.b.1), join (unpackCode t x.a.2 x.b.2)) }
  laneIssue f.h s fun c s =>
    if !c.inPass then laneElements (.unpk f) f.h o c s
    else if !t.isPlanar then laneBounds (.unpk f) f.h o c s
    else
      -- the planes of an FP6 operand are two pair fields of a and one of b
      let D := destMap (targetMap [c.ivMap (.src 2, f.a), c.ivMap (.src 1, f.b)]) c.full false
      let field (v : BitVec 7) (n : Nat) (l : Fin 32) : Bounds × Option LType :=
        if v.toNat < 96 then (c.group.rawPair v.toNat n l, c.group.commonTag v.toNat n l)
        else (let x := c.clause.scalars v.toNat n; ((x, x), some t))
      let m := typeFmt t
      let full := Elem.full (.flt m)
      let r (l : Fin 32) : Bounds :=
        let a := field f.a 2 l
        let b := field f.b 1 l
        if (a.1.point && b.1.point) || (a.2 == some t && b.2 == some t) then
          (join (unpackCode t a.1.1 b.1.1), join (unpackCode t a.1.2 b.1.2))
        else (join fun _ => full.1, join fun _ => full.2)
      .next ((s.putBounds c f.h q D r fun _ => .e4m3x4).laneDone c)

end Sys2Proof.Machine
end

