-- ==== Sys2Proof/Machine/LaneCmp.lean ====
section
/-! DEFINITION. Compares, selects, predicates and votes (R136 to R139) with their interval results (R216). -/

namespace Sys2Proof.Machine

/-! Instructions whose result is a predicate. -/

/-- A predicate written by a lane instruction in element mode: the pops, and the bits of the active lanes. -/
def lanePredElements (i : Instr) (h : LaneHead) (f : LaneCtx → Args → Fin 32 → Bool) (c : LaneCtx) (s : State) : Out State :=
  let pops := popsOf i.laneFields
  withQueues c s pops none fun s =>
    let x := c.sources i
    let m := Mask.gen fun l => c.em.has l && f c { a := x.a.vals[l], b := x.b.vals[l], c := x.c.vals[l], d := 0 } l
    .next ((s.modGroup c.team.id c.group.gid fun g => (g.pop pops).setPred h.d.toNat c.em m).laneDone c)

/-- A predicate written by a lane instruction in a pass group (R213). -/
def lanePredBounds (h : LaneHead) (f : Fin 32 → Tri) (c : LaneCtx) (s : State) : Out State :=
  .next ((s.modGroup c.team.id c.group.gid fun g => g.setTri h.d.toNat c.em f).laneDone c)

/-- Bounds of an instruction's sources in a pass, both under its type. -/
def LaneCtx.ivTyped (c : LaneCtx) (i : Instr) (t : LType) (l : Fin 32) : IArgs :=
  match i.laneFields with
  | [_, a, b, cc] =>
    let imm : Option Nat := match i.view with | .la op f => if f.imm then some (immOf op f) else none | _ => none
    { a := c.ivField a t l, b := match imm with | some v => (v, v) | none => c.ivField b t l, c := c.ivField cc t l, d := (0, 0) }
  | _ => { a := (0, 0), b := (0, 0), c := (0, 0), d := (0, 0) }

/-- The conditions of R136 on two operands: whether they are ordered, and on ordered ones their comparison. -/
def condition (fm : Nat) (ordered : Bool) (cmp : Int) : Bool :=
  match fm with
  | 0 => ordered && cmp == 0
  | 1 => !ordered || cmp != 0
  | 2 => ordered && cmp < 0
  | 3 => ordered && cmp ≤ 0
  | 4 => ordered && cmp > 0
  | 5 => ordered && cmp ≥ 0
  | 6 => ordered
  | _ => !ordered

/-- A condition on two intervals of numbers (R216): `lohi` compares the low bound of a with the high bound of b, and so on. -/
def conditionTri (fm : Nat) (lolo lohi hilo hihi : Int) : Tri :=
  let lt : Tri := if hilo < 0 then .yes else if lohi ≥ 0 then .no else .unk
  let le : Tri := if hilo ≤ 0 then .yes else if lohi > 0 then .no else .unk
  let eq : Tri := if lolo == 0 && lohi == 0 && hilo == 0 && hihi == 0 then .yes else if hilo < 0 || lohi > 0 then .no else .unk
  match fm with
  | 0 => eq
  | 1 => eq.not
  | 2 => lt
  | 3 => le
  | 4 => le.not
  | 5 => lt.not
  | 6 => .yes
  | _ => .no

/-- ICMP (R136): the condition, ANDed with predicate c. -/
def execIcmp (f : LA) (s : State) : Out State :=
  let t := f.ty
  let fm := f.fmod.toNat
  laneIssue f.h s fun c s =>
    if c.inPass then
      lanePredBounds f.h (fun l =>
        let x := c.ivTyped (.icmp f) t l
        let a := intBounds t x.a
        let b := intBounds t x.b
        (conditionTri fm (a.1 - b.1) (a.1 - b.2) (a.2 - b.1) (a.2 - b.2)).and (c.group.tri f.c.toNat f.cneg l)) c s
    else
      lanePredElements (.icmp f) f.h (fun c x l =>
        condition fm true (intOf t x.a - intOf t x.b) && (c.group.predNeg f.c.toNat f.cneg).has l) c s

/-- FCMP (R136): the condition, ANDed with predicate c; a NaN-capable source leaves it undecided. -/
def execFcmp (f : LA) (s : State) : Out State :=
  let m := typeFmt f.ty
  let fm := f.fmod.toNat
  laneIssue f.h s fun c s =>
    if c.inPass then
      lanePredBounds f.h (fun l =>
        let x := c.ivTyped (.fcmp f) f.ty l
        let v : Tri :=
          match floatRange m (c.fin m) (signBounds m f.aneg f.aabs x.a), floatRange m (c.fin m) (signBounds m f.bneg false x.b) with
          | some a, some b => conditionTri fm (a.1.cmp b.1) (a.1.cmp b.2) (a.2.cmp b.1) (a.2.cmp b.2)
          | _, _ => .unk
        v.and (c.group.tri f.c.toNat f.cneg l)) c s
    else
      lanePredElements (.fcmp f) f.h (fun c x l =>
        let a := m.decodeIn (c.fin m) (signMod m f.aneg f.aabs x.a)
        let b := m.decodeIn (c.fin m) (signMod m f.bneg false x.b)
        condition fm (!a.isNan && !b.isNan) (a.cmp b) && (c.group.predNeg f.c.toNat f.cneg).has l) c s

/-! SEL. -/

/-- The least and greatest of two intervals of one element format, full when a float may be NaN (R211, R216). -/
def hullElem (e : Elem) (a b : Bounds) : Bounds :=
  match e with
  | .flt m =>
    match floatRange m false a, floatRange m false b with
    | some x, some y => (if FVal.below y.1 x.1 then b.1 else a.1, if FVal.below x.2 y.2 then b.2 else a.2)
    | _, _ => m.full
  | e => (if e.int b.1 < e.int a.1 then b.1 else a.1, if e.int a.2 < e.int b.2 then b.2 else a.2)

/-- A general field of a pass group as it stands: its bounds and its tag. -/
def LaneCtx.ivRaw (c : LaneCtx) (k : Cls × BitVec 7) (n : Nat) (t : LType) (l : Fin 32) : Bounds × Option LType :=
  if k.2.toNat < 96 then (c.group.rawPair k.2.toNat n l, c.group.commonTag k.2.toNat n l)
  else (let v := c.clause.scalars k.2.toNat n; ((v, v), some t))

/-- Word k of bounds. -/
def part (b : Bounds) (k : Nat) : Bounds := ((wordAt b.1 k).toNat, (wordAt b.2 k).toNat)

/-- Field k of a general field of n pair fields, as it stands. -/
def LaneCtx.ivPart (c : LaneCtx) (f : Cls × BitVec 7) (n k : Nat) (t : LType) (l : Fin 32) : Bounds × LType :=
  if f.2.toNat < 96 then (c.group.rawPair (f.2.toNat + k) 1 l, c.group.tagOf (f.2.toNat + k) l)
  else (let v := c.clause.scalars f.2.toNat n; (part (v, v) k, t))

/-- The interval of an undecided selection (R216): the hull of two pairs of one tag that fits the type's registers, otherwise the
full range of b32. -/
def selectHull (n : Nat) (a b : Bounds × Option LType) : Bounds × LType :=
  match a.2, b.2 with
  | some u, some v =>
    if u == v && u != .b32 && u.regs == n && !u.isPlanar then
      let w := u.width
      let r (k : Nat) : Bounds :=
        hullElem (typeElem u) (elemAt w a.1.1 k, elemAt w a.1.2 k) (elemAt w b.1.1 k, elemAt w b.1.2 k)
      ((ofElems w u.count fun k => (r k).1, ofElems w u.count fun k => (r k).2), u)
    else ((0, 2 ^ (32 * n) - 1), .b32)
  | _, _ => ((0, 2 ^ (32 * n) - 1), .b32)

/-- SEL (R137): a where predicate c holds, else b. -/
def execSel (f : LA) (s : State) : Out State :=
  let t := f.ty
  let n := t.regs
  let o := intOp t (fun _ x => if (x.c == 1) != f.cneg then x.a else x.b) (exactOrFull t fun _ x g => (x.a, g))
  laneIssue f.h s fun c s =>
    if !c.inPass then laneElements (.sel f) f.h o c s
    else
      let ka : Cls × BitVec 7 := (.src n, f.a)
      let kb : Cls × BitVec 7 := (.src n, f.b)
      let imm : Bounds × Option LType := (let v := immOf 0x52 f; ((v, v), some t))
      -- field k of the result: its bounds and its tag, each field copied with its own
      let r (k : Nat) (l : Fin 32) : Bounds × LType :=
        match c.group.tri f.c.toNat f.cneg l with
        | .yes => c.ivPart ka n k t l
        | .no => if f.imm then (part imm.1 k, t) else c.ivPart kb n k t l
        | .unk =>
          let h := selectHull n (c.ivRaw ka n t l) (if f.imm then imm else c.ivRaw kb n t l)
          (part h.1 k, h.2)
      let D := destMap (targetMap [c.ivMap ka, if f.imm then none else c.ivMap kb]) c.full false
      if n = 1 then .next ((s.putBounds c f.h 1 D (fun l => (r 0 l).1) fun l => (r 0 l).2).laneDone c)
      else
        let d := f.h.d.toNat
        .next ((({ s with choice := s.choice + 1 } : State).modGroup c.team.id c.group.gid fun g =>
          (g.putPair s.choice d 1 c.full D c.em (fun l => (r 0 l).1) fun l => (r 0 l).2).putPair s.choice (d + 1) 1 c.full D c.em
            (fun l => (r 1 l).1) fun l => (r 1 l).2).laneDone c)

/-! Predicates and votes. -/

/-- PSET (R138): a logic function of two predicates, or a constant. -/
def execPset (f : LA) (s : State) : Out State :=
  let fm := f.fmod.toNat
  laneIssue f.h s fun c s =>
    if c.inPass then
      lanePredBounds f.h (fun l =>
        let a := c.group.tri f.a.toNat f.aneg l
        let b := c.group.tri f.b.toNat f.bneg l
        match fm with
        | 0 => a.and b
        | 1 => a.or b
        | 2 => a.xor b
        | 3 => a.and b.not
        | _ => Tri.ofBool (Mask.has f.imm32 l)) c s
    else
      let a := c.group.predNeg f.a.toNat f.aneg
      let b := c.group.predNeg f.b.toNat f.bneg
      let v : Mask := match fm with
        | 0 => a &&& b
        | 1 => a ||| b
        | 2 => a ^^^ b
        | 3 => a &&& ~~~b
        | _ => f.imm32
      .next ((s.modGroup c.team.id c.group.gid fun g => g.setPred f.h.d.toNat c.em v).laneDone c)

/-- A value per lane to a general destination, from no general source (R55, R56). -/
def laneValue (i : Instr) (h : LaneHead) (f : Fin 32 → Nat) (c : LaneCtx) (s : State) : Out State :=
  let push := pushOf i.laneFields
  withQueues c s [] push fun s => .next ((s.putGeneral c h 1 LMap.id f).laneDone c)

/-- PMOV (R138): a predicate as a word, tagged b32 in a pass (R210), or a word's truth as a predicate. -/
def execPmov (f : LA) (s : State) : Out State :=
  laneIssue f.h s fun c s =>
    if f.fmod.toNat = 0 then
      if c.inPass then
        .next ((s.putBounds c f.h 1 LMap.id (fun l => if c.group.tri f.a.toNat f.aneg l == .no then (0, 0) else fullRange .b32)
          fun _ => .b32).laneDone c)
      else laneValue (.pmov f) f.h (fun _ => (c.group.predNeg f.a.toNat f.aneg).toNat) c s
    else if c.inPass then
      lanePredBounds f.h (fun l =>
        let a := (c.ivTyped (.pmov f) .b32 l).a
        if 0 < a.1 then .yes else if a.2 = 0 then .no else .unk) c s
    else lanePredElements (.pmov f) f.h (fun _ x _ => x.a != 0) c s

/-- VOTE (R139): the ballot of a predicate over the effective mask, or its truth as some or each. In a pass a ballot with an
undecided active lane is full. -/
def execVote (f : LA) (s : State) : Out State :=
  laneIssue f.h s fun c s =>
    let v := c.em &&& c.group.predNeg f.a.toNat f.aneg
    if f.fmod.toNat = 0 then
      if c.inPass then
        let tri := c.group.tri f.a.toNat f.aneg
        let unsure := (List.finRange 32).any fun l => c.em.has l && tri l == .unk
        .next ((s.putBounds c f.h 1 LMap.id (fun l => if !unsure && tri l == .no then (0, 0) else fullRange .n32)
          fun _ => .n32).laneDone c)
      else laneValue (.vote f) f.h (fun _ => v.toNat) c s
    else if c.inPass then lanePredBounds f.h (c.group.tri f.a.toNat f.aneg) c s
    else
      let b : Mask := if f.fmod.toNat = 1 then (if v != 0 then BitVec.allOnes 32 else 0)
        else (if v == c.em then BitVec.allOnes 32 else 0)
      .next ((s.modGroup c.team.id c.group.gid fun g => g.setPred f.h.d.toNat c.em b).laneDone c)

end Sys2Proof.Machine
end

