-- ==== Sys2Proof/Machine/LaneMap.lean ====
section
/-! DEFINITION. Lane-map instructions (R11, R51, R52, R145 to R148, R153, R190). -/

namespace Sys2Proof.Machine

/-- A register's lanes and map after a map edit (R52): under the full mask the map composed and the lanes copied, under a
partial one values moved into the active lanes, the register realigned to the identity first when its map has duplicates. -/
def editLanes {α : Type} [DecidableEq α] (choice : Nat) (full : Bool) (dst src : Lanes α × LMap) (sel : Fin 32 → Fin 32) (em : Mask) :
    Lanes α × LMap :=
  if full then (src.1, Lanes.gen fun i => src.2[sel i])
  else
    let dst := if dst.2.injective then dst else
      (scatter choice dst.1 LMap.id (BitVec.allOnes 32) (fun i => dst.1[dst.2[i]]), LMap.id)
    (scatter choice dst.1 dst.2 em (fun i => src.1[src.2[sel i]]), dst.2)

def VReg.edit (d : VReg) (choice : Nat) (full : Bool) (a : VReg) (sel : Fin 32 → Fin 32) (em : Mask) : VReg :=
  let r := editLanes choice full (d.phys, d.map) (a.phys, a.map) sel em
  { phys := r.1, map := r.2 }
def WReg.edit (d : WReg) (choice : Nat) (full : Bool) (a : WReg) (sel : Fin 32 → Fin 32) (em : Mask) : WReg :=
  let r := editLanes choice full (d.phys, d.map) (a.phys, a.map) sel em
  { phys := r.1, map := r.2 }

/-- The broadcast map under which a scalar source is read (R53, R145): the spec does not name its lane. -/
def freeBroadcast (choice : Nat) : LMap :=
  Lanes.all (Fin.ofNat 32 (Config.freeWord choice).toNat)

/-- A general source of n registers as registers (R44, R53, R145). -/
def LaneCtx.asRegs (c : LaneCtx) (choice code n : Nat) : List VReg :=
  (List.range n).map fun k =>
    if code < 96 then (c.group.vreg (code + k)).realign (c.group.vreg code).map
    else if code < 112 then
      { phys := match (queueOf c.group (code - 96)).entries.head? with | some e => e.data | none => Lanes.all 0, map := LMap.id }
    else { phys := Lanes.all (vget c.clause.caps (code - 112 + k) 0), map := freeBroadcast choice }

/-- The W bit of R145. -/
def wideEdit (f : LA) : Bool := f.imm32.getLsbD 31

/-- A wide register by field code. -/
def Group.wreg (g : Group) (code : BitVec 7) : WReg := vget g.w code.toNat { phys := Lanes.all { f := 0, e := 0, nonfin := false, loss := false }, map := LMap.id }

/-- The pair fields of a pass group edited alike, with their tags (R148). -/
def Group.editPair (g : Group) (choice d : Nat) (full : Bool) (src : VReg × VReg × Lanes (BitVec 5)) (sel : Fin 32 → Fin 32) (em : Mask) : Group :=
  let (lo, hi, tag) := src
  let old := g.vreg (2 * d)
  { g with
    v := g.v.mapIdx fun j r => if j = 2 * d then r.edit choice full lo sel em else if j = 2 * d + 1 then r.edit choice full hi sel em else r
    pass := g.pass.map fun p =>
      { p with tags := p.tags.mapIdx fun j t => if j = d then (editLanes choice full (t, old.map) (tag, lo.map) sel em).1 else t } }

/-- A map edit in element mode (R52): the pops, then the destination edited, pushed, or written by logical lane. -/
def mapEditElements (i : Instr) (f : LA) (wide : Bool) (n : Nat) (sel : LaneCtx → (Fin 32 → Nat) → Fin 32 → Fin 32) (c : LaneCtx) (s : State) : Out State :=
  let pops := popsOf i.laneFields
  withQueues c s pops (pushOf i.laneFields) fun s =>
    let b := (c.sources i).b
    let sel := sel c fun l => b.vals[l]
    let d := f.h.d.toNat
    let popped := s.modGroup c.team.id c.group.gid fun g => g.pop pops
    let s' : State :=
      if wide then
        popped.modGroup c.team.id c.group.gid fun g =>
          { g with w := vmod g.w d fun r => r.edit s.choice c.full (c.group.wreg f.a) sel c.em }
      else
        let src := c.asRegs s.choice f.a.toNat n
        if d < 96 then
          popped.modGroup c.team.id c.group.gid fun g =>
            { g with v := g.v.mapIdx fun j r =>
                if d ≤ j && j < d + n then
                  (match src[j - d]? with
                   | some a => (if j = d then r else r.realign (c.group.vreg d).map).edit s.choice c.full a sel c.em
                   | none => r)
                else r }
        else
          match src with
          | a :: _ => popped.putGeneral c f.h 1 LMap.id fun l => (a.read (sel l)).toNat
          | [] => popped
    .next (({ s' with choice := s'.choice + 1 } : State).laneDone c)

/-- The source of a map edit in a pass group: the pair field n with its tags, or a captured scalar (R145, R214). -/
def LaneCtx.pairSource (c : LaneCtx) (choice code k : Nat) (t : LType) : VReg × VReg × Lanes (BitVec 5) :=
  if code < 96 then
    let n := code + k
    let tags := match c.group.pass with | some p => (p.tags[n]?).getD (Lanes.all 19) | none => Lanes.all 19
    (c.group.vreg (2 * n), c.group.vreg (2 * n + 1), tags)
  else
    let r : VReg := { phys := Lanes.all (vget c.clause.caps (code - 112 + k) 0), map := freeBroadcast choice }
    (r, r, Lanes.all (BitVec.ofNat 5 t.code))

/-- A map edit in a pass group (R148): lanes with a selector that is not degenerate leave the pass; pairs are edited alike. -/
def mapEditBounds (f : LA) (wide : Bool) (n : Nat) (und : LaneCtx → Mask) (sel : LaneCtx → (Fin 32 → Nat) → Fin 32 → Fin 32) (c : LaneCtx) (s : State) : Out State :=
  let gone := und c &&& c.em
  let c := if gone = 0 then c else { c with em := c.em &&& ~~~gone, group := c.group.undecideLanes gone }
  let s := if gone = 0 then s else s.modGroup c.team.id c.group.gid fun _ => c.group
  if c.em = 0 then .next (s.laneDone c)
  else
    let sel := sel c fun l => (c.ivField (.src 1, f.b) .b32 l).1
    let d := f.h.d.toNat
    let s' : State :=
      if wide then
        s.modGroup c.team.id c.group.gid fun g =>
          { g with w := vmod g.w d fun r => r.edit s.choice c.full (c.group.wreg f.a) sel c.em }
      else if d < 96 then
        s.modGroup c.team.id c.group.gid fun g =>
          (List.range n).foldl (fun g k => g.editPair s.choice (d + k) c.full (c.pairSource s.choice f.a.toNat k f.ty) sel c.em) g
      else
        let src := c.pairSource s.choice f.a.toNat 0 f.ty
        s.putBounds c f.h 1 LMap.id (fun l => ((src.1.read (sel l)).toNat, (src.2.1.read (sel l)).toNat)) fun l =>
          (LType.ofCode (src.2.2[src.1.map[sel l]]).toNat).getD .b32
    .next (({ s' with choice := s'.choice + 1 } : State).laneDone c)

/-- A map edit with a selector, and the lanes whose selector is not degenerate in a pass. -/
def mapEdit (i : Instr) (f : LA) (wide : Bool) (und : LaneCtx → Mask) (sel : LaneCtx → (Fin 32 → Nat) → Fin 32 → Fin 32) (s : State) : Out State :=
  let n := f.ty.regs
  laneIssue f.h s fun c s =>
    if c.inPass then mapEditBounds f wide n und sel c s else mapEditElements i f wide n sel c s

/-- A lane number modulo 32. -/
def laneNo (n : Nat) : Fin 32 := Fin.ofNat 32 n

/-- Lanes whose index in field b is not degenerate. -/
def looseIndex (f : LA) (c : LaneCtx) : Mask :=
  Mask.gen fun l => f.b.toNat < 96 && (c.group.rawPair f.b.toNat 1 l).1 != (c.group.rawPair f.b.toNat 1 l).2

/-- SHFL: sel[i] = read(b, i)[4:0]. -/
def execShfl (f : LA) (s : State) : Out State :=
  mapEdit (.shfl f) f (wideEdit f) (looseIndex f) (fun _ b i => laneNo (b i)) s

/-- The selectors of SHFLI (R11, R146). -/
def shfliSel (f : LA) (i : Fin 32) : Fin 32 :=
  let n := f.imm32.toNat % 32
  match f.fmod.toNat with
  | 0 => if n ≤ i.val then laneNo (i.val - n) else i
  | 1 => if i.val + n ≤ 31 then laneNo (i.val + n) else i
  | 2 => laneNo (i.val ^^^ n)
  | 3 => laneNo (i.val + n)
  | _ =>
    let d := f.imm32.toNat % 8
    let s := f.imm32.toNat / 256 % 8
    let w := f.imm32.toNat / 65536 % 8
    laneNo (i.val ^^^ (i.val / 2 ^ s % 2 ^ w * 2 ^ d))

/-- SHFLI: a selector by an immediate. -/
def execShfli (f : LA) (s : State) : Out State :=
  mapEdit (.shfli f) f (wideEdit f) (fun _ => 0) (fun _ _ => shfliSel f) s

/-- BCAST: every lane selects one. -/
def execBcast (f : LA) (s : State) : Out State :=
  mapEdit (.bcast f) f (wideEdit f) (fun _ => 0) (fun _ _ _ => laneNo f.imm32.toNat) s

/-- The order of lanes of COMPACT: active lanes with the predicate, active lanes without it, other lanes. -/
def compactOrder (em p : Mask) : List (Fin 32) :=
  let ls := List.finRange 32
  (ls.filter fun i => em.has i && p.has i) ++ (ls.filter fun i => em.has i && !p.has i) ++ ls.filter fun i => !em.has i

/-- COMPACT: sel[i] is the i-th lane of that order. -/
def execCompact (f : LA) (s : State) : Out State :=
  let p := f.c.toNat
  mapEdit (.compact f) f (wideEdit f) (fun c => Mask.gen fun l => c.group.tri p f.cneg l == .unk)
    (fun c _ i =>
      let m := if c.inPass then Mask.gen (fun l => c.group.tri p f.cneg l == .yes) else c.group.predNeg p f.cneg
      ((compactOrder c.em m)[i.val]?).getD i) s

/-- MAPSET (R146): as its formula gives, map(d)[i] = map(a)[read(b, i)[4:0]]. -/
def execMapset (f : LA) (s : State) : Out State :=
  mapEdit (.mapset f) f (wideEdit f) (looseIndex f) (fun _ b i => laneNo (b i)) s

/-- Word j of the record in eight registers: logical lane 0 of v(r + j), in a pass of the low registers (R153, R190). -/
def LaneCtx.recordWord (c : LaneCtx) (r j : Nat) : Word := (c.group.vreg (if c.inPass then 2 * (r + j) else r + j)).read 0

/-- The 256 bits of a record operand. -/
def LaneCtx.record (c : LaneCtx) (r : Nat) : Nat := ofWords ((List.range 8).map (c.recordWord r))

/-- Entry k of a record's permutation (R151). -/
def recordPerm (w : Nat) (k : Nat) : Nat := w / 2 ^ (5 * k) % 32

/-- PERMLD (R190): sel[k] = P[k]; in a pass a record that is not degenerate makes every active lane UNDECIDED. -/
def execPermld (f : LA) (s : State) : Out State :=
  let r := f.b.toNat
  mapEdit (.permld f) f false
    (fun c => if (List.range 8).all fun j => (c.group.vreg (2 * (r + j))).read 0 == (c.group.vreg (2 * (r + j) + 1)).read 0 then 0
      else BitVec.allOnes 32)
    (fun c _ i => laneNo (recordPerm (c.record r) i.val)) s

/-! Instructions that read maps or move data. -/

/-- The map of the source of MAPGET. -/
def LaneCtx.sourceMap (c : LaneCtx) (choice : Nat) (f : LA) : LMap :=
  if wideEdit f then (c.group.wreg f.a).map
  else if f.a.toNat < 96 then (c.group.vreg (if c.inPass then 2 * f.a.toNat else f.a.toNat)).map
  else freeBroadcast choice

/-- MAPGET (R147): d_i = map(a)[i], under the identity map. -/
def execMapget (f : LA) (s : State) : Out State :=
  laneIssue f.h s fun c s =>
    let m := c.sourceMap s.choice f
    let v (l : Fin 32) : Nat := (m[l]).val
    let s' : State := { s with choice := s.choice + 1 }
    if c.inPass then .next ((s'.putBounds c f.h 1 LMap.id (fun l => (v l, v l)) fun _ => .n32).laneDone c)
    else laneValue (.mapget f) f.h v c s'

/-- MAT (R147): d_i = read(a, i), under the identity map. -/
def execMat (f : LA) (s : State) : Out State :=
  let t := f.ty
  let n := t.regs
  laneIssue f.h s fun c s =>
    if wideEdit f then
      let a := c.group.wreg f.a
      .next ((({ s with choice := s.choice + 1 } : State).modGroup c.team.id c.group.gid fun g =>
        { g with w := vmod g.w f.h.d.toNat fun r => r.put s.choice c.full LMap.id c.em a.read }).laneDone c)
    else if c.inPass then
      if f.a.toNat < 96 then
        .next ((({ s with choice := s.choice + 1 } : State).modGroup c.team.id c.group.gid fun g =>
          copyPairs g s.choice f.h.d.toNat f.a.toNat n c.full LMap.id c.em).laneDone c)
      else
        let v := c.clause.scalars f.a.toNat n
        .next ((s.putBounds c f.h n LMap.id (fun _ => (v, v)) fun _ => t).laneDone c)
    else
      let pops := popsOf (Instr.mat f).laneFields
      withQueues c s pops none fun s =>
        let x := c.sources (.mat f)
        .next (((s.modGroup c.team.id c.group.gid fun g => g.pop pops).putGeneral c f.h n LMap.id fun l => x.a.vals[l]).laneDone c)

/-- Four registers written together from values gathered before, under the identity map (R148): `src j l` names the register of a
and the lane that give lane l of d + j. -/
def moveQuad (f : LA) (src : Nat → Fin 32 → Nat × Fin 32) (s : State) : Out State :=
  let d := f.h.d.toNat
  let a := f.a.toNat
  laneIssue f.h s fun c s =>
    let g' (g : Group) : Group :=
      (List.range 4).foldl (fun g j =>
        if c.inPass then
          g.putPair s.choice (d + j) 1 c.full LMap.id c.em (fun l => c.group.rawPair (a + (src j l).1) 1 (src j l).2)
            fun l => c.group.tagOf (a + (src j l).1) (src j l).2
        else g.putVregs s.choice (d + j) 1 c.full LMap.id c.em fun l => ((c.group.vreg (a + (src j l).1)).read (src j l).2).toNat) g
    .next ((({ s with choice := s.choice + 1 } : State).modGroup c.team.id c.group.gid g').laneDone c)

/-- XPOSE (R148): d + j lane 4q + k receives read(a + k, 4q + j). -/
def execXpose (f : LA) (s : State) : Out State :=
  moveQuad f (fun j l => (l.val % 4, laneNo (l.val / 4 * 4 + j))) s

/-- QMIX (R148): d + j lane i receives read(a + s_j, i XOR x_j). -/
def execQmix (f : LA) (s : State) : Out State :=
  let byte (j : Nat) : Nat := f.imm32.toNat / 2 ^ (8 * j) % 256
  moveQuad f (fun j l => (byte j % 4, laneNo (l.val ^^^ (byte j / 4 % 32)))) s

end Sys2Proof.Machine
end

