-- ==== Sys2Proof/Machine/LaneWide.lean ====
section
/-! DEFINITION. The lane path: wide registers, `scan`, `dacc`, `wrnd`, `wclr`, `wadd`, `wmov` (R46, R152 to R156, R165, R189 to
R196). -/

namespace Sys2Proof.Machine

/-- Division of an integer by 2^k towards zero. -/
def truncDiv (v : Int) (k : Nat) : Int := v.tdiv (2 ^ k : Nat)

/-- An integer fits the 128 bits of F. -/
def fitsF (v : Int) : Bool := -(2 ^ 127 : Nat) ≤ v && v < (2 ^ 127 : Nat)

/-- The exact value v × 2^e held at a base (R189). -/
def holdWide (v e base : Int) (nonfin loss : Bool) : WLane :=
  if nonfin then { f := 0, e := 0, nonfin := true, loss := loss }
  else
    let k := (base - e).toNat
    let f0 := if e ≥ base then v * (2 ^ (e - base).toNat : Nat) else truncDiv v k
    let loss := loss || (e < base && f0 * (2 ^ k : Nat) != v)
    -- the least raise of the base that lets F fit
    let r0 := Nat.log2 f0.natAbs - 127
    let r := if fitsF f0 then 0 else if fitsF (truncDiv f0 r0) then r0 else r0 + 1
    let f1 := truncDiv f0 r
    let e1 := base + r
    let loss := loss || r != 0
    if e1 > 511 then { f := 0, e := 0, nonfin := true, loss := true }
    else if e1 < -512 then { f := BitVec.ofInt 128 (truncDiv f1 (-512 - e1).toNat), e := BitVec.ofInt 10 (-512), nonfin := false, loss := true }
    else { f := BitVec.ofInt 128 f1, e := BitVec.ofInt 10 e1, nonfin := false, loss := loss }

/-- A wide register written under D (R56, R57). -/
def Group.putWide (g : Group) (choice : Nat) (d : Nat) (full : Bool) (D : LMap) (em : Mask) (f : Fin 32 → WLane) : Group :=
  { g with w := vmod g.w d fun r => r.put choice full D em f }

/-- The physical lanes of a wide register receive values when a long-latency instruction completes; its map is set at issue (R29). -/
def State.laterWide (s : State) (c : LaneCtx) (h : LaneHead) (d : Nat) (map : WReg → WReg) (lanes : WReg → List (Fin 32 × WLane)) : State :=
  let r := map (c.group.wreg (BitVec.ofNat 7 d))
  let s := s.modGroup c.team.id c.group.gid fun g => { g with w := vmod g.w d fun _ => r }
  s.later c h.fs [.wide (Fin.ofNat 8 d) (lanes r)]

/-! scan (R191, R192). -/

/-- The base of a scan's sums, aside from f16 and bf16 (R192). -/
def scanBase : LType → Int
  | .e4m3x4 => -9 | .e5m2x4 => -16 | .e3m2x16 => -4 | .e2m3x16 => -3 | .e2m1x8 => -1 | _ => 0

/-- floor(log2 |x|) of a finite non-zero value. -/
def FVal.floorLog (v : FVal) : Option Int :=
  match v with
  | .fin _ m e => if m = 0 then none else some ((Nat.log2 m : Int) + e)
  | _ => none

/-- The largest of a list of exponents. -/
def topExp (xs : List FVal) : Option Int :=
  match xs.filterMap FVal.floorLog with
  | [] => none
  | e :: es => some (es.foldl (fun m x => if m < x then x else m) e)

/-- The alignment base of f16 and bf16 values (R192). -/
def alignBase (t : LType) (xs : List FVal) : Int :=
  match topExp xs with
  | some x => x - 104
  | none => if t == .f16x2 then -24 else -133

/-- A value as a multiple of 2^base, truncated towards zero. -/
def FVal.truncTo (v : FVal) (base : Int) : Int :=
  match v with
  | .fin n m e =>
    let k : Nat := if e ≥ base then m * 2 ^ (e - base).toNat else m / 2 ^ (base - e).toNat
    if n then -(k : Int) else k
  | _ => 0

/-- The truncation of a value drops a bit. -/
def FVal.drops (v : FVal) (base : Int) : Bool :=
  match v with
  | .fin _ m e => e < base && m % 2 ^ (base - e).toNat != 0
  | _ => false

/-- The sums of a scan by logical lane. -/
def scanSums (t : LType) (prefix_ : Bool) (em : Mask) (x : Fin 32 → FVal) : Fin 32 → WLane :=
  let v (i : Fin 32) : FVal := if em.has i then x i else .zero
  let xs := (List.finRange 32).map v
  let base := if t == .f16x2 || t == .bf16x2 then alignBase t xs else scanBase t
  let nonfin := xs.any fun v => v.isNan || v.isInf
  let loss := xs.any fun v => v.drops base
  fun k =>
    let part := (List.finRange 32).filter fun i => if prefix_ then i.val ≤ k.val else k.val ≤ i.val
    holdWide (part.foldl (fun acc i => acc + (v i).truncTo base) 0) base base nonfin loss

/-- SCAN: suffix or prefix sums of element g, under the identity map; nothing in a pass (R196). -/
def execScan (f : LA) (s : State) : Out State :=
  let t := f.ty
  let g := f.imm32.toNat % 16
  laneIssue f.h s fun c s =>
    if c.inPass then .next (s.laneDone c)
    else
      let pops := popsOf (Instr.scan f).laneFields
      withQueues c s pops none fun s =>
        let x := c.sources (.scan f)
        let code (l : Fin 32) : Nat := if t.isPlanar then unpackCode t x.a.vals[l] x.b.vals[l] g else elemAt t.width x.a.vals[l] g
        let sums := scanSums t (f.fmod.getLsbD 0) c.em fun l => (typeElem t).decode (code l)
        let s := s.modGroup c.team.id c.group.gid fun g => g.pop pops
        let map (r : WReg) : WReg := if c.full then { r with map := LMap.id } else r.realign LMap.id
        .next ((s.laterWide c f.h f.h.d.toNat map fun _ =>
          ((List.finRange 32).filter c.em.has).map fun i => (i, sums i)).laneDone c)

/-! dacc (R152, R155, R165, R193). -/

/-- The ladder of a record format, in units of 0.5 for e2m1 and of 1 for i4 (R152, R165). -/
def ladder (i4 : Bool) : List Int :=
  if i4 then [-7, -6, -5, -4, -3, -2, -1, 0, 1, 2, 3, 4, 5, 6, 7] else [-12, -8, -6, -4, -3, -2, -1, 0, 1, 2, 3, 4, 6, 8, 12]

/-- The stored counts of a record (R151, R152). -/
def recordCounts (w : Nat) : List Nat := (List.range 14).map fun j => w / 2 ^ (160 + 6 * j) % 64

/-- The shift of a record. -/
def recordShift (w : Nat) : Int := signed 8 (w / 2 ^ 244)

/-- Sum of counts. -/
def sumNat (l : List Nat) : Nat := l.foldl (· + ·) 0

/-- The occurring values with their first sorted positions, none when the stored counts exceed 32 (R152, R165). -/
def occurring (i4 : Bool) (w : Nat) : Option (List (Int × Nat)) :=
  let cs := recordCounts w
  if 32 < sumNat cs then none
  else
    let all := cs ++ [32 - sumNat cs]
    some (((ladder i4).zip (List.range 15)).filterMap fun p =>
      if (all[p.2]?).getD 0 = 0 then none else some (p.1, sumNat (all.take p.2)))

/-- Values paired with their steps from the value before, the first with itself. -/
def steps : Int → List (Int × Nat) → List (Int × Nat)
  | _, [] => []
  | prev, (v, b) :: rest => (v - prev, b) :: steps v rest

/-- The lane that `dacc` computes from the lanes of ws and a record. The base of the zero of an all-zero record is not stated. -/
def daccLane (choice : Nat) (i4 : Bool) (w : Nat) (t : Fin 32 → WLane) : WLane :=
  let flags := (List.finRange 32).map t
  let nonfin := flags.any (·.nonfin)
  let loss := flags.any (·.loss)
  if recordShift w = -128 then
    (if nonfin then holdWide 0 0 0 true loss else { f := 0, e := (Config.freeWord choice).truncate 10, nonfin := false, loss := loss })
  else
    match occurring i4 w with
    | none => holdWide 0 0 0 true loss
    | some vs =>
      let terms := (steps 0 vs).map fun p => (p.1, t (laneNo p.2))
      let base := least (terms.map fun p => p.2.e.toInt)
      let v : Int := terms.foldl (fun (acc : Int) p => acc + p.1 * (p.2.f.toInt * (2 ^ (p.2.e.toInt - base).toNat : Nat))) 0
      let base := if i4 then base else base - 1
      holdWide v base base nonfin loss

/-- DACC: the boundary products; under the full mask the broadcast of physical lane 0. -/
def execDacc (f : LA) (s : State) : Out State :=
  laneIssue f.h s fun c s =>
    if c.inPass then .next (s.laneDone c)
    else
      let D := daccLane s.choice (f.fmod.getLsbD 0) (c.record f.b.toNat) (c.group.wreg f.a).read
      let map (r : WReg) : WReg :=
        if c.full then { r with map := Lanes.all 0 } else if LMap.injective r.map then r else r.realign LMap.id
      let lanes (r : WReg) : List (Fin 32 × WLane) :=
        if c.full then [(0, D)] else ((List.finRange 32).filter c.em.has).map fun i => (r.map[i], D)
      .next (({ s with choice := s.choice + 1 } : State).laterWide c f.h f.h.d.toNat map lanes |>.laneDone c)

/-! wrnd (R156, R164, R194). -/

/-- A wide lane times 2^s, and times a band, rounded once to f32, f64 or i32; FTZM is not applied. -/
def LaneCtx.roundWide (c : LaneCtx) (f : LA) (shift : Int) (x : WLane) (band : Option Nat) (g : DWord) : Nat × DWord :=
  let e := typeElem f.ty
  let mode := c.rnd f e.cls
  let d := drawn mode g
  if x.nonfin then (match e with | .flt m => m.nan | _ => 0, d.2)
  else if shift = -128 then (0, d.2)
  else
    let v := FVal.ofScaled x.f.toInt (x.e.toInt + shift) false
    let v := match band with | some b => v.mul (FFmt.bf16.decode b) | none => v
    match e with
    | .flt m => (m.round mode (c.sat f m.cls) d.1 v, d.2)
    | _ => (wrap 32 (v.toRange mode d.1 (-(2 ^ 31 : Nat)) ((2 ^ 31 : Nat) - 1)), d.2)

/-- WRND: rounded under the record's shift; in a pass the full range of its type. -/
def execWrnd (f : LA) (s : State) : Out State :=
  let i := Instr.wrnd f
  let n := f.ty.regs
  let norec := f.fmod.getLsbD 1
  let band := f.fmod.getLsbD 0
  laneIssue f.h s fun c s =>
    if c.inPass then .next ((s.putBounds c f.h n LMap.id (fun _ => fullRange f.ty) fun _ => f.ty).laneDone c)
    else
      let pops := popsOf i.laneFields
      withQueues c s pops (pushOf i.laneFields) fun s =>
        let x := c.sources i
        let ws := c.group.wreg f.a
        let shift := if norec then 0 else recordShift (c.record f.b.toNat)
        let T := targetMap [some ws.map, if band then x.c.map else none]
        let D := if f.h.d.toNat < 96 then destMap T c.full (c.rnd f (typeElem f.ty).cls == 5) else LMap.id
        let r : Lanes (Nat × DWord) := Lanes.gen fun l =>
          if c.em.has l then c.roundWide f shift (ws.read l) (if band then some (x.c.vals[l] % 65536) else none) c.group.gen[l]
          else (0, c.group.gen[l])
        let s := s.modGroup c.team.id c.group.gid fun g => { g.pop pops with gen := Lanes.gen fun l => r[l].2 }
        .next ((s.putGeneral c f.h n D fun l => r[l].1).laneDone c)

/-! wclr, wadd, wmov (R195). -/

/-- A wide destination written from sources with maps; nothing in a pass (R196). -/
def wideWrite (f : LA) (i : Instr) (maps : LaneCtx → Sources → List (Option LMap)) (v : LaneCtx → Sources → Fin 32 → WLane) (s : State) : Out State :=
  laneIssue f.h s fun c s =>
    if c.inPass then .next (s.laneDone c)
    else
      let pops := popsOf i.laneFields
      withQueues c s pops none fun s =>
        let x := c.sources i
        let D := destMap (targetMap (maps c x)) c.full false
        .next ((({ s with choice := s.choice + 1 } : State).modGroup c.team.id c.group.gid fun g =>
          (g.pop pops).putWide s.choice f.h.d.toNat c.full D c.em (v c x)).laneDone c)

/-- WCLR: F = 0, E as given, flags clear, under the identity map. -/
def execWclr (f : LA) (s : State) : Out State :=
  wideWrite f (.wclr f) (fun _ _ => []) (fun _ _ _ => { f := 0, e := f.imm32.truncate 10, nonfin := false, loss := false }) s

/-- The sum or difference of two wide lanes. -/
def addWide (sub : Bool) (a b : WLane) : WLane :=
  let base := if a.e.toInt < b.e.toInt then a.e.toInt else b.e.toInt
  let v (x : WLane) : Int := x.f.toInt * (2 ^ (x.e.toInt - base).toNat : Nat)
  holdWide (if sub then v a - v b else v a + v b) base base (a.nonfin || b.nonfin) (a.loss || b.loss)

/-- WADD: a + b or a − b, under R189. -/
def execWadd (f : LA) (s : State) : Out State :=
  wideWrite f (.wadd f) (fun c _ => [some (c.group.wreg f.a).map, some (c.group.wreg f.b).map])
    (fun c _ l => addWide (f.fmod.getLsbD 0) ((c.group.wreg f.a).read l) ((c.group.wreg f.b).read l)) s

/-- Word k of F. -/
def WLane.word (x : WLane) (k : Nat) : Word := x.f.extractLsb' (32 * k) 32

/-- E and the flags as a word. -/
def WLane.flags (x : WLane) : Word := BitVec.ofBool x.nonfin ++ BitVec.ofBool x.loss ++ (0 : BitVec 20) ++ x.e

/-- WMOV: copies, words of F, E and flags, in either direction. -/
def execWmov (f : LA) (s : State) : Out State :=
  let fm := f.fmod.toNat
  let k := f.imm32.toNat % 4
  if fm = 0 then
    wideWrite f (.wmov f) (fun c _ => [some (c.group.wreg f.a).map]) (fun c _ l => (c.group.wreg f.a).read l) s
  else if fm = 1 || fm = 2 then
    let i := Instr.wmov f
    laneIssue f.h s fun c s =>
      if c.inPass then .next ((s.putBounds c f.h 1 LMap.id (fun _ => fullRange .b32) fun _ => .b32).laneDone c)
      else
        let push := pushOf i.laneFields
        withQueues c s [] push fun s =>
          let ws := c.group.wreg f.a
          let D := if f.h.d.toNat < 96 then destMap (targetMap [some ws.map]) c.full false else LMap.id
          .next ((s.putGeneral c f.h 1 D fun l => (if fm = 1 then (ws.read l).word k else (ws.read l).flags).toNat).laneDone c)
  else
    wideWrite f (.wmov f) (fun c x => [x.a.map, some (c.group.wreg f.h.d).map])
      (fun c x l =>
        let old := (c.group.wreg f.h.d).read l
        let a : Word := BitVec.ofNat 32 x.a.vals[l]
        if fm = 3 then
          let m : BitVec 128 := (0xFFFFFFFF : BitVec 128) <<< (32 * k)
          { old with f := (old.f &&& ~~~m) ||| (a.zeroExtend 128 <<< (32 * k)) }
        else { old with e := a.truncate 10, nonfin := a.getLsbD 31, loss := a.getLsbD 30 }) s

end Sys2Proof.Machine
end

