-- ==== Sys2Proof/Machine/LaneSpecial.lean ====
section
/-! DEFINITION. Special functions (R140 to R142): exact special values, reference values carried far beyond every format, results
within the bounds of R141 that the spec leaves open, and interval results (R216). -/

namespace Sys2Proof.Machine

/-- The special functions. -/
inductive SpecialFn where
  | rcp | rsq | sqrt | exp2 | log2 | sin | cos | tanh | erf
  deriving DecidableEq, Repr

def SpecialFn.code : SpecialFn → Nat
  | .rcp => 0 | .rsq => 1 | .sqrt => 2 | .exp2 => 3 | .log2 => 4 | .sin => 5 | .cos => 6 | .tanh => 7 | .erf => 8

/-- rcp and sqrt are correctly rounded (R141). -/
def SpecialFn.exact : SpecialFn → Bool | .rcp | .sqrt => true | _ => false

/-! Reference arithmetic: integers in units of 2^-640. -/

/-- The binary places of a reference value. -/
def places : Nat := 640
def unit : Nat := 2 ^ places

/-- The product and quotient of two reference values. -/
def fixMul (a b : Int) : Int := a * b / (unit : Nat)
def fixDiv (a b : Int) : Int := a * (unit : Nat) / b

/-- A series: terms made one from the other, a sum over what `pick` takes of each. -/
def series (n : Nat) (first : Int) (next : Nat → Int → Int) (pick : Nat → Int → Int) : Int :=
  ((List.range n).foldl (fun (acc : Int × Int) k => (acc.1 + pick k acc.2, next k acc.2)) (0, first)).1

/-- The inverse hyperbolic tangent of a value of at most 1/3. -/
def atanhFix (z : Int) : Int := series 220 z (fun _ t => fixMul (fixMul t z) z) fun k t => t / (2 * k + 1 : Nat)

def ln2Fix : Int := 2 * atanhFix ((unit : Nat) / 3)

/-- The arc tangent of 1/n. -/
def atanInv (n : Nat) : Int :=
  series 300 ((unit / n : Nat) : Int) (fun _ t => t / (n * n : Nat)) fun k t => if k % 2 = 0 then t / (2 * k + 1 : Nat) else -(t / (2 * k + 1 : Nat))

def piFix : Int := 16 * atanInv 5 - 4 * atanInv 239

/-- e^y for 0 ≤ y < 1. -/
def expSmall (y : Int) : Int := series 150 (unit : Nat) (fun k t => fixMul t y / (k + 1 : Nat)) fun _ t => t

/-- 2^x as a value: an exponent and a factor in [1, 2). -/
def exp2Fix (x : Int) : FVal :=
  let n := x / (unit : Nat)
  .fin false (expSmall (fixMul (x - n * (unit : Nat)) ln2Fix)).toNat (n - places)

/-- log2 of m × 2^e. -/
def log2Fix (m : Nat) (e : Int) : Int :=
  let k := Nat.log2 m
  let y : Int := ((m * 2 ^ places / 2 ^ k : Nat) : Int)
  (k + e) * (unit : Nat) + fixDiv (2 * atanhFix (fixDiv (y - (unit : Nat)) (y + (unit : Nat)))) ln2Fix

/-- sin and cos of an angle below π/2. -/
def sinSmall (r : Int) : Int :=
  series 100 r (fun k t => -(fixMul (fixMul t r) r) / ((2 * k + 2) * (2 * k + 3) : Nat)) fun _ t => t
def cosSmall (r : Int) : Int :=
  series 100 (unit : Nat) (fun k t => -(fixMul (fixMul t r) r) / ((2 * k + 1) * (2 * k + 2) : Nat)) fun _ t => t

/-- sin, or cos, of an angle. -/
def sinFix (cos : Bool) (x : Int) : Int :=
  let half := piFix / 2
  let n := x / half
  let r := x - n * half
  match (n + if cos then 1 else 0) % 4 with
  | 0 => sinSmall r
  | 1 => cosSmall r
  | 2 => -(sinSmall r)
  | _ => -(cosSmall r)

/-- e^(−y) for y ≥ 0. -/
def expNeg (y : Int) : Int :=
  let n := y / ln2Fix
  let f := y - n * ln2Fix
  if n > places then 0 else fixDiv (unit : Nat) (expSmall f) / (2 ^ n.toNat : Nat)

/-- tanh of a non-negative value. -/
def tanhFix (x : Int) : Int :=
  let u := expNeg (2 * x)
  fixDiv ((unit : Nat) - u) ((unit : Nat) + u)

/-- The integer square root, bit by bit. -/
def isqrt (n : Nat) : Nat :=
  (List.range (Nat.log2 n / 2 + 1)).foldl (fun r i =>
    let b := 2 ^ (Nat.log2 n / 2 - i)
    if (r + b) * (r + b) ≤ n then r + b else r) 0

/-- erf of a non-negative value below 16. -/
def erfFix (x : Int) : Int :=
  let root : Int := ((isqrt (piFix.toNat * unit) : Nat) : Int)
  let sum := series 1000 x (fun k t => -(fixMul (fixMul t x) x) / (k + 1 : Nat)) fun k t => t / (2 * k + 1 : Nat)
  fixDiv (2 * sum) root

/-- A quotient with a sticky bit below its places. -/
def stickyDiv (num den : Nat) : Nat := 2 * (num / den) + if num % den = 0 then 0 else 1

/-- A square root with a sticky bit. -/
def stickySqrt (n : Nat) : Nat := let r := isqrt n; 2 * r + if r * r = n then 0 else 1

/-- The exact value of a function at a finite non-zero operand, up to its reference places or with a sticky bit. -/
def SpecialFn.ref (fn : SpecialFn) (neg : Bool) (m : Nat) (e : Int) : FVal :=
  let mag : Int := (FVal.fin false m e).truncTo (-(places : Int))
  let fixed (v : Int) : FVal := .fin (v < 0) v.natAbs (-(places : Int))
  match fn with
  | .rcp => let k := places + Nat.log2 m; .fin neg (stickyDiv (2 ^ k) m) (-(k : Int) - 1 - e)
  | .sqrt =>
    let odd := e % 2 != 0
    let e' := if odd then e - 1 else e
    let m' := if odd then 2 * m else m
    .fin false (stickySqrt (m' * 2 ^ (2 * places))) (e' / 2 - places - 1)
  | .rsq =>
    let odd := e % 2 != 0
    let e' := if odd then e - 1 else e
    let m' := if odd then 2 * m else m
    .fin false (isqrt (2 ^ (4 * places) / m')) (-(e' / 2) - 2 * places)
  | .exp2 =>
    -- beyond 2^±2048 every format overflows or underflows alike
    if (Nat.log2 m : Int) + e ≥ 11 then .fin false 1 (if neg then -2048 else 2048) else exp2Fix (if neg then -mag else mag)
  | .log2 => fixed (log2Fix m e)
  | .sin => fixed (sinFix false (if neg then -mag else mag))
  | .cos => fixed (sinFix true (if neg then -mag else mag))
  | .tanh => let v := tanhFix mag; fixed (if neg then -v else v)
  | .erf => let v := if mag < 16 * (unit : Nat) then erfFix mag else (unit : Nat); fixed (if neg then -v else v)

/-- A finite value is an integer. -/
def FVal.wholeInt (v : FVal) : Option Int :=
  match v with
  | .fin n m e =>
    if e ≥ 0 then (if e ≤ 20 then some (let k := m * 2 ^ e.toNat; if n then -(k : Int) else k) else none)
    else if m % 2 ^ (-e).toNat = 0 then some (let k := m / 2 ^ (-e).toNat; if n then -(k : Int) else k)
    else none
  | _ => none

/-- The values at which a function is exact (R142): none where R141 bounds its error. -/
def SpecialFn.special (fn : SpecialFn) (v : FVal) : Option FVal :=
  let one (n : Bool) : FVal := .fin n 1 0
  match v with
  | .nan => some .nan
  | .inf n =>
    some (match fn with
      | .rcp => .fin n 0 0
      | .rsq => if n then .nan else .zero
      | .sqrt | .log2 => if n then .nan else .inf false
      | .exp2 => if n then .zero else .inf false
      | .sin | .cos => .nan
      | .tanh | .erf => one n)
  | .fin n m _ =>
    if m = 0 then
      some (match fn with
        | .rcp | .rsq => .inf n
        | .sqrt | .sin | .tanh | .erf => .fin n 0 0
        | .exp2 | .cos => one false
        | .log2 => .inf true)
    else
      match fn with
      | .rsq | .sqrt => if n then some .nan else none
      | .log2 => if n then some .nan else if v.eq (one false) then some .zero else none
      | .exp2 => v.wholeInt.map fun k => .fin false 1 k
      | _ => none

/-- The value of a function: exact, or its reference. -/
def SpecialFn.value (fn : SpecialFn) (v : FVal) : FVal :=
  match fn.special v with
  | some r => r
  | none => match v with | .fin n m e => fn.ref n m e | v => v

/-- The exponent of a format's spacing at a value. -/
def FFmt.ulp (m : FFmt) (v : FVal) : Int :=
  let low : Int := 1 - (m.bias : Int)
  let top := v.floorLog.getD low
  (if top < low then low else top) - m.mbits

/-- How far a result may lie from the exact value (R141): ulps, or an absolute bound of log2 near 1. -/
def SpecialFn.bound (fn : SpecialFn) (m : FFmt) (x v : FVal) : FVal :=
  let near := FVal.le (.fin false 1 (-1)) x && FVal.le x (.fin false 1 1)
  if fn == .log2 && near then .fin false 1 (if m == .f32 then -22 else -9)
  else .fin false (if m == .f32 && fn != .rsq then 2 else 1) (m.ulp v)

/-- A code lies within the bound of a function's value; an infinity stands for the first value beyond the largest finite one. -/
def SpecialFn.within (fn : SpecialFn) (m : FFmt) (x v : FVal) (code : Nat) : Bool :=
  let r : FVal := match m.decode code with
    | .inf n => .fin n 1 (m.bias + 1)
    | r => r
  !r.isNan && FVal.le (FVal.add false r v.neg).abs (fn.bound m x v) &&
  (!(fn == .sin || fn == .cos) || FVal.le r.abs (.fin false 1 0))

/-- The format in which a function is computed: f32 for the packed types (R140). -/
def FFmt.computing (m : FFmt) : FFmt := if m.width = 16 then .f32 else m

/-- A code where it lies within the bound of a function's value, else the nearest value. -/
def SpecialFn.bounded (fn : SpecialFn) (m : FFmt) (x : FVal) (code : Nat) : Nat :=
  if fn.within m x (fn.value x) code then code else m.round 0 false 0 (fn.value x)

/-- The result of a function whose error R141 bounds: the free code of the format in which it is computed, within that format's bound,
rounded once to the element's format (R140). One operand gives one result. -/
def SpecialFn.open_ (fn : SpecialFn) (m : FFmt) (x : FVal) : Nat :=
  let i := m.computing
  let w := fn.bounded i x (Config.specialCode fn.code i.width (i.round 0 false 0 x) % 2 ^ i.width)
  fn.bounded m x (if i = m then w else m.round 0 false 0 (i.decode w))

/-- An infinite code under saturation (R142). -/
def FFmt.limit (m : FFmt) (sat : Bool) (code : Nat) : Nat :=
  match m.decode code with
  | .inf n => if sat then (if n then m.sign else 0) + m.maxCode else code
  | _ => code

/-- One element of a special function. -/
def LaneCtx.specialElem (c : LaneCtx) (f : LA) (fn : SpecialFn) (code : Nat) (g : DWord) : Nat × DWord :=
  let m := typeFmt f.ty
  let x := m.decodeIn (c.fin m) code
  let sat := c.sat f m.cls
  if fn.exact then c.roundTo m (c.rnd f m.cls) sat (fn.value x) g
  else
    match fn.special x with
    | some r => (m.flush (c.fout m) (m.round 0 sat 0 r), g)
    | none => (m.flush (c.fout m) (m.limit sat (fn.open_ m x)), g)

/-- The value of a function at a bound, moved outward by its error (R216): downward or upward. -/
def SpecialFn.outer (fn : SpecialFn) (m : FFmt) (up : Bool) (x : FVal) : FVal :=
  let v := fn.value x
  if fn.exact || (fn.special x).isSome then v
  else
    let b := fn.bound m x v
    FVal.add false v (if up then b else b.neg)

/-- Bounds of one element of a pair, degenerate or not: the function at each bound, outward; full where the domain is left (R215, R216). -/
def LaneCtx.specialBounds (c : LaneCtx) (f : LA) (fn : SpecialFn) (point : Bool) (b : Bounds) : Option Bounds :=
  let m := typeFmt f.ty
  let sat := c.sat f m.cls
  match floatRange m (c.fin m) b with
  | none => none
  | some a =>
    let one := m.round 0 false 0 (.fin false 1 0)
    match fn with
    | .sin | .cos =>
      if hasInf a then none
      else if point then (let r := (c.specialElem f fn b.1 1).1; some (r, r))
      else some (m.sign + one, one)
    | .rcp => if hasZero a then none else some (c.outward m sat (fn.value a.2) (fn.value a.1))
    | .rsq =>
      if a.1.lt .zero then none
      else
        let hi : FVal := if a.1.isZero && !(a.2.isZero && a.2.isNeg) then .inf false else fn.outer m true a.1
        let lo : FVal := if a.1.isZero && a.1.isNeg then .inf true else fn.outer m false a.2
        some (c.outward m sat lo hi)
    | .sqrt | .log2 =>
      if a.1.lt .zero then none else some (c.outward m sat (fn.outer m false a.1) (fn.outer m true a.2))
    | _ => some (c.outward m sat (fn.outer m false a.1) (fn.outer m true a.2))

/-- A special function over its type; rcp and sqrt round under a mode. -/
def specialOp (f : LA) (fn : SpecialFn) : LaneOp :=
  let m := typeFmt f.ty
  { floatOp f (fun c _ e g => c.specialElem f fn e.1 g) (fun _ _ => none) (if fn.exact then stochasticIn f m else fun _ => false) with
    iv := fun c x => boundElems f x fun e => c.specialBounds f fn x.a.point e.1 }

/-- RCP: 1 / a, correctly rounded. -/
def execRcp (f : LA) (s : State) : Out State := laneCompute (.rcp f) f.h (specialOp f .rcp) s

/-- RSQ: 1 / √a. -/
def execRsq (f : LA) (s : State) : Out State := laneCompute (.rsq f) f.h (specialOp f .rsq) s

/-- SQRT: √a, correctly rounded. -/
def execSqrt (f : LA) (s : State) : Out State := laneCompute (.sqrt f) f.h (specialOp f .sqrt) s

/-- EXP2: 2^a. -/
def execExp2 (f : LA) (s : State) : Out State := laneCompute (.exp2 f) f.h (specialOp f .exp2) s

/-- LOG2: the logarithm of a to base 2. -/
def execLog2 (f : LA) (s : State) : Out State := laneCompute (.log2 f) f.h (specialOp f .log2) s

/-- SIN: of a in radians. -/
def execSin (f : LA) (s : State) : Out State := laneCompute (.sin f) f.h (specialOp f .sin) s

/-- COS: of a in radians. -/
def execCos (f : LA) (s : State) : Out State := laneCompute (.cos f) f.h (specialOp f .cos) s

/-- TANH. -/
def execTanh (f : LA) (s : State) : Out State := laneCompute (.tanh f) f.h (specialOp f .tanh) s

/-- ERF. -/
def execErf (f : LA) (s : State) : Out State := laneCompute (.erf f) f.h (specialOp f .erf) s

end Sys2Proof.Machine
end

