-- ==== Sys2Proof/Machine/LaneExpr.lean ====
section
/-! DEFINITION. The expression form (R87, R88, R143, R144) with its interval results (R216). -/

namespace Sys2Proof.Machine

/-- The lane type of an LX type. -/
def XType.lane : XType → LType | .f32 => .f32 | .f16x2 => .f16x2 | .bf16x2 => .bf16x2 | .i32 => .i32

/-- A stack machine over values of any kind: the inputs, an operator on a stack with what remains below its result, and what an
operator that is not the last passes on. The result, and whether an operator made it. -/
def evalToks {α : Type} (zero : α) (input : Tok → α) (op : Bool → Tok → List α → α × List α) (pass : α → α) :
    List Tok → List α → α × Bool
  | [], st => (st.headD zero, false)
  | t :: ts, st =>
    if t.computes then
      let r := op ts.isEmpty t st
      if ts.isEmpty then (r.1, true) else evalToks zero input op pass ts (pass r.1 :: r.2)
    else
      match t, st with
      | .dup, x :: r => evalToks zero input op pass ts (x :: x :: r)
      | .swap, x :: y :: r => evalToks zero input op pass ts (y :: x :: r)
      | t, st => evalToks zero input op pass ts (input t :: st)

/-- The clamp of `sat01`: NaN and −0 give +0. -/
def sat01 (v : FVal) : FVal :=
  if FVal.lt .zero v then (if FVal.lt (.fin false 1 0) v then .fin false 1 0 else v) else .zero

/-- A float operator; the first popped value is the stack's head. -/
def floatTok (rdn : Bool) (t : Tok) (st : List FVal) : FVal × List FVal :=
  match t, st with
  | .add, x :: y :: r => (FVal.add rdn y x, r)
  | .sub, x :: y :: r => (FVal.add rdn y x.neg, r)
  | .mul, x :: y :: r => (y.mul x, r)
  | .min, x :: y :: r => (fminV y x, r)
  | .max, x :: y :: r => (fmaxV y x, r)
  | .fma, z :: y :: x :: r => (FVal.add rdn (x.mul y) z, r)
  | .neg, x :: r => (x.neg, r)
  | .abs, x :: r => (x.abs, r)
  | .sat01, x :: r => (sat01 x, r)
  | _, st => (.nan, st)

/-- An interval of values, none for one that may hold NaN. -/
abbrev Range := Option (FVal × FVal)

/-- A float operator on intervals. -/
def rangeTok (t : Tok) (st : List Range) : Range × List Range :=
  let neg (a : FVal × FVal) : FVal × FVal := (a.2.neg, a.1.neg)
  match t, st with
  | .add, x :: y :: r => (match y, x with | some y, some x => sumRange [y, x] | _, _ => none, r)
  | .sub, x :: y :: r => (match y, x with | some y, some x => sumRange [y, neg x] | _, _ => none, r)
  | .mul, x :: y :: r => (match y, x with | some y, some x => mulRange y x | _, _ => none, r)
  | .min, x :: y :: r => (match y, x with | some y, some x => some (fminV y.1 x.1, fminV y.2 x.2) | _, _ => none, r)
  | .max, x :: y :: r => (match y, x with | some y, some x => some (fmaxV y.1 x.1, fmaxV y.2 x.2) | _, _ => none, r)
  | .fma, z :: y :: x :: r =>
    (match x, y, z with | some x, some y, some z => (mulRange x y).bind fun p => sumRange [p, z] | _, _, _ => none, r)
  | .neg, x :: r => (x.map neg, r)
  | .abs, x :: r =>
    (x.map fun a => if !a.1.isNeg then a else if a.2.isNeg then neg a else (.zero, greatestF [a.1.neg, a.2]), r)
  | .sat01, x :: r => (match x with | some a => some (sat01 a.1, sat01 a.2) | none => some (.zero, .fin false 1 0), r)
  | _, st => (none, st)

/-- An integer operator, modulo 2^32 in its caller. -/
def intTok (t : Tok) (st : List Int) : Int × List Int :=
  match t, st with
  | .add, x :: y :: r => (y + x, r)
  | .sub, x :: y :: r => (y - x, r)
  | .mul, x :: y :: r => (y * x, r)
  | .min, x :: y :: r => (minInt y x, r)
  | .max, x :: y :: r => (maxInt y x, r)
  | .fma, z :: y :: x :: r => (x * y + z, r)
  | .neg, x :: r => (-x, r)
  | .abs, x :: r => (x.natAbs, r)
  | .sat01, x :: r => (clampInt 0 1 x, r)
  | _, st => (0, st)

/-- An integer operator on intervals, exact or full (R216). -/
def intRangeTok (t : Tok) (st : List (Int × Int)) : (Int × Int) × List (Int × Int) :=
  let fit (b : Int × Int) : Int × Int := let r := intRange .i32; if r.1 ≤ b.1 && b.2 ≤ r.2 then b else r
  match t, st with
  | .add, x :: y :: r => (fit (y.1 + x.1, y.2 + x.2), r)
  | .sub, x :: y :: r => (fit (y.1 - x.2, y.2 - x.1), r)
  | .mul, x :: y :: r => (fit (hull (corners (· * ·) y x)), r)
  | .min, x :: y :: r => ((minInt y.1 x.1, minInt y.2 x.2), r)
  | .max, x :: y :: r => ((maxInt y.1 x.1, maxInt y.2 x.2), r)
  | .fma, z :: y :: x :: r => (let h := hull (corners (· * ·) x y); fit (h.1 + z.1, h.2 + z.2), r)
  | .neg, x :: r => (fit (-x.2, -x.1), r)
  | .abs, x :: r => (fit (if 0 ≤ x.1 then x else if x.2 ≤ 0 then (-x.2, -x.1) else (0, maxInt (-x.1) x.2)), r)
  | .sat01, x :: r => ((clampInt 0 1 x.1, clampInt 0 1 x.2), r)
  | _, st => ((0, 0), st)

/-- A signed integer modulo 2^32. -/
def wrapInt (v : Int) : Int := signed 32 (wrap 32 v)

/-- The lane operation of an expression: inputs widened after FIN, results but the last rounded to f32, the last rounded once
into the destination under RMODE, with a draw under its stochastic code. -/
def exprOp (f : LX) : LaneOp :=
  let t := XType.lane f.ty
  let pick {α : Type} (a b c d : α) : Tok → α := fun k => match k with | .b => b | .c => c | .d => d | _ => a
  if t == .i32 then
    { n := 1, ta := t, tb := t, tc := t, td := t, tag := t, dep := fun _ => false, old := f.toks.contains .d
      f := fun _ x g =>
        let v (n : Nat) : Int := signed 32 n
        (wrap 32 (evalToks 0 (pick (v x.a) (v x.b) (v x.c) (v x.d)) (fun _ => intTok) wrapInt f.toks []).1, g)
      iv := fun _ x =>
        let v (b : Bounds) : Int × Int := (signed 32 b.1, signed 32 b.2)
        let r := (evalToks (0, 0) (pick (v x.a) (v x.b) (v x.c) (v x.d)) (fun _ => intRangeTok) id f.toks []).1
        (wrap 32 r.1, wrap 32 r.2) }
  else
    let m := typeFmt t
    let keep (v : FVal) : FVal := FFmt.f32.decode (FFmt.f32.round 0 false 0 v)
    { n := 1, ta := t, tb := t, tc := t, td := t, tag := t, old := f.toks.contains .d
      dep := fun c => rmodeRnd c.clause.rmode m.cls == 5 && f.toks.any Tok.computes
      f := fun c x g => foldElems t.width t.count (fun k g =>
        let v (n : Nat) : FVal := m.decodeIn (c.fin m) (elemAt t.width n k)
        let mode := rmodeRnd c.clause.rmode m.cls
        let sat := rmodeSat c.clause.rmode m.cls
        let r := evalToks .zero (pick (v x.a) (v x.b) (v x.c) (v x.d)) (fun last => floatTok (last && mode == 2)) keep f.toks []
        if r.2 then c.roundTo m mode sat r.1 g
        else (m.flush (c.fout m) (m.round 0 sat 0 r.1), g)) g
      iv := fun c x =>
        let sat := rmodeSat c.clause.rmode m.cls
        let out (v : FVal × FVal) : FVal × FVal :=
          (FFmt.f32.decode (FFmt.f32.round 2 false 0 v.1), FFmt.f32.decode (FFmt.f32.round 3 false 0 v.2))
        let e (k : Nat) : Bounds :=
          let v (b : Bounds) : Range := floatRange m (c.fin m) (elemAt t.width b.1 k, elemAt t.width b.2 k)
          match (evalToks none (pick (v x.a) (v x.b) (v x.c) (v x.d)) (fun _ => rangeTok) (fun r => r.map out) f.toks []).1 with
          | some r => c.outward m sat r.1 r.2
          | none => m.full
        (ofElems t.width t.count fun k => (e k).1, ofElems t.width t.count fun k => (e k).2) }

/-- EXPR: the token expression of each lane and element. -/
def execExpr (f : LX) (s : State) : Out State := laneCompute (.expr f) f.h (exprOp f) s

end Sys2Proof.Machine
end

