-- ==== Sys2Proof/Machine/LaneSys.lean ====
section
/-! DEFINITION. The interval instructions `ivmk`, `ivlo`, `ivhi`, `ivtest` (R223 to R225) and the system instructions `nopl`,
`ltrap`, `lclk` (R149). -/

namespace Sys2Proof.Machine

/-! Interval instructions. -/

/-- The order of an element format on codes that are not NaN, −0 below +0 (R224). -/
def codeBelow (e : Elem) (a b : Nat) : Bool :=
  match e with
  | .flt m => FVal.below (m.decode a) (m.decode b)
  | e => e.int a < e.int b

def codeMin (e : Elem) (a b : Nat) : Nat := if codeBelow e b a then b else a
def codeMax (e : Elem) (a b : Nat) : Nat := if codeBelow e a b then b else a

/-- A code is a NaN. -/
def codeNan (e : Elem) (a : Nat) : Bool := match e with | .flt m => (m.decode a).isNan | _ => false

/-- The infinity of a sign, for a float format. -/
def codeInf (e : Elem) (neg : Bool) : Nat := match e with | .flt m => m.inf + (if neg then m.sign else 0) | _ => 0

/-- The clamp of `ivmk` on one element (R224). -/
def clampCode (e : Elem) (a b c : Nat) : Nat :=
  let or_ (x : Nat) (neg : Bool) : Nat := if codeNan e x then codeInf e neg else x
  codeMin e (codeMax e (or_ a true) (or_ b true)) (or_ c false)

/-- The interval of an operand of `ivmk` and `ivtest`, all values where a float may be NaN (R225). -/
def openBounds (e : Elem) (b : Bounds) : Bounds :=
  if codeNan e b.1 || codeNan e b.2 || codeBelow e b.2 b.1 then
    (match e with | .flt _ => (codeInf e true, codeInf e false) | _ => b)
  else b

/-- IVMK: min(max(a, b), c) element by element; in a pass bound by bound. -/
def execIvmk (f : LA) (s : State) : Out State :=
  let t := f.ty
  let e := typeElem t
  laneCompute (.ivmk f) f.h (intOp t (fun _ x => zipElems t (clampCode e) x)
    (fun _ x => zipBounds t (fun a b c =>
      let a := openBounds e a
      let b := openBounds e b
      let c := openBounds e c
      (clampCode e a.1 b.1 c.1, clampCode e a.2 b.2 c.2)) x)) s

/-- b ≤ a ≤ c on one element, false for NaN, −0 equal to +0 (R224). -/
def insideCode (e : Elem) (a b c : Nat) : Bool :=
  match e with
  | .flt m => FVal.le (m.decode b) (m.decode a) && FVal.le (m.decode a) (m.decode c)
  | e => e.int b ≤ e.int a && e.int a ≤ e.int c

/-- The judgement of one element in a pass (R225). -/
def insideTri (e : Elem) (a b c : Bounds) : Tri :=
  let loose (x : Bounds) : Bool := match e with | .flt m => (floatRange m false x).isNone | _ => false
  let less (x y : Nat) : Bool := match e with | .flt m => FVal.lt (m.decode x) (m.decode y) | e => e.int x < e.int y
  let b' := openBounds e b
  let c' := openBounds e c
  let a' := openBounds e a
  let any := loose a || loose b || loose c
  if !any && !less a.1 b.2 && !less c.1 a.2 then .yes
  else if (!loose a && (less a'.2 b'.1 || less c'.2 a'.1)) then .no
  else .unk

/-- IVTEST: every element lies between b and c; `.out` complements. -/
def execIvtest (f : LA) (s : State) : Out State :=
  let t := f.ty
  let e := typeElem t
  let out := f.fmod.getLsbD 0
  laneIssue f.h s fun c s =>
    if c.inPass then
      lanePredBounds f.h (fun l =>
        let x := c.ivTyped (.ivtest f) t l
        let el (b : Bounds) (k : Nat) : Bounds := (elemAt t.width b.1 k, elemAt t.width b.2 k)
        let r := (List.range t.count).foldl (fun acc k => acc.and (insideTri e (el x.a k) (el x.b k) (el x.c k))) Tri.yes
        if out then r.not else r) c s
    else
      lanePredElements (.ivtest f) f.h (fun _ x _ =>
        ((List.range t.count).all fun k => insideCode e (elemAt t.width x.a k) (elemAt t.width x.b k) (elemAt t.width x.c k)) != out) c s

/-- The least or greatest of a list of codes, NaN ignored unless all are NaN. -/
def extreme (e : Elem) (high : Bool) (cs : List Nat) : Nat :=
  match cs.filter fun x => !codeNan e x with
  | [] => match e with | .flt m => m.nan | _ => 0
  | x :: xs => xs.foldl (fun m y => if high then codeMax e m y else codeMin e m y) x

/-- One value given to a destination of n registers (R224): under the full mask to physical lane 0 with its broadcast map, under
a partial one to each active lane. -/
def Group.putOne (g : Group) (choice d n : Nat) (full : Bool) (em : Mask) (v : Nat) : Group :=
  let first := g.vreg d
  { g with v := g.v.mapIdx fun j r =>
      if d ≤ j && j < d + n then
        let w := wordAt v (j - d)
        if full then { phys := Lanes.gen (fun p => if p.val = 0 then w else r.phys[p]), map := Lanes.all 0 }
        else
          let r := r.realign (if LMap.injective first.map then first.map else LMap.id)
          { r with phys := scatter choice r.phys r.map em fun _ => w }
      else r }

/-- IVLO and IVHI: the extreme over the effective mask; in a pass a's own interval. -/
def ivExtreme (i : Instr) (f : LA) (high : Bool) (s : State) : Out State :=
  let t := f.ty
  let n := t.regs
  let e := typeElem t
  laneIssue f.h s fun c s =>
    if c.inPass then
      let r (l : Fin 32) : Bounds :=
        let b := c.ivField (.src n, f.a) t l
        let el (k : Nat) : Bounds :=
          let x : Bounds := (elemAt t.width b.1 k, elemAt t.width b.2 k)
          match e with
          | .flt m => if (floatRange m false x).isNone then m.full else x
          | _ => x
        (ofElems t.width t.count fun k => (el k).1, ofElems t.width t.count fun k => (el k).2)
      .next ((s.putBounds c f.h n LMap.id r fun _ => t).laneDone c)
    else
      withQueues c s [] (pushOf i.laneFields) fun s =>
        let a := (c.sources i).a
        let lanes := (List.finRange 32).filter c.em.has
        let v := ofElems t.width t.count fun k => extreme e high (lanes.map fun l => elemAt t.width a.vals[l] k)
        let d := f.h.d.toNat
        let s' := if d < 96 then
            ({ s with choice := s.choice + 1 } : State).modGroup c.team.id c.group.gid fun g => g.putOne s.choice d n c.full c.em v
          else s.putGeneral c f.h n LMap.id fun _ => v
        .next (s'.laneDone c)

/-- IVLO. -/
def execIvlo (f : LA) (s : State) : Out State := ivExtreme (.ivlo f) f false s

/-- IVHI. -/
def execIvhi (f : LA) (s : State) : Out State := ivExtreme (.ivhi f) f true s

/-! System instructions. -/

/-- NOPL: only cycles. -/
def execNopl (f : LA) (s : State) : Out State := laneIssue f.h s fun c s => .next (s.laneDone c)

/-- LTRAP: USER_TRAP at the lowest active lane, its record behind the earlier instructions of the clause; in a pass the active
lanes become UNDECIDED. -/
def execLtrap (f : LA) (s : State) : Out State :=
  laneIssue f.h s fun c s =>
    if c.inPass then .next ((s.modGroup c.team.id c.group.gid fun g => g.undecideLanes c.em).laneDone c)
    else
      let t := { s.siteTrap c.team c.group c.ref.split.val c.clause.runPc 1 (.userTrap, 0) 0 with
        lpc := c.pc, lane := c.em.lowest.map (·.val), ucode := f.imm32.toNat % 65536
        behind := (s.ops.filter fun o => o.cid == some c.clause.cid && !o.done).map (·.id) }
      .next (s.takeTrap t c.team.id c.group.gid (.clause c.ref c.clause.cid))

/-- LCLK: the core's cycle count, or the next draw of each active lane; in a pass the full range of n32. -/
def execLclk (f : LA) (s : State) : Out State :=
  laneIssue f.h s fun c s =>
    if c.inPass then .next ((s.putBounds c f.h 1 LMap.id (fun _ => fullRange .n32) fun _ => .n32).laneDone c)
    else if f.fmod.getLsbD 0 then
      withQueues c s [] (pushOf (Instr.lclk f).laneFields) fun s =>
        let r : Lanes (DWord × Nat) := Lanes.gen fun l => if c.em.has l then draw c.group.gen[l] else (c.group.gen[l], 0)
        let s := s.modGroup c.team.id c.group.gid fun g => { g with gen := Lanes.gen fun l => r[l].1 }
        .next ((s.putGeneral c f.h 1 LMap.id fun l => r[l].2).laneDone c)
    else laneValue (.lclk f) f.h (fun _ => s.cycleOf c.core % 2 ^ 32) c s

end Sys2Proof.Machine
end

