-- ==== Sys2Proof/Machine/ScalarMem.lean ====
section
/-! DEFINITION. Scalar loads, stores and atomics (R92, R94, R99 to R104), the issue of memory operations into the ordering machine
(R260 to R263), and redundant execution's part in it (R358). -/

namespace Sys2Proof.Machine

/-! Issuing operations. -/

/-- Every operation of a list may issue (R228, R261 to R263): they share their program order. -/
def State.canIssue (s : State) (ops : List MemOp) : Bool :=
  ops.all fun o => s.mayIssue o.past o.clauses o.effOrder o.effScope &&
    (!o.sc || match o.core? with | some c => s.scFree c | none => true)

/-- Operations enter the machine one after another; their numbers. -/
def State.pushOps (s : State) (ops : List MemOp) : State × List Nat :=
  ops.foldl (fun (acc : State × List Nat) o => (acc.1.pushOp o, acc.2 ++ [acc.1.fresh])) (s, [])

/-- The writes to memory of a redundant team wait for its epoch (R358): those that come once it holds 4,096 sectors wait for the next. -/
def State.holdOps (s : State) (t : Team) (ops : List MemOp) : List MemOp :=
  if t.red.isNone then ops
  else
    (ops.foldl (fun (acc : List MemOp × List Nat) o =>
      if !(o.isWrite && o.space == .mem) then (acc.1 ++ [o], acc.2)
      else if acc.2.length < 4096 then (acc.1 ++ [{ o with epoch := 1 }], unite acc.2 [o.heldSector])
      else (acc.1 ++ [{ o with epoch := 2 }], acc.2)) ([], s.heldSectors t.id)).1

/-- Operations of a closing instruction (R358): copy 0's enter the machine and are mailed to copy 1, whose own writes are
discarded and whose results are those that copy 0's return, an acquire as an acquire (R228); none while copy 1 still waits for them. -/
def State.pushClosing (s : State) (t : Team) (ops : List MemOp) : Option (State × List Nat) :=
  match t.red with
  | none => some (s.pushOps ops)
  | some r =>
    if ops.isEmpty then some (s, [])
    else if r.copy = 0 then
      let (s', ids) := s.pushOps ops
      some (s'.modTeam r.twin fun t => { t with red := t.red.map fun r => { r with mail := ids } }, ids)
    else if r.mail.isEmpty then none
    else
      let echoes := (ops.zip r.mail).map fun p =>
        { p.1 with kind := .echo p.2, data := [], scope := .group, sc := false, past := [], clauses := [] }
      some ((s.modTeam t.id fun t => { t with red := t.red.map fun r => { r with mail := [] } }).pushOps echoes)

/-- An access that comes only once its epoch is closed (R358): an atomic, or a release or seq_cst load. A store of such an order is held in
the epoch that it closes. -/
def closesEpoch (atomic : Bool) (o : Order) (sc : Bool) : Bool :=
  atomic || sc || match o with | .release | .acqRel | .seqCst => true | _ => false

/-- The bytes of registers in memory order, the lower-numbered at the lower address (R7). -/
def bytesOf (n : Nat) (v : Nat) : List Byte := natLe n v

/-- The agent of a split's own operations. -/
def Issuer.agent (c : Issuer) : Agent := .group c.team.id c.group.gid c.core

/-- A scalar operation of the split with its place in program order (R30, R255). -/
def Issuer.op (c : Issuer) (kind : OpKind) (addr size : Nat) (order : Order) (scope : Scope) (sc : Bool) : MemOp :=
  { blankOp c.agent c.asid kind .mem addr size with uid := c.uid, order := order, scope := scope, sc := sc, past := c.split.set.past }

/-- A split's operation issues: its registers wait for it, later operations follow it, the split goes on. -/
def State.issueScalar (s : State) (c : Issuer) (ea : DWord) (l : Leaf) (o : MemOp) (dests : List SReg) (closing : Bool) : Out State :=
  let o := { o with site := { spc := c.pc, lpc := 0, ptr := ea, lane := none } }
  if !s.canIssue [o] then .next s
  else
    let r := if closing then s.pushClosing c.team [o] else some (s.pushOps (s.holdOps c.team [o]))
    match r with
    | none => .next s
    | some (s, ids) =>
      let s := s.usedLeaf (some c.core) c.asid ea l
      let s := s.modGroup c.team.id c.group.gid fun g =>
        let g := dests.foldl (fun g r => match ids with | id :: _ => g.mark c.ref.split r id false | [] => g) g
        g.modSplit c.ref.split fun p => p.modSet fun e => { e with past := unite e.past ids }
      .next (s.advance c)

/-- The checks of a scalar access (R92, R99): alignment, then translation and R239. -/
def State.scalarCheck (s : State) (c : Issuer) (ea : DWord) (size : Nat) (k : Access) (fmtOk : Leaf → Bool := Leaf.plainFmt) :
    Except AccessFault Leaf :=
  if ea.toNat % size ≠ 0 then .error (.alignment, 0) else s.checkAccess (some c.core) c.asid ea size k fmtOk

/-- FORMAT_ACCESS for a scalar atomic: a host frame takes only the operations 0x0 to 0x4 (R101, R278). -/
def Leaf.atomicFmt (l : Leaf) (aop : Aop) : Bool :=
  l.plainFmt && (l.region != some 3 || match aop with | .load | .store | .swap | .cas | .add => true | _ => false)

/-- A scalar access that fails its checks (R92): its fault. A tag is read between the access's issue and its performance (R243), so a
mismatch does not count while the access may not issue. -/
def State.refuseScalar (s : State) (c : Issuer) (f : AccessFault) (ea : DWord) (order : Order) (scope : Scope) : State :=
  if f.1 == .tagMismatch && !s.mayIssue c.split.set.past [] order scope then s else s.scalarFault c f ea

/-- A load in a pass group is performed only from a read-only page and when every check passes (R94, R218). -/
def State.passLoadOk (s : State) (c : Issuer) (ea : DWord) (size : Nat) : Option Leaf :=
  match s.scalarCheck c ea size .load with
  | .ok l => if l.w then none else some l
  | .error _ => none

/-! Loads and stores (R99 to R101). -/

/-- The address of a scalar access: pair(sa) + sext16(imm16), modulo 2^64. -/
def Issuer.ea (c : Issuer) (sa : SReg) (imm : BitVec 16) : DWord := c.pair sa + sext64 imm

/-- A scalar load of n words at an address. -/
def scalarLoad (c : Issuer) (ea : DWord) (n : Nat) (sd : SReg) (order : Order) (scope : Scope) (atomic : Bool) (s : State) : Out State :=
  let go (l : Leaf) (s : State) : Out State :=
    let o := { c.op .load (l.pa ea) (4 * n) order scope l.sc with dest := .sregs sd n c.uid, atomic := atomic }
    let closing := closesEpoch atomic order l.sc
    if closing then s.atClose c.team (.scalar c.ref) fun s => s.issueScalar c ea l o (regsFrom sd n) atomic
    else s.issueScalar c ea l o (regsFrom sd n) false
  if c.inPass then
    match s.passLoadOk c ea (4 * n) with
    | some l => go l s
    | none => .next (s.passUndecided c)
  else
    match s.scalarCheck c ea (4 * n) (if atomic then .atomLoad else .load) with
    | .error f => .next (s.refuseScalar c f ea order scope)
    | .ok l => go l s

/-- A scalar store of n words at an address. -/
def scalarStore (c : Issuer) (ea : DWord) (n : Nat) (value : Nat) (order : Order) (scope : Scope) (atomic : Bool) (s : State) : Out State :=
  if c.inPass then .next (s.passEffects c)
  else
    match s.scalarCheck c ea (4 * n) (if atomic then .atomic else .store) with
    | .error f => .next (s.refuseScalar c f ea order scope)
    | .ok l =>
      let o := { c.op .store (l.pa ea) (4 * n) order scope l.sc with data := plainData (bytesOf (4 * n) value), atomic := atomic }
      if atomic then s.atClose c.team (.scalar c.ref) fun s => s.issueScalar c ea l o [] true
      else s.issueScalar c ea l o [] false

/-- The value of a register or pair. -/
def Issuer.value (c : Issuer) (r : SReg) (n : Nat) : Nat := if n = 2 then (c.pair r).toNat else (c.read r).toNat

/-- SLD: sd = mem32[ea]. -/
def execSld (sd sa : SReg) (imm : BitVec 16) (s : State) : Out State :=
  scalarIssue (.sld sd sa imm) (regsFrom sa 2) [sd] s fun c s => scalarLoad c (c.ea sa imm) 1 sd .plain .device false s

/-- SLD2: sd = mem32[ea], sd + 1 = mem32[ea + 4]. -/
def execSld2 (sd sa : SReg) (imm : BitVec 16) (s : State) : Out State :=
  scalarIssue (.sld2 sd sa imm) (regsFrom sa 2) (regsFrom sd 2) s fun c s => scalarLoad c (c.ea sa imm) 2 sd .plain .device false s

/-- SST: mem32[ea] = sd. -/
def execSst (sd sa : SReg) (imm : BitVec 16) (s : State) : Out State :=
  scalarIssue (.sst sd sa imm) (sd :: regsFrom sa 2) [] s fun c s =>
    scalarStore c (c.ea sa imm) 1 (c.value sd 1) .plain .device false s

/-- SST2: mem32[ea] = sd, mem32[ea + 4] = sd + 1. -/
def execSst2 (sd sa : SReg) (imm : BitVec 16) (s : State) : Out State :=
  scalarIssue (.sst2 sd sa imm) (regsFrom sd 2 ++ regsFrom sa 2) [] s fun c s =>
    scalarStore c (c.ea sa imm) 2 (c.value sd 2) .plain .device false s

/-! Atomics (R102 to R104). -/

/-- Words of a `satom` operand. -/
def SatomFields_words (f : SatomFields) : Nat := if f.size then 2 else 1

/-- The read-modify-write of a `satom` (R102, R103): `fadd` takes the f32 class of RMODE at issue. -/
def Issuer.rmw (c : Issuer) (aop : Aop) (sd sb : SReg) (n : Nat) : Rmw :=
  { aop := aop, b := c.value sb n, c := c.value sd n, rnd := rmodeRnd c.group.rmode 1, sat := rmodeSat c.group.rmode 1, f32 := false }

/-- SATOM (R102 to R104): a load and a store take their places as any load and write; every other operation is performed at the
home and sd waits for the old value. -/
def execSatom (sd sa sb : SReg) (f : SatomFields) (s : State) : Out State :=
  let n := SatomFields_words f
  let aop := (Aop.ofCode f.aop.toNat).getD .load
  let order := (Order.ofCode f.order.toNat).getD .relaxed
  let scope := (Scope.ofCode f.scope.toNat).getD .device
  let reads := regsFrom sa 2 ++ (match aop with
    | .load => []
    | .cas => regsFrom sb n ++ regsFrom sd n
    | .binc => regsFrom sd n
    | _ => regsFrom sb n)
  let writes := if aop == .store then [] else regsFrom sd n
  scalarIssue (.satom sd sa sb f) reads writes s fun c s =>
    let ea := c.pair sa
    match aop with
    | .load => scalarLoad c ea n sd order scope true s
    | .store => scalarStore c ea n (c.value sb n) order scope true s
    | _ =>
      if c.inPass then .next (s.passEffects c)
      else
        match s.scalarCheck c ea (4 * n) .atomic (·.atomicFmt aop) with
        | .error e => .next (s.refuseScalar c e ea order scope)
        | .ok l =>
          let o := { c.op (.rmw (c.rmw aop sd sb n)) (l.pa ea) (4 * n) order scope l.sc with dest := .sregs sd n c.uid, atomic := true }
          s.atClose c.team (.scalar c.ref) fun s => s.issueScalar c ea l o writes true

/-! Reads whose results an instruction, an engine command or a matrix loop waits for (R114, R184, R264, R293, R327). -/

/-- Why an access of one of them does not go on: it waits, its read has just issued, its sector under a key has failed its check word
twice, or it faults. -/
inductive Halt where
  | wait
  | issued (s : State)
  | bad (key : Nat) (o : MemOp)
  | fault (f : AccessFault) (a : DWord)
  deriving DecidableEq, Repr

/-- The read of an agent under a key, until its result is taken. -/
def State.reading (s : State) (agent : Agent) (uid key : Nat) : Option MemOp :=
  s.ops.find? fun o => o.agent == agent && o.uid == uid && o.dest == .engine key

/-- The result of the read under a key: the first attempt issues the operation that `issue` gives, with what the machine keeps of it,
later ones wait until it is satisfied (R256), and check what has come (R251). -/
def State.readBy (s : State) (agent : Agent) (uid key : Nat) (issue : Except Halt (MemOp × (State → State))) : Except Halt (List Byte) :=
  match s.reading agent uid key with
  | some x =>
    if x.result.isNone then .error .wait
    else if x.intact then .ok (x.carried.map (·.1))
    else if x.again then .error (.bad key x) else .error (.issued (s.refetch x))
  | none =>
    match issue with
    | .error h => .error h
    | .ok (o, used) => if s.canIssue [o] then .error (.issued (used (s.pushOp { o with dest := .engine key }))) else .error .wait

/-- The results that an agent's reads under some keys returned are taken: later reads are made afresh. -/
def State.takenOf (s : State) (agent : Agent) (uid : Nat) (keys : Nat → Bool) : State :=
  { s with ops := s.ops.map fun o =>
      match o.dest with
      | .engine k => if o.agent == agent && o.uid == uid && keys k then { o with dest := .none, done := o.result.isSome } else o
      | _ => o }
def State.taken (s : State) (agent : Agent) (uid : Nat) : State := s.takenOf agent uid fun _ => true

/-- A relaxed device-scope read of one sector or less by a split's instruction, through the checks of an access; the split's later
operations follow it. -/
def State.splitRead (s : State) (c : Issuer) (ea : DWord) (n : Nat) (fmtOk : Leaf → Bool) : Except Halt (List Byte) :=
  s.readBy c.agent c.uid ea.toNat (
    match s.checkAccess (some c.core) c.asid ea n .load fmtOk with
    | .error f => .error (.fault f ea)
    | .ok l => .ok (c.op .load (l.pa ea) n .relaxed .device l.sc, fun t =>
        (t.usedLeaf (some c.core) c.asid ea l).modSplit c.ref fun p => p.modSet fun e => { e with past := unite e.past [s.fresh] }))

/-- Sectors read by a split's instruction in ascending order, one operation each, each behind the one before. -/
def State.splitReads (s : State) (c : Issuer) (ea : DWord) (sectors : Nat) (fmtOk : Leaf → Bool) : Except Halt (List Byte) :=
  (List.range sectors).foldl (fun acc k =>
    match acc with
    | .error h => .error h
    | .ok bs =>
      match s.splitRead c (ea + BitVec.ofNat 64 (32 * k)) 32 fmtOk with
      | .error h => .error h
      | .ok more => .ok (bs ++ more)) (.ok [])

/-- The split takes what its instruction read. -/
def State.splitTaken (s : State) (c : Issuer) : State := s.taken c.agent c.uid

/-- What an instruction does when a read of it does not go on; `bad` is its fault. -/
def State.splitHalt (s : State) (c : Issuer) (bad : State → AccessFault → DWord → State) : Halt → State
  | .wait => s
  | .issued s' => s'
  | .fault f a => bad (s.splitTaken c) f a
  | .bad key o => bad ((s.splitTaken c).mismatch o) (.uncorrectableReg, 2) (BitVec.ofNat 64 key)

end Sys2Proof.Machine
end

