-- ==== Sys2Proof/Machine/Control.lean ====
section
/-! DEFINITION. Control registers (R16, R35, R49, R59, R111 to R115, R244, R245) and `trap` (R116). -/

namespace Sys2Proof.Machine

/-- A group changed, and the split at the next instruction. -/
def State.groupRetire (s : State) (c : Issuer) (f : Group → Group) : State := (s.modGroup c.team.id c.group.gid f).advance c

/-- MTC to RMODE, FTZM and LBASE (R112): bits laid down as zero are ignored. -/
def execMtc (sa : SReg) (r : MtcReg) (s : State) : Out State :=
  scalarIssue (.mtc sa r) [sa] [] s fun c s =>
    let v := c.read sa
    .next (s.groupRetire c fun g =>
      match r with
      | .rmode => { g with rmode := rmodeWrite v }
      | .ftzm => { g with ftzm := v &&& 0x3FFF }
      | .lbase => { g with lbase := v &&& 0xFFFFFFF0 })

/-- MTC to EXEC (R16): the value ANDed with OWN; UNDECIDED lanes of a pass never return (R202). -/
def execMtcExec (sa : SReg) (s : State) : Out State :=
  scalarIssue (.mtcExec sa) [sa] [] s fun c s =>
    let gone : Mask := match c.group.pass with | some p => p.undecided | none => 0
    .next (s.groupRetire c fun g => g.modSplit c.ref.split fun p => p.modSet fun e => { e with exec := c.read sa &&& e.own &&& ~~~gone })

/-- A matrix loop names a tile: its accumulator tiles and its two staging tiles (R176, R180). -/
def Loop.names (l : Loop) (tile : Nat) : Bool := (l.tc ≤ tile && tile < l.tc + l.shadow.length) || tile == l.ta || tile == l.ta + 1

/-- A loop of the team that names a tile is in flight. -/
def State.tileBusy (s : State) (team tile : Nat) : Bool := s.loops.any fun l => l.team == team && l.names tile

/-- MTC to TCFGn (R47, R112, R113): waits for the loops that name the tile. -/
def execMtcTcfg (sa : SReg) (n : BitVec 4) (s : State) : Out State :=
  scalarIssue (.mtcTcfg sa n) [sa] [] s fun c s =>
    if c.launch.record.tiles ≤ n.toNat then .next (s.scalarFault c (.illegalEncoding, 0) 0)
    else if c.inPass then .next (s.passEffects c)
    else if s.tileBusy c.team.id n.toNat then .next s
    else .next ((s.modTeam c.team.id fun t => { t with tcfg := vset t.tcfg n.toNat (c.read sa &&& 0x3F1F) }).advance c)

/-- The fields of a descriptor (R244). -/
structure Desc where
  base   : Nat
  tag    : Nat
  size   : Nat
  stride : Nat
  zeros  : Bool
  ro     : Bool
  deriving DecidableEq, Repr

def descOf (w : QWord) : Desc :=
  let v := w.toNat
  { base := bits v 56 0, tag := bits v 60 57, size := bits v 95 64, stride := bits v 111 96, zeros := bits v 113 112 == 1, ro := bit v 114 }

/-- Validation of a descriptor (R245). -/
def descValid (w : QWord) : Bool :=
  let v := w.toNat
  bits v 63 61 == 0 && bits v 127 115 == 0 && bits v 113 112 < 2 && bits v 56 0 + bits v 95 64 ≤ 2 ^ 57

/-- The clauses that the split has run have issued, and their operations that use a descriptor are performed (R114). -/
def State.descFree (s : State) (c : Issuer) (n : BitVec 4) : Bool :=
  let cids := c.split.set.ran
  !(cids.any s.clausePending) && s.ops.all fun o =>
    !(o.bd == n && match o.cid with | some k => cids.contains k | none => false) || o.opPerformed o.effScope

/-- MTC to BDn (R114, R245): waits, reads 16 bytes, validates; a fault leaves the descriptor as it was. In a pass group a read or
a descriptor that would fault makes the active lanes UNDECIDED (R217). -/
def execMtcBd (sa : SReg) (n : BitVec 4) (s : State) : Out State :=
  scalarIssue (.mtcBd sa n) (regsFrom sa 2) [] s fun c s =>
    let ea := c.pair sa
    let bad (s : State) (f : AccessFault) : State := if c.inPass then s.passUndecided c else s.scalarFault c f ea
    if !s.descFree c n then .next s
    else if ea.toNat % 16 ≠ 0 then .next (bad s (.alignment, 0))
    else
      match s.splitRead c ea 16 Leaf.plainFmt with
      | .error h => .next (s.splitHalt c (fun s f _ => bad s f) h)
      | .ok bs =>
        let w : QWord := BitVec.ofNat 128 (leNat bs)
        let s := s.splitTaken c
        if descValid w then .next (s.groupRetire c fun g => { g with bd := vset g.bd n.toNat (some w) })
        else .next (bad s (.bounds, 0))

/-- MTC to QDEPn (R59): refused, with QUEUE_CONFIG, for a depth above 8, set upper bits, a queue that is not empty, or a budget
exceeded. -/
def execMtcQdep (sa : SReg) (n : BitVec 4) (s : State) : Out State :=
  scalarIssue (.mtcQdep sa n) [sa] [] s fun c s =>
    let d := (c.read sa).toNat
    let q := queueOf c.group n.toNat
    let sum := c.group.q.toList.foldl (fun acc x => acc + x.depth) 0
    if 8 < d || !q.entries.isEmpty || c.group.qbud < sum - q.depth + d then .next (s.scalarFault c (.queueConfig, 0) 0)
    else .next (s.groupRetire c fun g => { g with q := vmod g.q n.toNat fun q => { q with depth := d } })

/-- A register of a team that no group has written. -/
def GReg.initial : GReg := { cur := 0, cycle := 0, gid := 32 }

/-- A write takes effect, unless the write of a lower GROUPID in its cycle already has, which comes after it (R35). -/
def GReg.write (r : GReg) (w : GWrite) : GReg :=
  if r.cycle = w.cycle && r.gid < w.gid then r else { cur := w.value, cycle := w.cycle, gid := w.gid }

/-- A write joins those that have not taken effect: before a lower GROUPID's to its register in its cycle, else last (R35). -/
def insertWrite (w : GWrite) : List GWrite → List GWrite
  | [] => [w]
  | x :: xs => if x.reg = w.reg && x.cycle = w.cycle && x.gid < w.gid then w :: x :: xs else x :: insertWrite w xs

/-- The writes that must take effect: those that `due` names, and what precedes one of them in its group or at its register. -/
def forced (due : GWrite → Bool) : List GWrite → List GWrite
  | [] => []
  | w :: ws =>
    let rest := forced due ws
    if due w || rest.any fun x => x.reg == w.reg || x.gid == w.gid then w :: rest else rest

/-- Writes take effect in their order: those that must, and those that may and do, each unless an earlier write of its group or to its
register is still to come. The team's registers, and the writes that remain. -/
def settleWrites (must : List GWrite) (free : Nat → Bool) (t : Team) : Team :=
  let r := t.gpend.zipIdx.foldl (fun (acc : Vector GReg 8 × List GWrite) x =>
    let w := x.1
    if (must.contains w || free x.2) && !(acc.2.any fun y => y.reg == w.reg || y.gid == w.gid) then
      (vmod acc.1 w.reg (·.write w), acc.2)
    else (acc.1, acc.2 ++ [w])) (t.gregs, [])
  { t with gregs := r.1, gpend := r.2 }

/-- The team as a group's read at a core cycle finds it (R35): every write that is two cycles old and every write of the group has
taken effect, other writes may have. -/
def Team.readAt (t : Team) (now gid choice : Nat) : Team :=
  settleWrites (forced (fun w => w.cycle + 2 ≤ now || w.gid == gid) t.gpend) (Config.sharedRead choice) t

/-- The team with every write in effect. -/
def Team.settled (t : Team) : Team := settleWrites t.gpend (fun _ => true) t

/-- A team-shared register written by a group at a core cycle. -/
def Team.writeShared (t : Team) (n : Nat) (v : Word) (now gid : Nat) : Team :=
  { t with gpend := insertWrite { reg := n, value := v, cycle := now, gid := gid } t.gpend }

/-- MTC to Gn (R35). -/
def execMtcG (sa : SReg) (n : BitVec 3) (s : State) : Out State :=
  scalarIssue (.mtcG sa n) [sa] [] s fun c s =>
    if c.inPass then .next (s.passEffects c)
    else
      .next ((s.modTeam c.team.id fun t => t.writeShared n.toNat (c.read sa) (s.cycleOf c.core) c.group.gid).advance c)

/-- MTC to FABW (R113): sent to the IOD. -/
def execMtcFabw (sa : SReg) (s : State) : Out State :=
  scalarIssue (.mtcFabw sa) [sa] [] s fun c s =>
    if c.inPass then .next (s.passEffects c)
    else
      let a := s.asid c.asid
      .next ((s.setAsid { a with fabwIn := a.fabwIn ++ [c.read sa &&& 0xFFFF] }).advance c)

/-- FABW_APPLY (R113, R374): the IOD applies the oldest value sent for an ASID. -/
def execFabwApply (asid : Nat) (s : State) : Out State :=
  let a := s.asid asid
  match a.fabwIn with
  | [] => .next s
  | w :: ws => .next (s.setAsid { a with fabw := w, fabwIn := ws })

/-- BPMODE and BPLEVEL of a group (R112). -/
def Group.bpmode (g : Group) : Word := if g.inPass then 1 else 0
def Group.bplevel (g : Group) : Word :=
  match g.pass with
  | some p => BitVec.ofNat 32 p.level
  | none => BitVec.ofNat 32 (4 * g.outcome + g.level)

/-- What MFC reads (R49, R112, R115). -/
def State.controlRead (s : State) (c : Issuer) (r : Nat) : Word :=
  let t := c.launch.record.coord c.team.index
  if r = 0 then c.exec
  else if r = 1 then c.group.rmode
  else if r = 2 then c.group.ftzm
  else if r = 3 then c.group.lbase
  else if r = 4 then BitVec.ofNat 32 c.ref.split.val
  else if r = 5 then BitVec.ofNat 32 c.group.gid
  else if r = 6 then BitVec.ofNat 32 t.1
  else if r = 7 then BitVec.ofNat 32 t.2.1
  else if r = 8 then BitVec.ofNat 32 t.2.2
  else if r < 0x20 then vget c.team.tcfg (r - 0x10) 0
  else if r < 0x40 then BitVec.ofNat 32 (queueOf c.group (r - 0x30)).depth
  else if r < 0x48 then (vget (c.team.readAt (s.cycleOf c.core) c.group.gid s.choice).gregs (r - 0x40) GReg.initial).cur
  else if r = 0x60 then (s.asid c.asid).fabw
  else if r = 0x70 then BitVec.ofNat 32 (s.cycleOf c.core)
  else if r = 0x80 then c.group.bpmode
  else c.group.bplevel

/-- MFC (R111, R115): a tile beyond the team's raises ILLEGAL_ENCODING (R47), GROUPID in a pass group INTERVAL_MODE (R94). -/
def execMfc (sd : SReg) (r : BitVec 12) (s : State) : Out State :=
  scalarIssue (.mfc sd r) [] [sd] s fun c s =>
    let n := r.toNat
    if c.inPass && n = 5 then .next (s.scalarFault c (.intervalMode, 0) 0)
    else if 0x10 ≤ n && n < 0x20 && c.launch.record.tiles ≤ n - 0x10 then .next (s.scalarFault c (.illegalEncoding, 0) 0)
    else
      let shared := 0x40 ≤ n && n < 0x48
      let s' := if shared then s.modTeam c.team.id fun t => t.readAt (s.cycleOf c.core) c.group.gid s.choice else s
      .next ({ s' with choice := s.choice + 1 }.writeRetire c sd (s.controlRead c n))

/-- TRAP (R116): raises USER_TRAP with its code; in a pass group it is not taken and the active lanes become UNDECIDED (R94). -/
def execTrap (code : BitVec 16) (s : State) : Out State :=
  scalarIssue (.trap code) [] [] s fun c s =>
    if c.inPass then .next (s.passUndecided c)
    else
      let t := { s.siteTrap c.team c.group c.ref.split.val c.pc 0 (.userTrap, 0) 0 with ucode := code.toNat, behind := s.undelivered c.uid }
      .next (s.takeTrap t c.team.id c.group.gid (.split c.ref c.uid))

end Sys2Proof.Machine
end

