-- ==== Sys2Proof/Machine/Pass.lean ====
section
/-! DEFINITION. The start of groups (R9, R15, R46, R59, R169, R201, R206) and the bounds pass: judgement, quartering, the outcome
map and the release of the team (R203 to R207). -/

namespace Sys2Proof.Machine

/-! Groups at their start. -/

/-- A vector register at group start. -/
def VReg.zero : VReg := { phys := Lanes.all 0, map := LMap.id }
/-- A wide register at group start (R46). -/
def WReg.zero : WReg := { phys := Lanes.all { f := 0, e := 0, nonfin := false, loss := false }, map := LMap.id }

/-- The lane set that owns a group's lanes at its start (R15). -/
def firstSet (uid : Nat) (entry : DWord) (m : Mask) : LaneSet :=
  { uid := uid, pc := entry, own := m, exec := m, bank := Vector.replicate 8 0, past := [], ran := [], order := [], after := [], widen := [] }

/-- s16 to s23 hold the launch arguments, low words first (R9). -/
def argRegs (r : LaunchRec) : Vector Word 24 :=
  Vector.ofFn fun i => if i.val < 16 then 0 else wordAt (vget r.args ((i.val - 16) / 2) 0).toNat (i.val % 2)

/-- The entry point of a team's groups (R310). -/
def LaunchRec.entryOf (r : LaunchRec) (stage : Nat) : DWord := match r.stages[stage]? with | some j => j.entry | none => r.entry

/-- A group at its start, with split 0 owning its lanes; a group without lanes has ended. -/
def freshGroup (r : LaunchRec) (t : Team) (gid uid nregs : Nat) (held live : Mask) : Group :=
  { gid := gid, held := held
    splits := if live = 0 then Vector.replicate 4 none else
      Vector.ofFn fun k => if k.val = 0 then
        some { sid := uid, set := firstSet uid (r.entryOf t.stage) live, stack := [], overflow := [], status := .running } else none
    last := 3, clauses := Vector.replicate 4 [], s := argRegs r, busy := [], tokens := [], v := List.replicate nregs VReg.zero
    q := Vector.replicate 16 { depth := 0, entries := [] }, qbud := r.qbud, p := Vector.replicate 8 0, w := Vector.replicate 8 WReg.zero
    k := Vector.replicate 12 0, bd := Vector.replicate 15 none, rmode := r.rmode, ftzm := r.ftzm, lbase := r.lcode.truncate 32
    lhi := r.lcode.extractLsb' 32 32, gen := Lanes.gen fun i => seedGen r.seed (r.linear t.index) gid i.val, watch := 0
    slot := 0, holds := none, engines := Vector.replicate 8 [], ended := live = 0, abandoned := false, outcome := 0, level := 0
    pass := none }

/-- Vector registers with the first three holding coordinates, by logical lane (R201). -/
def withCoords (v : List VReg) (f : Nat → Fin 32 → Nat) : List VReg :=
  v.mapIdx fun j r => { r with phys := if j < 3 then Lanes.gen (fun i => BitVec.ofNat 32 (f j i)) else r.phys }

/-- The coordinate of an element in a dimension (R201): its group's level-1 coordinate times the level-0 extent, plus its lane's. -/
def LaunchRec.elementCoord (r : LaunchRec) (gid : Nat) (dim : Nat) (i : Fin 32) : Nat :=
  let l := r.level 0
  let g := r.level 1
  match dim with
  | 0 => gid % g.x * l.x + i.val % l.x
  | 1 => gid / g.x % g.y * l.y + i.val / l.x % l.y
  | _ => gid / (g.x * g.y) * l.z + i.val / (l.x * l.y)

/-- An element group of a team at its start. -/
def elementGroup (r : LaunchRec) (t : Team) (gid uid : Nat) (live : Mask) : Group :=
  let g := freshGroup r t gid uid r.vregs r.heldLanes live
  if r.bpass then { g with v := withCoords g.v fun d i => if r.heldLanes.has i then r.elementCoord gid d i else 0 } else g

/-- The sub-tile of a group at level 0: the coordinates of its lanes. -/
def LaunchRec.tile0 (r : LaunchRec) (gid : Nat) : SubTile :=
  let l := r.level 0
  let lo (d : Nat) : Nat := r.elementCoord gid d 0
  { group := gid, sub := 0, x := (lo 0, lo 0 + l.x - 1), y := (lo 1, lo 1 + l.y - 1), z := (lo 2, lo 2 + l.z - 1) }

/-- A pass group that stands for sub-tiles (R201, R204, R206): all 32 lanes are held at level 0, one for each sub-tile below it, and a
lane without a sub-tile is judged nowhere; pairs 0 to 2 hold the ranges, tagged n32; predicate fields 1 to 3 are decided false. -/
def passGroup (r : LaunchRec) (t : Team) (gid uid level : Nat) (tiles : List SubTile) : Group :=
  let m := Mask.gen fun i => level = 0 || i.val < tiles.length
  let g := freshGroup r t gid uid (2 * r.vregs) m m
  let range (d : Nat) (i : Fin 32) : Nat × Nat :=
    match tiles[i.val]? with
    | some q => if d = 0 then q.x else if d = 1 then q.y else q.z
    | none => (0, 0)
  let v := g.v.mapIdx fun j x =>
    { x with phys := if j < 6 then Lanes.gen (fun i =>
        BitVec.ofNat 32 (if j % 2 = 0 then (range (j / 2) i).1 else (range (j / 2) i).2)) else x.phys }
  { g with
    v := v
    p := Vector.ofFn fun j => if j.val % 2 = 1 && j.val != 1 then BitVec.allOnes 32 else 0
    pass := some { level := level, tiles := tiles, tags := (List.range r.vregs).map fun n => Lanes.all (if n < 3 then 1 else 19)
                   undecided := 0, effects := 0, reached := 0, issued := 0, proofs := [] } }

/-! Shares of a core (R59, R206, R320). -/

/-- The register file share of a team. -/
def LaunchRec.share (r : LaunchRec) : Nat :=
  let e := r.groups * (r.vregs + r.qbud) * 128
  let p := if r.bpass then (2 * r.vregs + r.qbud) * 128 else 0
  if e < p then p else e

/-! Judgement and quartering (R203, R204). -/

/-- The codes of an ended pass group's lanes: 1 SKIP, 2 PATH, 3 UNDECIDED. -/
def PassInfo.code (p : PassInfo) (i : Fin 32) : Nat :=
  if p.undecided.has i || !p.reached.has i then 3 else if p.effects.has i then 2 else 1

/-- A team with a pass group judged. -/
def Team.judge (t : Team) (gid : Nat) : Team :=
  match t.group? gid, t.pass with
  | some g, some ps =>
    match g.pass with
    | none => t
    | some p =>
      let rows := (List.finRange 32).filterMap fun i => (p.tiles[i.val]?).map fun q => (i, q, p.code i)
      { t with pass := some { ps with
        judged := ps.judged ++ rows.map fun r => (p.level, r.2.1, r.2.2)
        proofs := ps.proofs ++ (rows.filter fun r => r.2.2 == 2).map fun r =>
          (r.2.1.group, p.level, r.2.1.sub, (p.proofs.filter fun x => x.1 == r.1.val).map (·.2)) } }
  | _, _ => t

/-- The quarters of a sub-tile: rows halved with the smaller y first, columns with the smaller x first. -/
def SubTile.quarters (q : SubTile) : List SubTile :=
  let half (r : Nat × Nat) : (Nat × Nat) × (Nat × Nat) :=
    let n := (r.2 - r.1 + 1) / 2
    ((r.1, r.1 + n - 1), (r.1 + n, r.2))
  let y := half q.y
  let x := half q.x
  [{ q with sub := 4 * q.sub, y := y.1, x := x.1 }, { q with sub := 4 * q.sub + 1, y := y.1, x := x.2 },
   { q with sub := 4 * q.sub + 2, y := y.2, x := x.1 }, { q with sub := 4 * q.sub + 3, y := y.2, x := x.2 }]

/-- Ascending order of (group, sub-tile). -/
def insertTile (q : SubTile) : List SubTile → List SubTile
  | [] => [q]
  | p :: ps => if q.group < p.group || (q.group == p.group && q.sub < p.sub) then q :: p :: ps else p :: insertTile q ps

/-- UNDECIDED sub-tiles of a level. -/
def PassState.undecided (p : PassState) (level : Nat) : List SubTile :=
  ((p.judged.filter fun j => j.1 == level && j.2.2 == 3).map (·.2.1)).foldr insertTile []

/-- The outcome map of a team (R203): one region per level, two bits a code. -/
def PassState.map (p : PassState) (depth : Nat) : List Byte :=
  (List.range (depth + 1)).flatMap fun l =>
    let code (k : Nat) : Nat :=
      match p.judged.find? fun j => j.1 == l && j.2.1.group == k / 4 ^ l && j.2.1.sub == k % 4 ^ l with
      | some j => j.2.2
      | none => 0
    (List.range (8 * 4 ^ l)).map fun b => BitVec.ofNat 8 (code (4 * b) + 4 * code (4 * b + 1) + 16 * code (4 * b + 2) + 64 * code (4 * b + 3))

/-- The bytes that every team's map takes. -/
def mapBytes (depth : Nat) : Nat := (List.range (depth + 1)).foldl (fun n l => n + 8 * 4 ^ l) 0

/-- Relaxed device-scope stores by the device, sector by sector: the operations, or the first fault; any page that the map may not lie
in, one without W too, is FORMAT_ACCESS (R203). -/
def State.mapStores (s : State) (asid : Nat) (ptr : DWord) (bs : List Byte) : Except (AccessFault × DWord) (State × List Nat) :=
  (sectorPieces ptr.toNat bs.length bs.length).foldl (fun acc p =>
    match acc with
    | .error e => .error e
    | .ok (s, ids) =>
      let a := ptr + BitVec.ofNat 64 p.1
      match s.checkAccess none asid a p.2 .store Leaf.plainFmt with
      | .error e => .error (if e.1 == .permission then (.formatAccess, 0) else e, a)
      | .ok l =>
        let o := { blankOp .device asid .store .mem (l.pa a) p.2 with
          data := plainData ((bs.drop p.1).take p.2), order := .relaxed, scope := .device, done := true, sc := l.sc }
        .ok (s.pushOp o, ids ++ [s.fresh])) (.ok (s, []))

/-- A trap that no group's instruction raised: the team's own. -/
def State.teamTrap (s : State) (t : Team) (f : AccessFault) (addr : DWord) (src : Nat) : Trap :=
  { asid := s.asidOf t, launch := t.launch, cause := f.1, sub := f.2, ucode := 0, addr := addr, spc := 0, lpc := 0
    team := match s.launchOf t with | some l => l.record.coord t.index | none => (t.index, 0, 0)
    stage := t.stage, group := 0, split := 0, lane := none, bpm := true, held := false, src := src, node := 0, reg := 0, behind := [] }

/-- The team whose outcome map is being written releases its twin with the same map (R208). -/
def State.shareMap (s : State) (t : Team) : State :=
  match t.red with
  | some r => s.modTeam r.twin fun u => { u with pass := t.pass }
  | none => s

/-- Every group of a team whose passes are over was judged SKIP (R208). -/
def PassState.allSkip (p : PassState) : Bool := p.judged.all fun j => j.2.2 == 1 || (j.2.2 == 3 && p.judged.any fun k =>
  k.1 == j.1 + 1 && k.2.1.group == j.2.1.group && k.2.1.sub / 4 == j.2.1.sub)

/-- The outcome map is written once the last pass has exited (R203): a TRANSLATION is held, any other fault is the team's. -/
def State.writeMap (s : State) (team : Nat) : State :=
  match s.team? team with
  | none => s
  | some t =>
    match t.pass, s.launchOf t with
    | some p, some l =>
      let r := l.record
      let ptr := r.omap + BitVec.ofNat 64 (r.linear t.index * mapBytes r.depth)
      match s.mapStores l.asid ptr (p.map r.depth) with
      | .error (f, a) =>
        s.takeFault (s.teamTrap t f a 5) team 0 (.outcomeMap team)
      | .ok (s, ids) =>
        let s := s.modTeam team fun t => { t with pass := t.pass.map fun p => { p with mapDone := true, mapOps := ids } }
        let s := match s.team? team with | some t => s.shareMap t | none => s
        if p.allSkip then (s.copies team).foldl (fun s t => s.teamOver t) s else s
    | _, _ => s

/-- A pass group has ended (R203, R204): its lanes are judged; after the last group of a level the undecided sub-tiles are
quartered, and after the last level the map is written. -/
def State.passOver (s : State) (team gid : Nat) : State :=
  let s := (s.modTeam team fun t => t.judge gid).closeGroup team gid
  match s.team? team with
  | none => s
  | some t =>
    match t.pass, s.launchOf t with
    | some p, some l =>
      if !p.todo.isEmpty || !(t.groups.all (·.ended)) then s
      else
        let next := (p.undecided p.level).flatMap SubTile.quarters
        if p.level < l.record.depth && !next.isEmpty then
          s.modTeam team fun t => { t with groups := [], pass := t.pass.map fun p => { p with level := p.level + 1, todo := next } }
        else (s.modTeam team fun t => { t with groups := [] }).writeMap team
    | _, _ => s

/-- PASS_INSTRUCTION_LIMIT (R207): a pass group that has issued 65,536 scalar instructions ends at once; its lanes that have not
reached `exit` are UNDECIDED. -/
def execPassInstructionLimit (team group : Nat) (s : State) : Out State :=
  match s.group? team group with
  | none => .next s
  | some g =>
    match g.pass with
    | none => .next s
    | some _ => if g.ended || !g.spent then .next s else .next (s.passOver team group)

/-- PASS_GROUP_START (R204, R206): the next 32 sub-tiles of the level, while none of its pass groups runs or the team's share of
the core has room. -/
def execPassGroupStart (team : Nat) (s : State) : Out State :=
  match s.team? team with
  | none => .next s
  | some t =>
    match t.pass, s.launchOf t with
    | some p, some l =>
      let live := (t.groups.filter fun g => !g.ended).length
      if p.todo.isEmpty || t.state != .resident || s.teamStopped t l.asid (.event (.passGroupStart team)) ||
          (live != 0 && l.record.share < (live + 1) * (2 * l.record.vregs + l.record.qbud) * 128) then .next s
      else
        let g := passGroup l.record t t.groups.length s.fresh p.level (p.todo.take 32)
        .next (({ s with fresh := s.fresh + 1 } : State).modTeam team fun t =>
          { t with groups := t.groups ++ [g], pass := t.pass.map fun p => { p with todo := p.todo.drop 32 } })
    | _, _ => .next s

/-! Release (R205). -/

/-- The judged sub-tiles of a group that no deeper level replaces. -/
def PassState.leaves (p : PassState) (gid depth : Nat) : List (Nat × SubTile × Nat) :=
  p.judged.filter fun j => j.2.1.group == gid && (j.2.2 != 3 || j.1 == depth ||
    !(p.judged.any fun k => k.1 == j.1 + 1 && k.2.1.group == gid && k.2.1.sub / 4 == j.2.1.sub))

/-- A sub-tile holds an element's coordinates. -/
def SubTile.holds (q : SubTile) (r : LaunchRec) (gid : Nat) (i : Fin 32) : Bool :=
  let in_ (d : Nat) (x : Nat × Nat) : Bool := x.1 ≤ r.elementCoord gid d i && r.elementCoord gid d i ≤ x.2
  q.group == gid && in_ 0 q.x && in_ 1 q.y && in_ 2 q.z

/-- An element group released by the passes: lanes of SKIP sub-tiles retired, OUTCOME and LEVEL. -/
def releasedGroup (r : LaunchRec) (t : Team) (p : PassState) (gid uid : Nat) : Group :=
  let ls := p.leaves gid r.depth
  let run := ls.filter fun j => j.2.2 != 1
  let live := Mask.gen fun i => r.heldLanes.has i && run.any fun j => j.2.1.holds r gid i
  { elementGroup r t gid uid live with
    outcome := if run.all fun j => j.2.2 == 2 then 1 else 2
    level := ls.foldl (fun m j => if m < j.1 then j.1 else m) 0 }

end Sys2Proof.Machine
end

