-- ==== Sys2Proof/Machine/LaneMem.lean ====
section
/-! DEFINITION. Lane loads, stores, atomics, tags, prefetch and queue counts (R197, R240 to R246, R267 to R282), and their behaviour
in a pass group (R217 to R221). -/

namespace Sys2Proof.Machine

/-! Packed pages (R240, R241). -/

/-- The page formats whose elements are converted. -/
def isPacked (fmt : Nat) : Bool := [0x06, 0x07, 0x08, 0x0C, 0x0D, 0x0E, 0x0F].contains fmt
def isFp6 (fmt : Nat) : Bool := fmt == 0x06 || fmt == 0x07

/-- Bytes of the lane form of W bytes of a packed page. -/
def formBytes (fmt w : Nat) : Nat := if isFp6 fmt then 2 * w else 8 * w / fmtWidth fmt

/-- The data registers that a lane form needs. -/
def formRegs (fmt w : Nat) : Nat := let n := formBytes fmt w / 4; if n = 0 then 1 else n

/-- Runs of bytes of the page that an access of W bytes from byte `off` of its unit touches, relative to its address: for FP6 those
of the 4-bit plane and those of the 2-bit plane. -/
def formPieces (fmt off w : Nat) : List (Nat × Nat) :=
  if isFp6 fmt then [(0, w), (64 + off / 2 - off, if w < 2 then 1 else w / 2)] else [(0, w)]

/-- The place of element j of a packed access in its pieces: piece, bit, width, and the bit of the code that it holds. -/
def formBits (fmt off j : Nat) : List (Nat × Nat × Nat × Nat) :=
  if isFp6 fmt then [(0, 4 * j, 4, 2), (1, 2 * (2 * off % 4 + j), 2, 0)] else [(0, fmtWidth fmt * j, fmtWidth fmt, 0)]

/-- One element of a page as a byte of the lane form. -/
def formOf (e : Elem) (code : Nat) : Nat :=
  match e with
  | .flt m => FFmt.e4m3.round 0 false 0 (m.decode code)
  | .sint w => wrap 8 (signed w code)
  | .uint _ => code
  | .b1 => if code % 2 = 0 then 1 else 0xFF

/-- The lane form that a packed load of the bytes of its operation gives. -/
def unpackForm (fmt off w : Nat) (bs : List Byte) : Nat :=
  let e := (fmtElem fmt).getD (.uint 8)
  let run (p : Nat × Nat) : Nat := leNat ((bs.drop p.1).take p.2)
  let runs := (formPieces fmt off w).map run
  (List.range (formBytes fmt w)).foldl (fun acc j =>
    let code := (formBits fmt off j).foldl (fun acc q =>
      acc + (runs[q.1]?).getD 0 / 2 ^ q.2.1 % 2 ^ q.2.2.1 * 2 ^ q.2.2.2) 0
    acc + formOf e code % 256 * 2 ^ (8 * j)) 0

/-- One byte of the lane form as an element of the page: rounded from e4m3 with the captured RMODE and FTZM, or an integer's low
bits, clamped under saturation (R166 to R168). -/
def LaneCtx.formTo (c : LaneCtx) (e : Elem) (b : Nat) (g : DWord) : Nat × DWord :=
  match e with
  | .flt m =>
    c.roundTo m (rmodeRnd c.clause.rmode m.cls) (rmodeSat c.clause.rmode m.cls) (FFmt.e4m3.decodeIn (c.fin .e4m3) b) g
  | .b1 => (if b < 128 then 0 else 1, g)
  | .sint w =>
    let v := signed 8 b
    (wrap w (if rmodeSat c.clause.rmode 7 then clampInt (-(2 ^ (w - 1) : Nat)) ((2 ^ (w - 1) : Nat) - 1) v else v), g)
  | .uint w => ((if rmodeSat c.clause.rmode 7 && 2 ^ w ≤ b then 2 ^ w - 1 else b % 2 ^ w), g)

/-- Masked bytes of a number and of its mask. -/
def maskedBytes (n v k : Nat) : List (Byte × Byte) := (natLe n v).zip (natLe n k)

/-- What a packed store writes: per piece its offset, and its masked bytes. -/
def LaneCtx.packForm (c : LaneCtx) (fmt off w v : Nat) (g : DWord) : List (Nat × List (Byte × Byte)) × DWord :=
  let e := (fmtElem fmt).getD (.uint 8)
  let codes := foldElems 8 (formBytes fmt w) (fun j g => c.formTo e (elemAt 8 v j) g) g
  let bitsOf (piece : Nat) (f : Nat → Nat × Nat × Nat × Nat → Nat) : Nat :=
    (List.range (formBytes fmt w)).foldl (fun acc j =>
      (formBits fmt off j).foldl (fun acc q => if q.1 == piece then acc + f j q else acc) acc) 0
  ((formPieces fmt off w).mapIdx fun i p =>
    (p.1, maskedBytes p.2 (bitsOf i fun j q => elemAt 8 codes.1 j / 2 ^ q.2.2.2 % 2 ^ q.2.2.1 * 2 ^ q.2.1)
      (bitsOf i fun _ q => (2 ^ q.2.2.1 - 1) * 2 ^ q.2.1)), codes.2)

/-! The checks of an access (R243, R246, R267 to R269). -/

/-- How an instruction forms its addresses (R267). -/
inductive Reach where
  | flat | descr | scratch
  deriving DecidableEq, Repr

/-- A lane memory instruction as its checks see it: addresses, well form, size, access, atomic operation, whether it is an access to
tags, and the data field with its registers. -/
structure MemForm where
  reach  : Reach
  well   : Bool
  size   : Nat
  access : Access
  aop    : Option Aop
  tags   : Bool
  data   : BitVec 7
  deriving DecidableEq, Repr

/-- What an active lane reaches once its checks have passed: a page, the scratchpad, or nothing (R246). -/
inductive Target where
  | page (l : Leaf)
  | scratch
  | dropped
  deriving DecidableEq, Repr

structure LaneAccess where
  lane   : Fin 32
  ptr    : DWord
  target : Target
  deriving DecidableEq, Repr

/-- The byte of its unit at which an access to an FP6 page begins. -/
def Leaf.unitOff (l : Leaf) (ptr : DWord) : Nat := bits ptr.toNat 56 0 % l.size % 96

/-- A packed access is possible (R241): the size of its lane form, its registers, and for FP6 its place in the unit. -/
def formOk (l : Leaf) (ptr : DWord) (w : Nat) (data : BitVec 7) (nv : Nat) (sx : Bool) : Bool :=
  let n := formRegs l.fmt w
  let d := data.toNat
  let o := bits ptr.toNat 56 0 % l.size
  !sx && formBytes l.fmt w ≤ 32 &&
  (if d < 96 then d % n == 0 && d + n ≤ nv else if d < 112 then n == 1 else d % n == 0) &&
  (!isFp6 l.fmt || (o % 96 + w ≤ 64 && o / 96 * 96 + 96 ≤ l.size))

/-- FORMAT_ACCESS for a lane access (R240, R241, R267, R278, R280). -/
def LaneCtx.fmtOk (c : LaneCtx) (m : MemForm) (sx : Bool) (ptr : DWord) (l : Leaf) : Bool :=
  let nv := if c.inPass && 48 < c.launch.record.vregs then 48 else c.launch.record.vregs
  if m.tags then l.region == some 0
  else
    !l.cmp && !fmtScaled l.fmt && l.fmt ≤ 0x20 && (!m.well || l.region == some 2) &&
    (match m.aop with
     | none => !isPacked l.fmt || formOk l ptr m.size m.data nv sx
     | some o => !isPacked l.fmt &&
       (l.region != some 3 || match o with | .load | .store | .swap | .cas | .add => true | _ => false))

/-- Runs of bytes of an access, for its tags (R242). -/
def Leaf.touched (l : Leaf) (m : MemForm) (ptr : DWord) : List (Nat × Nat) :=
  if m.tags then []
  else if isPacked l.fmt then formPieces l.fmt (l.unitOff ptr) m.size else [(0, m.size)]

/-- Translation and the checks of R239 for one lane's access; each lane's access may use a kept leaf or a fresh walk (R248). -/
def State.lanePage (s : State) (c : LaneCtx) (m : MemForm) (sx : Bool) (i : Fin 32) (ptr : DWord) : Except AccessFault Leaf :=
  match ({ s with choice := s.choice + i.val } : State).translate (some c.core) c.asid ptr with
  | .notPresent => .error (.translation, 1)
  | .malformed => .error (.translation, 2)
  | .leaf l =>
    if !l.permits m.access then .error (.permission, 0)
    else if !c.fmtOk m sx ptr l then .error (.formatAccess, 0)
    else if (l.touched m ptr).any fun r => !s.tagsOk l (ptr + BitVec.ofNat 64 r.1) r.2 then .error (.tagMismatch, 0)
    else .ok l

/-- The address of offset o through a descriptor (R246). -/
def Desc.ptr (d : Desc) (o : Int) : DWord := BitVec.ofInt 64 (((d.base + 2 ^ 57 * d.tag : Nat) : Int) + o)

/-- The offset of an index through a descriptor (R246). -/
def Desc.offset (d : Desc) (x : Nat) (off : Word) : Int := ((x * d.stride : Nat) : Int) + off.toInt

/-- The bytes of an access lie within the descriptor. -/
def Desc.holds (d : Desc) (o : Int) (w : Nat) : Bool := 0 ≤ o && o + (w : Int) ≤ (d.size : Int)

/-- A lane belongs to a PATH sub-tile whose proofs hold an entry (R221). -/
def LaneCtx.proven (c : LaneCtx) (p : Proof) (i : Fin 32) : Bool :=
  match c.team.pass with
  | none => false
  | some ps =>
    ps.released && (ps.leaves c.group.gid c.launch.record.depth).any fun j =>
      j.2.2 == 2 && j.2.1.holds c.launch.record c.group.gid i &&
      ps.proofs.any fun q => q.1 == c.group.gid && q.2.1 == j.1 && q.2.2.1 == j.2.1.sub && q.2.2.2.contains p

/-- The bounds comparison is skipped: every active lane's proofs hold this instruction's descriptor as it stands (R221). -/
def LaneCtx.elided (c : LaneCtx) (n : BitVec 4) : Bool :=
  match vget c.group.bd n.toNat none with
  | none => false
  | some w => (List.finRange 32).all fun i => !c.em.has i || c.proven { lpc := c.pc, bd := n.toNat, desc := w } i

/-- The checks of one lane's access in the order of R269: what it reaches, or its fault and address. -/
def State.laneAccess (s : State) (c : LaneCtx) (f : LM) (m : MemForm) (sx : Bool) (i : Fin 32) (x : Nat) :
    Except (AccessFault × DWord) LaneAccess :=
  let page (ptr : DWord) : Except (AccessFault × DWord) LaneAccess :=
    match s.lanePage c m sx i ptr with
    | .error e => .error (e, ptr)
    | .ok l => .ok { lane := i, ptr := ptr, target := .page l }
  match m.reach with
  | .flat =>
    let ptr := BitVec.ofNat 64 x + f.off.signExtend 64
    if ptr.toNat % m.size ≠ 0 then .error ((.alignment, 0), ptr) else page ptr
  | .scratch =>
    let o := BitVec.ofNat 32 x + f.off
    let ptr := o.zeroExtend 64
    if o.toNat % m.size ≠ 0 then .error ((.alignment, 0), ptr)
    else if 1024 * c.launch.record.scratch < o.toNat + m.size then .error ((.bounds, 0), ptr)
    else .ok { lane := i, ptr := ptr, target := .scratch }
  | .descr =>
    match vget c.group.bd f.bd.toNat none with
    | none => .error ((.bounds, 0), 0)
    | some w =>
      let d := descOf w
      let o := d.offset x f.off
      let ptr := d.ptr o
      if ptr.toNat % m.size ≠ 0 then .error ((.alignment, 0), ptr)
      else if !d.holds o m.size && !c.elided f.bd then
        if d.zeros then .ok { lane := i, ptr := ptr, target := .dropped } else .error ((.bounds, 0), ptr)
      else if d.ro && m.access.writes then .error ((.permission, 0), ptr)
      else page ptr

/-- The accesses of the active lanes, or the lowest failing lane with its fault and address (R269). -/
def State.laneAccesses (s : State) (c : LaneCtx) (f : LM) (m : MemForm) (sx : Bool) (x : Fin 32 → Nat) :
    Except (Fin 32 × AccessFault × DWord) (List LaneAccess) :=
  ((List.finRange 32).filter c.em.has).foldl (fun acc i =>
    match acc with
    | .error e => .error e
    | .ok as =>
      match s.laneAccess c f m sx i (x i) with
      | .error (e, a) => .error (i, e, a)
      | .ok a => .ok (as ++ [a])) (.ok [])

/-! Operations (R26, R255, R260, R273, R275). -/

/-- What precedes a lane operation of a clause (R30, R255): the scalar operations before its `run` and the clause's earlier
operations. -/
def State.lanePast (s : State) (c : LaneCtx) : List Nat :=
  unite c.clause.past ((s.ops.filter fun o => o.cid == some c.clause.cid).map (·.id))

/-- A lane's operation; a scratchpad access acts at team scope (R272, R275). -/
def State.laneOp (s : State) (c : LaneCtx) (f : LM) (kind : OpKind) (a : LaneAccess) (size : Nat) : MemOp :=
  let b := { blankOp (.group c.team.id c.group.gid c.core) c.asid kind .mem 0 size with
    uid := c.clause.uid, cid := some c.clause.cid, order := f.order, scope := f.scope, past := s.lanePast c
    clauses := c.clause.order, flag := some (flagOf c.hdr f.h.fs), bd := f.bd }
  let b := { b with site := { spc := c.clause.runPc, lpc := c.pc, ptr := a.ptr, lane := some a.lane.val } }
  match a.target with
  | .page l => { b with addr := l.pa a.ptr, sc := l.sc }
  | _ => { b with space := .scratch c.team.id, addr := a.ptr.toNat, scope := .team }

/-- A lane access that fails its checks (R269): its fault. A tag is read between the access's issue and its performance (R243), so a
mismatch does not count while the access may not issue. -/
def State.refuseLane (s : State) (c : LaneCtx) (f : LM) (e : AccessFault) (a : DWord) (i : Fin 32) : State :=
  if e.1 == .tagMismatch && !s.mayIssue (s.lanePast c) c.clause.order f.order f.scope then s
  else s.laneFault c e a (some i.val)

/-- The leaves that the accesses used are kept (R248). -/
def State.keptLeaves (s : State) (c : LaneCtx) (as : List LaneAccess) : State :=
  let s := as.foldl (fun s a => match a.target with | .page l => s.keepLeaf c.core c.asid a.ptr l | _ => s) s
  { s with choice := s.choice + 32 }

/-- Operations issue together once each may (R228, R261 to R263), tagging their flag (R26), their numbers following `held` others; in
a redundant team an instruction that closes the epoch waits for its close (R358). -/
def State.issueLane (s : State) (c : LaneCtx) (held : Nat) (ops : List MemOp) (as : List LaneAccess) (closing shared : Bool)
    (k : State → State) : Out State :=
  let go (s : State) : Out State :=
    if !s.canIssue ops then .next s
    else
      let s' : State := { s with fresh := s.fresh + held }
      match (if shared then s'.pushClosing c.team ops else some (s'.pushOps (s'.holdOps c.team ops))) with
      | none => .next s
      | some (s, _) =>
        let s := s.keptLeaves c as
        let s := s.modGroup c.team.id c.group.gid fun g =>
          ops.foldl (fun g o => match o.flag with | some f => g.tagFlag f | none => g) g
        .next ((k s).laneDone c)
  if closing then s.atClose c.team (.lane c.ref) go else go s

/-- The predicate of an instruction marked `.nb` (R64). -/
def Group.nbDone (g : Group) (f : LM) (nb : Bool) (em : Mask) (done : Bool) : Group :=
  if nb then g.setPred f.c.toNat em (if done then em else 0) else g

/-- The queue conditions of a memory instruction (R60 to R64). -/
def memQueues (i : Instr) (f : LM) (nb : Bool) (c : LaneCtx) (s : State) (k : State → Out State) : Out State :=
  let pops := popsOf i.laneFields
  let push := pushOf i.laneFields
  if nb && c.group.queueState pops push == .short then
    .next ((s.modGroup c.team.id c.group.gid fun g => g.nbDone f nb c.em false).laneDone c)
  else withQueues c s pops push k

/-- Whether a load or an atomic comes only once its epoch is closed (R358), given its accesses. -/
def closesWith (f : LM) (atomic : Bool) (as : List LaneAccess) : Bool :=
  closesEpoch atomic f.order (as.any fun a => match a.target with | .page l => l.sc | _ => false)

/-! Loads and the results of atomics (R42, R56, R57, R61, R62, R273). -/

/-- The registers that the lanes of a load receive: more than the width's on a packed page (R241). -/
def loadRegs (n w : Nat) (as : List LaneAccess) : Nat :=
  as.foldl (fun k a => match a.target with
    | .page l => if isPacked l.fmt && k < formRegs l.fmt w then formRegs l.fmt w else k
    | _ => k) n

/-- The registers of one access. -/
def LaneAccess.regs (a : LaneAccess) (n w : Nat) : Nat := loadRegs n w [a]

/-- Where a lane's result goes: its physical lanes under D, its lane of the reserved entry, or s16 to s31 from the lowest active
lane. -/
def LaneCtx.laneDest (c : LaneCtx) (h : LaneHead) (n eid : Nat) (D : LMap) (i : Fin 32) : Dest :=
  let d := h.d.toNat
  if d < 96 then .vregs d n D[i]
  else if d < 112 then .entry (d - 96) eid i
  else if c.em.lowest == some i then .sregs (BitVec.ofNat 5 (d - 96)) n c.clause.sid else .none

/-- What a load leaves at its issue (R29, R56, R57, R62): the map of its destination, the reserved entry, zero for lanes without an
access (R246). -/
def State.reserve (s : State) (c : LaneCtx) (h : LaneHead) (n eid : Nat) (D : LMap) (as : List LaneAccess) (waiting : Nat) : State :=
  let d := h.d.toNat
  let zero := Mask.gen fun i => as.any fun a => a.lane == i && a.target == .dropped
  if d < 96 then s.modGroup c.team.id c.group.gid fun g => g.putVregs s.choice d n c.full D zero fun _ => 0
  else if d < 112 then
    s.modGroup c.team.id c.group.gid fun g => g.push (d - 96) { eid := eid, data := Lanes.all 0, waiting := waiting }
  else if (c.em.lowest.map zero.has).getD false then s.later c h.fs [.sreg (BitVec.ofNat 5 (d - 96)) 0]
  else s

/-- How the bytes of a load reach its lane. -/
def LaneAccess.convert (a : LaneAccess) (sx : Bool) (w : Nat) : Convert :=
  match a.target with
  | .page l => if isPacked l.fmt then .packed l.fmt (l.unitOff a.ptr) w else if sx then .signed else .bytes
  | _ => if sx then .signed else .bytes

/-- The bytes that a load's one operation spans: on an FP6 page from the first byte of the 4-bit plane to the last of the 2-bit. -/
def LaneAccess.span (a : LaneAccess) (w : Nat) : Nat :=
  match a.target with
  | .page l => if isFp6 l.fmt then 64 + l.unitOff a.ptr / 2 - l.unitOff a.ptr + (if w < 2 then 1 else w / 2) else w
  | _ => w

/-- An instruction with a destination in element mode: its operations, one for each access of w bytes, of which a packed page makes a
form (R241); w is 0 for tags. -/
def memResult (i : Instr) (f : LM) (n w : Nat) (T : LMap) (as : List LaneAccess) (closing shared nb : Bool)
    (op : Nat → LaneAccess → MemOp) (c : LaneCtx) (s : State) : Out State :=
  let D := if f.h.d.toNat < 96 then destMap T c.full false else LMap.id
  let live := as.filter fun a => a.target != .dropped
  let nmax := loadRegs n w as
  let eid := s.fresh
  let ops := live.map fun a => { op eid a with dest := c.laneDest f.h (a.regs n w) eid D a.lane }
  s.issueLane c 1 ops live closing shared fun s =>
    let s := s.modGroup c.team.id c.group.gid fun g => (g.pop (popsOf i.laneFields)).nbDone f nb c.em true
    s.reserve c f.h nmax eid D as ops.length

/-! Pass groups (R217 to R221). -/

/-- How a load of a pass goes in a lane: it is performed, gives zero, or is not performed; the lane may become UNDECIDED (R220). -/
inductive PassLane where
  | perform (a : LaneAccess)
  | zero
  | unknown
  | undecided
  deriving DecidableEq, Repr

/-- An index of an interval reaches a byte of the descriptor. -/
def Desc.reaches (d : Desc) (lo hi : Nat) (off : Word) (w : Nat) : Bool :=
  let o := off.toInt
  let first : Int :=
    if d.stride = 0 then (lo : Int)
    else let x := (-o - (w : Int)) / (d.stride : Int) + 1; if x < (lo : Int) then (lo : Int) else x
  let at_ := first * (d.stride : Int) + o
  0 < d.size && first ≤ (hi : Int) && at_ < (d.size : Int) && 0 < at_ + (w : Int)

/-- A load at a degenerate address is performed from a read-only page when every check passes (R218). -/
def State.passAccess (s : State) (c : LaneCtx) (m : MemForm) (sx : Bool) (i : Fin 32) (ptr : DWord) : PassLane :=
  if ptr.toNat % m.size ≠ 0 then .unknown
  else
    match s.lanePage c m sx i ptr with
    | .error _ => .unknown
    | .ok l => if l.w then .unknown else .perform { lane := i, ptr := ptr, target := .page l }

/-- The pass's treatment of a lane, and whether its access is proven (R217, R220). -/
def State.passLane (s : State) (c : LaneCtx) (f : LM) (m : MemForm) (sx : Bool) (i : Fin 32) : PassLane × Bool :=
  match m.reach with
  | .scratch => (.unknown, false)
  | .flat =>
    let b := c.ivField (.srcNoQ 2, f.a) .n64 i
    if b.point then (s.passAccess c m sx i (BitVec.ofNat 64 b.1 + f.off.signExtend 64), false) else (.unknown, false)
  | .descr =>
    match vget c.group.bd f.bd.toNat none with
    | none => (.undecided, false)
    | some w =>
      let d := descOf w
      let b := c.ivField (.srcNoQ 1, f.a) .n32 i
      if d.holds (d.offset b.1 f.off) m.size && d.holds (d.offset b.2 f.off) m.size then
        (if b.point then s.passAccess c m sx i (d.ptr (d.offset b.1 f.off)) else .unknown, true)
      else if d.reaches b.1 b.2 f.off m.size then (.unknown, false)
      else if d.zeros then (.zero, false)
      else (.undecided, false)

/-- The proofs of a pass group with those of an instruction (R221): up to 16 for each lane. -/
def PassInfo.prove (p : PassInfo) (lanes : List (Fin 32)) (e : Proof) : PassInfo :=
  { p with proofs := lanes.foldl (fun ps i =>
      if ps.contains (i.val, e) || 16 ≤ (ps.filter fun x => x.1 == i.val).length then ps else ps ++ [(i.val, e)]) p.proofs }

/-- What an `ldb` or `stb` of a pass proves. -/
def Group.prove (g : Group) (c : LaneCtx) (n : BitVec 4) (lanes : List (Fin 32)) : Group :=
  match vget g.bd n.toNat none with
  | none => g
  | some w => { g with pass := g.pass.map fun p => p.prove lanes { lpc := c.pc, bd := n.toNat, desc := w } }

/-- A lane instruction of a pass without the lanes that it makes UNDECIDED. -/
def State.withoutLanes (s : State) (c : LaneCtx) (gone : Mask) : LaneCtx × State :=
  if gone = 0 then (c, s)
  else
    let g := c.group.undecideLanes gone
    ({ c with em := c.em &&& ~~~gone, group := g }, s.modGroup c.team.id c.group.gid fun _ => g)

/-- The bounds of a register that a load does not fill (R218). -/
def wholeWord : Bounds := (0, 2 ^ 32 - 1)

/-- A load's result now, as a number. -/
def convertResult (k : Convert) (bs : List Byte) : Nat :=
  match k with
  | .bytes => leNat bs
  | .signed => wrap 32 (signed (8 * bs.length) (leNat bs))
  | .packed fmt off w => unpackForm fmt off w bs

/-- A load of n registers in a pass group (R218, R220); w is as in element mode. -/
def loadBounds (f : LM) (m : MemForm) (n w : Nat) (sx nb : Bool) (op : State → LaneAccess → MemOp) (c : LaneCtx) (s : State) : Out State :=
  let lanes := (List.finRange 32).filter c.em.has
  let how := lanes.map fun i => (i, s.passLane c f m sx i)
  let gone := Mask.gen fun i => how.any fun x => x.1 == i && x.2.1 == .undecided
  let proven := (how.filter fun x => x.2.2).map (·.1)
  let s := s.modGroup c.team.id c.group.gid fun g => g.prove c f.bd proven
  let c0 := { c with group := c.group.prove c f.bd proven }
  let (c', s') := s.withoutLanes c0 gone
  if c'.em = 0 then .next (s'.laneDone c')
  else
    let as := how.filterMap fun x => match x.2.1 with | .perform a => some a | _ => none
    let d := f.h.d.toNat
    let D := destMap (targetMap [c.ivMap (.srcNoQ (if m.reach == .flat then 2 else 1), f.a)]) c'.full false
    let closing := closesWith f false as
    let bounds (i : Fin 32) : Bounds := if how.any fun x => x.1 == i && x.2.1 == .zero then (0, 0) else wholeWord
    let nbDone (g : Group) : Group := if nb then g.setTri f.c.toNat c'.em fun _ => .yes else g
    if d < 96 then
      let ops := as.map fun a => { op s' a with dest := .vregs d (a.regs n w) D[a.lane] }
      let filled := Mask.gen fun i => as.any fun a => a.lane == i
      if !s'.canIssue ops then .next s
      else
        s'.issueLane c' 0 ops as closing false fun s =>
          s.modGroup c.team.id c.group.gid fun g =>
            nbDone ((List.range (loadRegs n w as)).foldl (fun g k =>
              -- registers beyond the width's are for the lanes of packed pages; performed lanes receive their tag now
              let em := if k < n then c'.em else Mask.gen fun i => as.any fun a => a.lane == i && k < a.regs n w
              let rest := em &&& ~~~filled
              ((g.putTags s.choice (d + k) 1 c'.full D em fun _ => .b32).putVregs s.choice (2 * (d + k)) 1 c'.full D rest
                fun i => (bounds i).1).putVregs s.choice (2 * (d + k) + 1) 1 c'.full D rest fun i => (bounds i).2) g)
    else
      -- s16 to s31: one value in every lane, or the lanes leave the pass (R214)
      let ops := as.map (op s')
      if !s'.canIssue ops || !(ops.all fun o => s'.maySatisfy { o with id := s'.fresh, stamp := s'.fresh }) then .next s
      else
        let ops := ops.map fun o => let r := s'.loadValue o; { o with result := some r.1, rf := r.2 }
        let value (i : Fin 32) : Bounds :=
          match (as.zip ops).find? fun x => x.1.lane == i with
          | some x => let v := convertResult x.2.convert (x.2.result.getD []); (v, v)
          | none => bounds i
        s'.issueLane c' 0 ops as closing false fun s =>
          (s.modGroup c.team.id c.group.gid nbDone).putBounds c' f.h 1 LMap.id value fun _ => .b32

/-- A store or an atomic in a pass group (R219, R220): not performed, its effects marked. -/
def storeBounds (f : LM) (m : MemForm) (nb : Bool) (result : Option Nat) (i : Instr) (c : LaneCtx) (s : State) : Out State :=
  let lanes := (List.finRange 32).filter c.em.has
  let how := lanes.map fun l => (l, if m.reach == .descr then s.passLane c f m false l else (.unknown, false))
  let gone := Mask.gen fun i => how.any fun x => x.1 == i && x.2.1 == .undecided
  let none_ := Mask.gen fun i => how.any fun x => x.1 == i && x.2.1 == .zero
  let proven := (how.filter fun x => x.2.2).map (·.1)
  let s := s.modGroup c.team.id c.group.gid fun g => g.prove c f.bd proven
  let c0 := { c with group := c.group.prove c f.bd proven }
  let (c', s') := s.withoutLanes c0 gone
  let s' := s'.modGroup c.team.id c.group.gid fun g =>
    let g := g.effects (c'.em &&& ~~~none_)
    if nb then g.setTri f.c.toNat c'.em fun _ => .yes else g
  if c'.em = 0 then .next (s'.laneDone c')
  else
    match result with
    | none => .next (s'.laneDone c')
    | some n =>
      let D := destMap (targetMap ((i.laneFields.drop 1).map c.ivMap)) c'.full false
      .next ((s'.putBounds c' f.h n D (fun _ => (0, 2 ^ (32 * n) - 1)) fun _ => .b32).laneDone c')

/-! The instructions. -/

/-- The field of an instruction's data and its sign extension. -/
def sxOf (f : LM) : Bool := f.fmod.getLsbD 1
def nbOf (f : LM) : Bool := f.fmod.getLsbD 0

/-- A load (R272, R273). -/
def laneLoad (i : Instr) (f : LM) (reach : Reach) (well : Bool) (s : State) : Out State :=
  let m : MemForm := { reach := reach, well := well, size := f.width.bytes, access := .load, aop := none, tags := false, data := f.h.d }
  let kind : OpKind := .load
  laneIssue f.h s fun c s =>
    let op (s : State) (a : LaneAccess) : MemOp :=
      { s.laneOp c f kind a (a.span m.size) with convert := a.convert (sxOf f) m.size }
    if c.inPass then loadBounds f m f.width.regs m.size (sxOf f) (nbOf f) op c s
    else
      memQueues i f (nbOf f) c s fun s =>
        let x := c.sources i
        match s.laneAccesses c f m (sxOf f) (fun l => x.a.vals[l]) with
        | .error (l, e, a) => .next (s.refuseLane c f e a l)
        | .ok as => memResult i f f.width.regs m.size (targetMap x.maps) as (closesWith f false as) false (nbOf f) (fun _ => op s) c s

/-- The operations of one lane's store, and the lane's generator. -/
def LaneCtx.storeOps (c : LaneCtx) (op : LaneAccess → Nat → MemOp) (w : Nat) (a : LaneAccess) (data : Nat → Nat) (g : DWord) :
    List MemOp × DWord :=
  match a.target with
  | .dropped => ([], g)
  | .scratch => ([{ op a w with data := plainData (natLe w (data 1)) }], g)
  | .page l =>
    if isPacked l.fmt then
      let r := c.packForm l.fmt (l.unitOff a.ptr) w (data (formRegs l.fmt w)) g
      (r.1.map fun p => let o := op a p.2.length; { o with addr := o.addr + p.1, data := p.2 }, r.2)
    else ([{ op a w with data := plainData (natLe w (data 1)) }], g)

/-- The operations of a store's lanes in ascending lane order, and the generators after it. -/
def LaneCtx.storeAll (c : LaneCtx) (op : LaneAccess → Nat → MemOp) (w : Nat) (as : List LaneAccess) (data : Fin 32 → Nat → Nat) :
    List MemOp × Lanes DWord :=
  as.foldl (fun acc a =>
    let r := c.storeOps op w a (data a.lane) acc.2[a.lane]
    (acc.1 ++ r.1, Lanes.gen fun i => if i = a.lane then r.2 else acc.2[i])) ([], c.group.gen)

/-- A store (R272, R273): its data from field b, of as many registers as the page needs. -/
def laneStore (i : Instr) (f : LM) (reach : Reach) (well : Bool) (s : State) : Out State :=
  let m : MemForm := { reach := reach, well := well, size := f.width.bytes, access := .store, aop := none, tags := false, data := f.b }
  let kind : OpKind := .store
  laneIssue f.h s fun c s =>
    if c.inPass then storeBounds f m (nbOf f) none i c s
    else
      memQueues i f (nbOf f) c s fun s =>
        let x := c.sources i
        match s.laneAccesses c f m false (fun l => x.a.vals[l]) with
        | .error (l, e, a) => .next (s.refuseLane c f e a l)
        | .ok as =>
          let data (l : Fin 32) (n : Nat) : Nat :=
            if n ≤ f.width.regs then x.b.vals[l] else (c.general f.b.toNat n 0).vals[l]
          let r := c.storeAll (fun a n => s.laneOp c f kind a n) m.size as data
          s.issueLane c 0 r.1 as false false fun s =>
            s.modGroup c.team.id c.group.gid fun g =>
              { (g.pop (popsOf i.laneFields)).nbDone f (nbOf f) c.em true with gen := r.2 }

/-- LD (R272, R273). -/
def execLd (f : LM) (s : State) : Out State := laneLoad (.ld f) f .flat false s
/-- ST (R272, R273). -/
def execSt (f : LM) (s : State) : Out State := laneStore (.st f) f .flat false s
/-- LDB (R246, R272, R273). -/
def execLdb (f : LM) (s : State) : Out State := laneLoad (.ldb f) f .descr false s
/-- STB (R246, R272, R273). -/
def execStb (f : LM) (s : State) : Out State := laneStore (.stb f) f .descr false s
/-- LDS (R272, R273). -/
def execLds (f : LM) (s : State) : Out State := laneLoad (.lds f) f .scratch false s
/-- STS (R272, R273). -/
def execSts (f : LM) (s : State) : Out State := laneStore (.sts f) f .scratch false s
/-- LDW (R267, R272, R273): from a Cistern page only. -/
def execLdw (f : LM) (s : State) : Out State := laneLoad (.ldw f) f .flat true s
/-- STW (R267, R272, R273): to a Cistern page only. -/
def execStw (f : LM) (s : State) : Out State := laneStore (.stw f) f .flat true s

/-- An atomic (R274 to R278). -/
def laneAtomic (i : Instr) (f : LM) (reach : Reach) (well : Bool) (s : State) : Out State :=
  let aop := (Aop.ofCode f.fmod.toNat).getD .load
  let access : Access := match aop with | .load => .atomLoad | _ => .atomic
  let m : MemForm := { reach := reach, well := well, size := if aop == .xadd then 16 else f.width.bytes, access := access
                       aop := some aop, tags := false, data := 0 }
  let atHome := well || reach == .scratch
  laneIssue f.h s fun c s =>
    if c.inPass then storeBounds f m false (match aop with | .store | .xadd => none | _ => some f.width.regs) i c s
    else
      memQueues i f false c s fun s =>
        let x := c.sources i
        match s.laneAccesses c f m false (fun l => x.a.vals[l]) with
        | .error (l, e, a) => .next (s.refuseLane c f e a l)
        | .ok as =>
          let shared := reach != .scratch
          let op (a : LaneAccess) : MemOp :=
            let b := x.b.vals[a.lane]
            match aop with
            | .load => s.laneOp c f (if atHome then .wellLoad else .load) a m.size
            | .store => { s.laneOp c f (if atHome then .wellStore else .store) a m.size with data := plainData (natLe m.size b) }
            | _ =>
              s.laneOp c f (.rmw { aop := aop, b := b, c := x.c.vals[a.lane], rnd := rmodeRnd c.clause.rmode 1
                                   sat := rmodeSat c.clause.rmode 1, f32 := aop == .xadd && f.width == .w32 }) a m.size
          match aop with
          | .store | .xadd =>
            s.issueLane c 0 (as.map op) as true shared fun s =>
              s.modGroup c.team.id c.group.gid fun g => g.pop (popsOf i.laneFields)
          | _ => memResult i f f.width.regs m.size (targetMap x.maps) as true shared false (fun _ => op) c s

/-- ATOM (R274 to R276, R278). -/
def execAtom (f : LM) (s : State) : Out State := laneAtomic (.atom f) f .flat false s
/-- ATOMS (R274 to R276). -/
def execAtoms (f : LM) (s : State) : Out State := laneAtomic (.atoms f) f .scratch false s
/-- ATOMW (R274 to R277): at a well. -/
def execAtomw (f : LM) (s : State) : Out State := laneAtomic (.atomw f) f .flat true s

/-! Tags (R280). -/

/-- The location of the tag that an access names. -/
def State.tagOp (s : State) (c : LaneCtx) (f : LM) (kind : OpKind) (a : LaneAccess) : MemOp :=
  let o := s.laneOp c f kind a 1
  { o with addr := tagKey o.addr }

/-- TAGLD (R280): the granule's tag, zero-extended. -/
def execTagld (f : LM) (s : State) : Out State :=
  let m : MemForm := { reach := .flat, well := false, size := 32, access := .load, aop := none, tags := true, data := f.h.d }
  laneIssue f.h s fun c s =>
    if c.inPass then loadBounds f m 1 0 false false (fun s a => s.tagOp c f .load a) c s
    else
      memQueues (.tagld f) f false c s fun s =>
        let x := c.sources (.tagld f)
        match s.laneAccesses c f m false (fun l => x.a.vals[l]) with
        | .error (l, e, a) => .next (s.laneFault c e a (some l.val))
        | .ok as =>
          memResult (.tagld f) f 1 0 (targetMap x.maps) as (closesWith f false as) false false
            (fun _ a => s.tagOp c f .load a) c s

/-- TAGST (R280): the low four bits of b as the granule's tag. -/
def execTagst (f : LM) (s : State) : Out State :=
  let m : MemForm := { reach := .flat, well := false, size := 32, access := .store, aop := none, tags := true, data := f.b }
  laneIssue f.h s fun c s =>
    if c.inPass then storeBounds f m false none (.tagst f) c s
    else
      memQueues (.tagst f) f false c s fun s =>
        let x := c.sources (.tagst f)
        match s.laneAccesses c f m false (fun l => x.a.vals[l]) with
        | .error (l, e, a) => .next (s.laneFault c e a (some l.val))
        | .ok as =>
          let ops := as.map fun a => { s.tagOp c f .store a with data := [(BitVec.ofNat 8 (x.b.vals[a.lane] % 16), 0xFF)] }
          s.issueLane c 0 ops as false false fun s =>
            s.modGroup c.team.id c.group.gid fun g => g.pop (popsOf (Instr.tagst f).laneFields)

/-! conf, pref and qcnt (R279, R281, R282). -/

/-- Lanes of a mask whose value repeats a lower lane's (R279). -/
def repeats (em : Mask) (v : Fin 32 → Nat) : Mask :=
  Mask.gen fun i => em.has i && (List.finRange 32).any fun j => j < i && em.has j && v j == v i

/-- CONF (R219, R279). -/
def execConf (f : LM) (s : State) : Out State :=
  laneIssue f.h s fun c s =>
    if c.inPass then
      let n := f.width.regs
      let t : LType := if n = 2 then .n64 else .n32
      let b (l : Fin 32) : Bounds := c.ivField (.src n, f.a) t l
      let exact_ := (List.finRange 32).all fun l => !c.em.has l || (b l).point
      let m := repeats c.em fun l => (b l).1
      lanePredBounds f.h (fun l =>
        if exact_ then Tri.ofBool (m.has l) else if c.em.lowest == some l then .no else .unk) c s
    else
      lanePredElements (.conf f) f.h (fun c' _ l => (repeats c'.em fun j => (c'.sources (.conf f)).a.vals[j]).has l) c s

/-- PREF (R219, R281): no result changes; lanes whose checks fail are dropped, the leaves of the others may be kept. -/
def execPref (f : LM) (s : State) : Out State :=
  let m : MemForm := { reach := .flat, well := false, size := 1, access := .load, aop := none, tags := false, data := 0 }
  laneIssue f.h s fun c s =>
    if c.inPass then .next (s.laneDone c)
    else
      let x := c.sources (.pref f)
      let as := ((List.finRange 32).filter c.em.has).filterMap fun i =>
        match s.laneAccess c f m false i x.a.vals[i] with | .ok a => some a | .error _ => none
      .next ((s.keptLeaves c as).laneDone c)

/-- QCNT (R282): entries and reservations of a queue, or what its depth leaves free. -/
def execQcnt (f : LM) (s : State) : Out State :=
  laneIssue f.h s fun c s =>
    let q := queueOf c.group (f.a.toNat - 96)
    if q.depth = 0 then .next (s.laneFault c (.queueConfig, 0) 0 none)
    else
      let n := q.entries.length
      laneValue (.qcnt f) f.h (fun _ => if f.fmod.getLsbD 0 then q.depth - n else n) c s

/-! ldt (R197). -/

/-- The scratchpad loads of an `ldt`: their offsets, or its fault. -/
def LaneCtx.blockRows (c : LaneCtx) (base stride : Nat) : Except (AccessFault × DWord) (List Nat) :=
  if base % 8 ≠ 0 || stride % 8 ≠ 0 then .error ((.alignment, 0), BitVec.ofNat 64 base)
  else
    let rows := (List.range 16).map fun r => base + r * stride
    match rows.find? fun a => 1024 * c.launch.record.scratch < a + 8 with
    | some a => .error ((.bounds, 0), BitVec.ofNat 64 a)
    | none => .ok rows

/-- LDT: base and stride from the lowest active lane; sixteen rows of eight bytes, which reach the lanes together. -/
def execLdt (f : LM) (s : State) : Out State :=
  laneIssue f.h s fun c s =>
    if c.inPass then .next ((s.putBounds c f.h 1 LMap.id (fun _ => fullRange .n32) fun _ => .n32).laneDone c)
    else
      memQueues (.ldt f) f false c s fun s =>
        let x := c.sources (.ldt f)
        let l := c.em.lowest.getD 0
        let base := (BitVec.ofNat 32 x.a.vals[l] + f.off).toNat
        match c.blockRows base x.c.vals[l] with
        | .error (e, a) => .next (s.laneFault c e a (some l.val))
        | .ok rows =>
          let key := s.fresh
          let ops := rows.mapIdx fun r a =>
            { s.laneOp c f .load { lane := l, ptr := BitVec.ofNat 64 a, target := .scratch } 8 with
              order := .plain, dest := .block key (8 * f.width.bytes) r c.em f.h.d.toNat c.clause.sid }
          s.issueLane c 1 ops [] false false fun s =>
            let s := s.modGroup c.team.id c.group.gid fun g => g.pop (popsOf (Instr.ldt f).laneFields)
            let d := f.h.d.toNat
            if d < 96 then s.modGroup c.team.id c.group.gid fun g => g.putVregs s.choice d 1 c.full LMap.id 0 fun _ => 0
            else if d < 112 then
              s.modGroup c.team.id c.group.gid fun g => g.push (d - 96) { eid := key, data := Lanes.all 0, waiting := ops.length }
            else s

/-- What lane i of an `ldt` receives of sixteen rows under an element width (R197). -/
def blockWord (w : Nat) (rows : List (List Byte)) (i : Fin 32) : Word :=
  let row (r : Nat) : Nat := leNat ((rows[r]?).getD [])
  BitVec.ofNat 32 (
    if w = 8 then ofElems 8 4 fun e => elemAt 8 (row (4 * (i.val % 4) + e)) (i.val / 4)
    else if w = 16 then ofElems 16 2 fun e => elemAt 16 (row (2 * (i.val % 8) + e)) (i.val / 8)
    else elemAt 32 (row (i.val % 16)) (i.val / 16))

end Sys2Proof.Machine
end

