-- ==== Sys2Proof/Machine/Branch.lean ====
section
/-! DEFINITION. Branches (R105), the division of splits (R17, R18, R106), calls and returns (R107), `yield` (R19) and `nop`. -/

namespace Sys2Proof.Machine

/-- A lane instruction writes a predicate field (R45, R138, R139, R272, R279). -/
def writesPred (i : Instr) (p : Nat) : Bool :=
  (match i.laneFields with | (.pred, v) :: _ => v.toNat == p | _ => false) ||
  (match i.view with
   | .lm _ f => (match i.laneFields with | [_, _, _, (.pred, v)] => v.toNat == p && f.fmod.getLsbD 0 | _ => false)
   | _ => false)

/-- An earlier clause of the split may still write a predicate (R22, R105). -/
def State.predPending (_s : State) (c : Issuer) (p : Nat) : Bool :=
  let cids := unite c.split.set.ran c.split.set.order
  p != 0 && c.group.clauses.toList.any fun q => q.any fun k => cids.contains k.cid &&
    match k.fetched with
    | none => true
    | some (_, is) => (is.drop k.next).any fun i => writesPred i p

/-- The issue of a scalar instruction that reads a predicate (R22, R105, R209): it waits for earlier writers; in a pass group a
field from 4 up is refused. -/
def predIssue (i : Instr) (reads : List SReg) (p : Nat) (s : State) (k : Issuer → State → Out State) : Out State :=
  scalarIssue i reads [] s fun c s =>
    if c.inPass && 4 ≤ p then .next (s.scalarFault c (.intervalMode, 0) 0)
    else if s.predPending c p then .next s
    else k c s

/-- The active lanes of a split on which a predicate holds, and those on which it is undecided, which leave the pass (R202, R213). -/
def Issuer.lanesOf (c : Issuer) (p : Nat) (neg : Bool) : Mask × Mask := c.group.guarded c.exec p neg

/-- The group with lanes that have become UNDECIDED, and the issuer in it. -/
def State.dropUndecided (s : State) (c : Issuer) (m : Mask) : Issuer × State :=
  if m = 0 then (c, s)
  else
    let s := s.modGroup c.team.id c.group.gid fun g => g.undecideLanes m
    ((s.issuerOf c.ref).getD c, s)

/-- A split divides (R17, R18): the lanes `taken` go to an address, the active lanes `fall` go on. -/
def State.divide (s : State) (c : Issuer) (taken fall : Mask) (target : DWord) : State :=
  if taken = 0 then s.advance c
  else if fall = 0 then s.jump c target
  else
    let s1 := s.countTaking c target taken
    let c1 := (s1.issuerOf c.ref).getD c
    let e := c1.split.set
    let child : LaneSet := { e with uid := s1.fresh, pc := target, own := taken, exec := taken, ran := [] }
    let p := c1.split.modSet fun e => { e with own := e.own &&& ~~~taken, exec := fall }
    let s2 : State := { s1 with fresh := s1.fresh + 1 }
    match (List.finRange 4).find? fun k => (c1.group.split? k).isNone with
    | some k =>
      (s2.modGroup c.team.id c.group.gid fun g =>
        (g.setSplit c.ref.split.val (some p)).setSplit k.val (some { sid := child.uid, set := child, stack := [], overflow := [], status := .running })).advance c
    | none =>
      match s2.fitStack c1.team c.group.gid c1.group.usedSlots { p with stack := child :: p.stack } with
      | .ok (s3, p) => (s3.modGroup c.team.id c.group.gid fun g => g.setSplit c.ref.split.val (some p)).advance c
      | .error e => s.areaFault c.team c.group c.ref.split c.split 1 e

/-- A banked register of the split waits for a result (R394). -/
def Issuer.bankBusy (c : Issuer) : Bool := c.group.busy.any fun b => b.uid == some c.uid

/-- A division would overflow the stack while the homes cannot take the entry yet (R17, R259). -/
def State.spillWaits (s : State) (c : Issuer) : Bool :=
  4 ≤ c.split.stack.length && c.group.live.length == 4 && !s.spillFree

/-! Branches (R105). -/

/-- B: always taken. -/
def execB (off : BitVec 21) (s : State) : Out State :=
  scalarIssue (.b off) [] [] s fun c s => .next (s.jump c (branchTarget c.pc off))

/-- BZ: taken when the register is zero. -/
def execBz (c : SReg) (off : BitVec 21) (s : State) : Out State :=
  scalarIssue (.bz c off) [c] [] s fun k s =>
    .next (if k.read c = 0 then s.jump k (branchTarget k.pc off) else s.advance k)

/-- BNZ: taken when the register is not zero. -/
def execBnz (c : SReg) (off : BitVec 21) (s : State) : Out State :=
  scalarIssue (.bnz c off) [c] [] s fun k s =>
    .next (if k.read c ≠ 0 then s.jump k (branchTarget k.pc off) else s.advance k)

/-- A predicate branch in element mode goes one way; in a pass group it divides the split: the lanes on which `p` with its
negate bit is decided true are taken, the others fall through (R213). -/
def predBranch (i : Instr) (p : BitVec 3) (neg : Bool) (off : BitVec 21) (way : Bool) (taken : Mask → Mask → Bool) (s : State) : Out State :=
  predIssue i [] p.toNat s fun c s =>
    if c.inPass && (c.bankBusy || s.spillWaits c) then .next s
    else if c.inPass then
      let m := c.lanesOf p.toNat (neg != way)
      let (c, s) := s.dropUndecided c m.2
      .next (s.divide c m.1 (c.exec &&& ~~~m.1) (branchTarget c.pc off))
    else
      .next (if taken c.exec (c.group.predNeg p.toNat neg) then s.jump c (branchTarget c.pc off) else s.advance c)

/-- BANY: taken when (EXEC AND pv) ≠ 0. -/
def execBany (p : BitVec 3) (neg : Bool) (off : BitVec 21) (s : State) : Out State :=
  predBranch (.bany p neg off) p neg off false (fun e pv => e &&& pv != 0) s

/-- BALL: taken when (EXEC AND NOT pv) = 0. -/
def execBall (p : BitVec 3) (neg : Bool) (off : BitVec 21) (s : State) : Out State :=
  predBranch (.ball p neg off) p neg off false (fun e pv => e &&& ~~~pv == 0) s

/-- BNONE: taken when (EXEC AND pv) = 0; in a pass group its taken lanes are the decided-false ones. -/
def execBnone (p : BitVec 3) (neg : Bool) (off : BitVec 21) (s : State) : Out State :=
  predBranch (.bnone p neg off) p neg off true (fun e pv => e &&& pv == 0) s

/-- SPLIT (R17, R18, R106, R202): it reads s24 to s31 first (R394). -/
def execSplit (p : BitVec 3) (neg : Bool) (off : BitVec 21) (s : State) : Out State :=
  predIssue (.split p neg off) [] p.toNat s fun c s =>
    if c.bankBusy || s.spillWaits c then .next s
    else
      let m := c.lanesOf p.toNat neg
      let (c, s) := s.dropUndecided c m.2
      .next (s.divide c m.1 (c.exec &&& ~~~m.1) (branchTarget c.pc off))

/-! Calls and returns (R107). -/

/-- The link register of a split. -/
def linkReg : SReg := 31

/-- CALL: s31 receives the low word of PC + 4. -/
def execCall (off : BitVec 21) (s : State) : Out State :=
  scalarIssue (.call off) [] [linkReg] s fun c s =>
    .next ((s.modGroup c.team.id c.group.gid fun g => g.writeS c.ref.split linkReg ((c.pc + 4).truncate 32)).retire c.ref
      (branchTarget c.pc off))

/-- A jump to PC[63:32] with a register's word; a target that is no multiple of 4 raises ALIGNMENT and the PC stays (R68). -/
def jumpReg (c : Issuer) (low : Word) (s : State) : State :=
  let target : DWord := c.pc.extractLsb' 32 32 ++ low
  if low.extractLsb' 0 2 = 0 then s.retire c.ref target else s.scalarFault c (.alignment, 0) target

/-- RET: to the address in s31. -/
def execRet (s : State) : Out State :=
  scalarIssue .ret [linkReg] [] s fun c s => .next (jumpReg c (c.read linkReg) s)

/-- BX: to the address in sa. -/
def execBx (sa : SReg) (s : State) : Out State :=
  scalarIssue (.bx sa) [sa] [] s fun c s => .next (jumpReg c (c.read sa) s)

/-! Yield (R19). -/

/-- A split's current set goes to the bottom of its stack with a PC, and the top entry resumes under its number (R19). -/
def State.rotate (s : State) (c : Issuer) (pc : DWord) : State :=
  match s.popEntry c.team c.group.gid c.split with
  | .error e => s.areaFault c.team c.group c.ref.split c.split 2 e
  | .ok none => s.retire c.ref pc
  | .ok (some (e, p)) =>
    let cur : LaneSet := { c.split.set with pc := pc }
    let go (s : State) (p : Split) : State :=
      (s.modGroup c.team.id c.group.gid fun g => g.setSplit c.ref.split.val (some { p with set := e })).retire c.ref e.pc
    if p.overflow.isEmpty then go s { p with stack := p.stack ++ [cur] }
    else
      let slot := ((List.range 32).find? fun i => !c.group.usedSlots.contains i).getD 31
      match s.deviceWrite c.asid (s.slotAddr c.team c.launch.record c.group.gid slot) cur.bytes Leaf.isPool with
      | .error e => s.areaFault c.team c.group c.ref.split c.split 1 e.2
      | .ok s => go s { p with overflow := p.overflow ++ [(slot, cur)] }

/-- YIELD: with an empty stack it gives up the issue opportunity, else it rotates to a deferred entry; s24 to s31 are read
first (R394). -/
def execYield (s : State) : Out State :=
  scalarIssue .yield [] [] s fun c s =>
    if c.split.deferred.isEmpty then .next (s.advance c)
    else if c.bankBusy || (!c.split.overflow.isEmpty && !s.spillFree) then .next s
    else .next (s.rotate c (c.pc + 4))

/-- NOP (R116). -/
def execNop (s : State) : Out State := scalarIssue .nop [] [] s fun c s => .next (s.advance c)

end Sys2Proof.Machine
end

