-- ==== Sys2Proof/Machine/Run.lean ====
section
/-! DEFINITION. Running clauses and waiting on flags (R22, R23, R27, R30, R108 to R110). -/

namespace Sys2Proof.Machine

/-- s16 to s31, which `run` captures (R41). -/
def captured : List SReg := (List.range 16).map fun k => BitVec.ofNat 5 (16 + k)

/-- The address of the clause of an index (R69, R108). -/
def Group.clauseAddr (g : Group) (index : BitVec 21) : DWord := (g.lhi ++ g.lbase) + 16 * index.zeroExtend 64

/-- A split number's clause queue is full: with the clause that issues, three (R23, R352). -/
def Group.queueFull (g : Group) (k : Fin 4) : Bool := 3 ≤ (vget g.clauses k.val []).length

/-- A clause placed in the queue with a mask and the captures of R108. -/
def State.enqueue (s : State) (c : Issuer) (m : Mask) (addr : DWord) : State :=
  let e := c.split.set
  let q : Clause := { cid := s.fresh, uid := e.uid, sid := c.split.sid, addr := addr, runPc := e.pc, mask := m, caps := c.group.capture c.ref.split,
                      rmode := c.group.rmode, ftzm := c.group.ftzm, fetched := none, next := 0, issuing := false,
                      past := e.past, order := e.order, after := e.after }
  { s.modGroup c.team.id c.group.gid fun g =>
      { g.modSplit c.ref.split fun p => p.modSet fun e => { e with ran := e.ran ++ [s.fresh], order := e.order ++ [s.fresh] } with
        clauses := vmod g.clauses c.ref.split.val fun qs => qs ++ [q] } with fresh := s.fresh + 1 }

/-- What `run` and `runx` share: the mask is fixed (R22), in a pass group as the decided-true lanes (R213); a full queue stalls. -/
def runClause (i : Instr) (reads : List SReg) (p : BitVec 3) (neg : Bool) (addr : Issuer → DWord) (s : State) : Out State :=
  predIssue i (reads ++ captured) p.toNat s fun c s =>
    if c.group.queueFull c.ref.split then .next s
    else
      let m := c.lanesOf p.toNat neg
      let (c, s) := s.dropUndecided c m.2
      .next ((s.enqueue c m.1 (addr c)).advance c)

/-- RUN (R108). -/
def execRun (p : BitVec 3) (neg : Bool) (index : BitVec 21) (s : State) : Out State :=
  runClause (.run p neg index) [] p neg (fun c => c.group.clauseAddr index) s

/-- RUNX (R108): the index is in sa[20:0]. -/
def execRunx (sa : SReg) (p : BitVec 3) (neg : Bool) (s : State) : Out State :=
  runClause (.runx sa p neg) [sa] p neg (fun c => c.group.clauseAddr ((c.read sa).truncate 21)) s

/-- A clause of the split that has not issued its last instruction and names a flag of a mask, or is not yet fetched (R27). -/
def Issuer.clauseNames (c : Issuer) (mask : BitVec 12) : Bool :=
  c.group.clauses.toList.any fun q => q.any fun k => c.split.set.ran.contains k.cid &&
    match k.fetched with
    | none => true
    | some (h, _) => headerNames h mask

/-- Operations of the group that a flag of a mask tags (R30). -/
def State.tagged (s : State) (c : Issuer) (mask : BitVec 12) : List Nat :=
  (s.ops.filter fun o => o.group? == some (c.team.id, c.group.gid) &&
    match o.flag with | some f => mask.getLsbD f.val | none => false).map (·.id)

/-- WAITK (R27, R30, R110): the split waits for its clauses that name a masked flag and for the flags; its later scalar operations
come after what the flags tagged. -/
def execWaitk (mask : BitVec 12) (s : State) : Out State :=
  scalarIssue (.waitk mask) [] [] s fun c s =>
    if mask != 0 && (c.clauseNames mask || !c.group.idle mask) then .next s
    else
      let ids := s.tagged c mask
      .next ((s.modSplit c.ref fun p => p.modSet fun e => { e with past := unite e.past ids }).advance c)

end Sys2Proof.Machine
end

