-- ==== Sys2Proof/Machine/Barrier.lean ====
section
/-! DEFINITION. Barriers (R34, R283 to R289), `fence` (R290) and `qfence` (R292). -/

namespace Sys2Proof.Machine

/-! Barrier objects (R286, R287). -/

/-- The fields of a barrier object; TX as its 36 bits. -/
structure BarObj where
  quota : Nat
  left  : Nat
  gen   : Nat
  tx    : Nat
  deriving DecidableEq, Repr

def barObj (bs : List Byte) : BarObj :=
  let v := leNat bs
  { quota := bits v 127 96, left := bits v 95 64, gen := bits v 39 36, tx := bits v 35 0 }

/-- The bytes of an object; bits [63:40] are written as zero. -/
def BarObj.bytes (b : BarObj) : List Byte :=
  natLe 16 (b.quota * 2 ^ 96 + b.left * 2 ^ 64 + b.gen * 2 ^ 36 + b.tx)

def BarObj.settle (b : BarObj) : BarObj :=
  if b.left = 0 ∧ b.tx = 0 then { b with gen := (b.gen + 1) % 16, left := b.quota } else b

/-- n arrivals; none when they are refused as OVERARRIVE. -/
def BarObj.arrive (b : BarObj) (n : Nat) : Option BarObj :=
  if n = 0 || b.left < n then none else some { b with left := b.left - n }.settle

def BarObj.owe (b : BarObj) (x : Nat) : BarObj := { b with tx := (b.tx + x) % 2 ^ 36 }.settle
def BarObj.pump (b : BarObj) (x : Nat) : BarObj := { b with tx := (b.tx + 2 ^ 36 - x % 2 ^ 36) % 2 ^ 36 }.settle

/-- The bytes of a barrier as the ordering machine sees them: an object's 16 bytes, the team barrier beyond the scratchpad. -/
def barAddr (obj : Option Nat) : Nat := obj.getD (2 ^ 32)

/-- Homed operations on a barrier: what a return from a wait acquires (R288). -/
def State.barSources (s : State) (team : Nat) (obj : Option Nat) : List Nat :=
  (s.ops.filter fun o => o.isWrite && o.space == .scratch team && o.isHomed && o.addr < barAddr obj + 16 &&
    barAddr obj < o.addr + o.size).map (·.id)

/-- A barrier operation of a split as an atomic at team scope. -/
def Issuer.barOp (c : Issuer) (obj : Option Nat) (order : Order) (past : List Nat) : MemOp :=
  { blankOp c.agent c.asid (.rmw { aop := .swap, b := 0, c := 0, rnd := 0, sat := false, f32 := false }) (.scratch c.team.id)
      (barAddr obj) 16 with uid := c.uid, order := order, scope := .team, past := past }

/-- The operation may be performed: an arrival, which is a release at team scope, once every operation before it is performed, any
other under the conditions of an atomic (R257, R287, R288). -/
def State.barReady (s : State) (o : MemOp) : Bool := s.canIssue [o] && s.mayHome { o with stamp := s.fresh }

/-- A barrier operation done: its place among the team's operations, and an object's new bytes. -/
def State.barDone (s : State) (c : Issuer) (o : MemOp) (new : Option BarObj) : State :=
  let o' := { o with result := some [], rf := s.barSources c.team.id (if o.addr = 2 ^ 32 then none else some o.addr), done := true
                     place := .homed, data := match new with | some b => plainData b.bytes | none => [] }
  let s' := match new with
    | some b => s.setScratch c.team.id ((s.scratchOf c.team.id).writeN o.addr b.bytes)
    | none => s
  (s'.pushOp o').modSplit c.ref fun p => p.modSet fun e => { e with past := unite e.past [s.fresh] }

/-- An object as it stands: an operation that changes no field writes it back, with bits [63:40] zero (R286). -/
def State.barObject (s : State) (team : Nat) (obj : Option Nat) : Option BarObj :=
  obj.map fun a => barObj ((s.scratchOf team).readN a 16)

/-- What an arrival did: the barrier's generation of the arrival, or OVERARRIVE with the generation after it. -/
structure Arrival where
  refused : Bool
  gen  : BitVec 4
  deriving DecidableEq, Repr

/-- An arrival of a split's group at the team barrier, or as n arrivals at an object. -/
def State.arrive (s : State) (c : Issuer) (o : MemOp) (obj : Option Nat) (n : Nat) : State × Arrival :=
  match obj with
  | none =>
    let g := c.team.barGen
    ((s.barDone c o none).modTeam c.team.id fun t => { t with arrived := unite t.arrived [c.group.gid] }.settleBar,
     { refused := false, gen := g })
  | some a =>
    let b := barObj ((s.scratchOf c.team.id).readN a 16)
    match b.arrive n with
    | none => (s.barDone c o (some b), { refused := true, gen := BitVec.ofNat 4 b.gen })
    | some b' => (s.barDone c o (some b'), { refused := false, gen := BitVec.ofNat 4 b.gen })

/-- The generation of a barrier now. -/
def State.barGeneration (s : State) (team : Nat) (obj : Option Nat) : BitVec 4 :=
  match s.team? team with
  | some t => t.generation obj
  | none => 0

/-- The split at the next instruction with a status word. -/
def State.barReturn (s : State) (c : Issuer) (sd : SReg) (v : Word) : State := s.writeRetire c sd v

/-- The group is whole at a team barrier: one live split, no deferred entry (R34). -/
def Group.whole (g : Group) : Bool := g.live.length == 1 && g.live.all fun kp => kp.2.deferred.isEmpty

/-- What every `bar` shares (R34, R93, R219, R285 to R289): the faults at the `bar`, the wait for the group at the team barrier, and
what holds the operation back; an arriving one closes an epoch (R358). -/
def barIssue (i : Instr) (sd sa : SReg) (reads : List SReg) (arriving : Bool) (s : State)
    (k : Issuer → Option Nat → MemOp → State → Out State) : Out State :=
  scalarIssue i (reads ++ if sa = 0 then [] else [sa]) [sd] s fun c s =>
    let obj : Option Nat := if sa = 0 then none else some (c.read sa).toNat
    if c.inPass then .next (s.advance c)
    else
      match obj with
      | some a =>
        if a % 16 ≠ 0 then .next (s.scalarFault c (.alignment, 0) (BitVec.ofNat 64 a))
        else if 1024 * c.launch.record.scratch < a + 16 then .next (s.scalarFault c (.bounds, 0) (BitVec.ofNat 64 a))
        else go c obj s
      | none =>
        if c.group.whole then go c obj s
        else if c.split.deferred.isEmpty || c.group.busy.any (fun b => b.uid == some c.uid) then .next s
        else .next (s.rotate c c.pc)
where
  go (c : Issuer) (obj : Option Nat) (s : State) : Out State :=
    let lanes := (s.ops.filter fun o => match o.cid with | some q => c.split.set.ran.contains q | none => false).map (·.id)
    let o := c.barOp obj (if arriving then .release else .relaxed) (if arriving then unite c.split.set.past lanes else c.split.set.past)
    if arriving && c.split.set.ran.any s.clausePending then .next s
    else if !s.barReady o then .next s
    else if arriving then s.atClose c.team (.scalar c.ref) fun s => k c obj o s
    else k c obj o s

/-- The group's next `bar` after another group was killed returns ABANDONED, once (R289). -/
def State.takeAbandoned (s : State) (c : Issuer) : State :=
  s.modGroup c.team.id c.group.gid fun g => { g with abandoned := false }

/-- An arrival that returns at once: OK or OVERARRIVE, or ABANDONED with the generation after the operation (R284, R289). -/
def arriveOnly (c : Issuer) (sd : SReg) (obj : Option Nat) (o : MemOp) (n : Nat) (s : State) : Out State :=
  let (s', a) := s.arrive c o obj n
  if c.group.abandoned then
    .next ((s'.takeAbandoned c).barReturn c sd (barStatus 1 (s'.barGeneration c.team.id obj)))
  else .next (s'.barReturn c sd (barStatus (if a.refused then 2 else 0) a.gen))

/-- A split waits for a generation to be left (R287). -/
def State.barWait (s : State) (c : Issuer) (w : BarWait) : State :=
  (s.modSplit c.ref fun p => { p with status := .barWait w }).modTeam c.team.id fun t =>
    (t.issued c.group.gid).closeOver (.scalar c.ref)

/-- BAR_MARK (R283 to R289): arrive. -/
def execBarMark (sd sa : SReg) (s : State) : Out State :=
  barIssue (.barMark sd sa) sd sa [] true s fun c obj o s => arriveOnly c sd obj o 1 s

/-- BAR_MARKN (R287): arrive as sb arrivals. -/
def execBarMarkn (sd sa sb : SReg) (s : State) : Out State :=
  barIssue (.barMarkn sd sa sb) sd sa [sb] true s fun c obj o s => arriveOnly c sd obj o (c.read sb).toNat s

/-- BAR_JOIN (R285, R287): arrive and wait for the generation of the arrival to be left. -/
def execBarJoin (sd sa : SReg) (s : State) : Out State :=
  barIssue (.barJoin sd sa) sd sa [] true s fun c obj o s =>
    let (s', a) := s.arrive c o obj 1
    let now := s'.barGeneration c.team.id obj
    if c.group.abandoned then .next ((s'.takeAbandoned c).barReturn c sd (barStatus 1 now))
    else if a.refused then .next (s'.barReturn c sd (barStatus 2 a.gen))
    else if now ≠ a.gen then .next (s'.barReturn c sd (barStatus 0 a.gen))
    else .next (s'.barWait c { obj := obj, gen := a.gen, join := true, sd := sd })

/-- BAR_HOLD (R285 to R287): wait until the generation differs from sb[3:0]; an object is read and written back. -/
def execBarHold (sd sa sb : SReg) (s : State) : Out State :=
  barIssue (.barHold sd sa sb) sd sa [sb] false s fun c obj o s =>
    let t : BitVec 4 := (c.read sb).truncate 4
    let now := s.barGeneration c.team.id obj
    let s' := s.barDone c o (s.barObject c.team.id obj)
    if c.group.abandoned then .next ((s'.takeAbandoned c).barReturn c sd (barStatus 1 now))
    else if now ≠ t then .next (s'.barReturn c sd (barStatus 0 now))
    else .next (s'.barWait c { obj := obj, gen := t, join := false, sd := sd })

/-- BAR_OWE (R287): a byte count added to an object's transaction counter. -/
def execBarOwe (sd sa sb : SReg) (s : State) : Out State :=
  barIssue (.barOwe sd sa sb) sd sa [sb] false s fun c obj o s =>
    let b := barObj ((s.scratchOf c.team.id).readN (barAddr obj) 16)
    let s' := s.barDone c o (some (b.owe (c.read sb).toNat))
    let now := s'.barGeneration c.team.id obj
    if c.group.abandoned then .next ((s'.takeAbandoned c).barReturn c sd (barStatus 1 now))
    else .next (s'.barReturn c sd (barStatus 0 now))

/-- BARRIER_RETURN (R285, R287, R288): a waiting `bar` whose generation has been left returns; what the arrivals released precedes
the split's later operations. -/
def execBarrierReturn (r : SplitRef) (s : State) : Out State :=
  match s.issuerOf r with
  | none => .next s
  | some c =>
    match c.split.status with
    | .running => .next s
    | .barWait w =>
      let now := c.team.generation w.obj
      if now = w.gen || s.halted.contains c.asid then .next s
      else
        let v := barStatus 0 (if w.join then w.gen else now)
        let ids := s.barSources c.team.id w.obj
        .next (((s.modGroup c.team.id c.group.gid fun g => (g.returnBar r.split w v).awaited true).modSplit r fun p => p.modSet fun e =>
          { e with past := unite e.past ids }).boundary c.team.id c.group.gid boundaryFuel)

/-! Fences (R290). -/

/-- FENCE: an entry in the split's program order that the ordering machine heeds; with `.lanes` the lane operations of the split's
clauses precede it, once those have issued. -/
def execFence (lanes : Bool) (kind : BitVec 2) (scope : BitVec 3) (s : State) : Out State :=
  scalarIssue (.fence lanes kind scope) [] [] s fun c s =>
    if c.inPass then .next (s.advance c)
    else if lanes && c.split.set.ran.any s.clausePending then .next s
    else
      s.atClose c.team (.scalar c.ref) fun s =>
        let more := if lanes then
            (s.ops.filter fun o => match o.cid with | some q => c.split.set.ran.contains q | none => false).map (·.id)
          else []
        let past := unite c.split.set.past more
        let f := { blankOp c.agent c.asid (.fence kind.toNat) .mem 0 0 with
          uid := c.uid, scope := (Scope.ofCode scope.toNat).getD .device, past := past, done := true }
        .next (((s.pushOp f).modSplit c.ref fun p => p.modSet fun e => { e with past := unite past [s.fresh] }).advance c)

/-- QFENCE (R265, R292): a join mark in each named queue; the split does not wait. -/
def execQfence (mask : BitVec 8) (s : State) : Out State :=
  scalarIssue (.qfence mask) [] [] s fun c s =>
    if c.inPass then .next (s.advance c)
    else
      let mark := s.fresh
      .next (({ s with fresh := s.fresh + 1 } : State).groupRetire c fun g =>
        ({ g with engines := Vector.ofFn fun j => if mask.getLsbD j.val then g.engines[j] ++ [.mark mark] else g.engines[j] } : Group).dropMarks)

end Sys2Proof.Machine
end

