-- ==== Sys2Proof/Machine/Engine.lean ====
section
/-! DEFINITION. Engine commands (R33, R265, R291, R294): entering a queue, the command whose turn it is, its sector operations
(R264), its end, and its faults (R307, R344, R345, R375). -/

namespace Sys2Proof.Machine

/-! Commands at their turn. -/

/-- An engine command with what it belongs to. -/
structure Active where
  cmd    : Cmd
  team   : Team
  group  : Group
  launch : Launch
  deriving DecidableEq, Repr

/-- A held fault stops a command (R344). -/
def State.cmdHeld (s : State) (id : Nat) : Bool := s.held.any fun h => h.work == .cmd id

/-- A command of a resident team with its group. -/
def State.owned? (s : State) (id : Nat) : Option Active :=
  match s.cmd? id with
  | none => none
  | some c =>
    match s.team? c.team with
    | none => none
    | some t =>
      match t.group? c.group, s.launchOf t with
      | some g, some l => if t.state == .resident && !g.ended then some { cmd := c, team := t, group := g, launch := l } else none
      | _, _ => none

/-- The command whose turn it is in its queue (R265, R291), unless it has ended, its context is halted or a held fault stops it. -/
def State.active? (s : State) (id : Nat) : Option Active :=
  match s.owned? id with
  | none => none
  | some a =>
    if (vget a.group.engines a.cmd.queue []).head? == some (.cmd id) && a.cmd.ending.isNone && !s.halted.contains a.launch.asid && !s.cmdHeld id
    then some a else none

/-- An operation of a command (R264): behind the command's earlier ones, on the path of its group. -/
def State.cmdOp (s : State) (a : Active) (kind : OpKind) (space : Space) (addr size : Nat) (sc : Bool) : MemOp :=
  { blankOp (.engine a.team.id a.group.gid a.team.core a.cmd.id) a.cmd.asid kind space addr size with
    uid := a.cmd.uid, sc := sc, past := unite a.cmd.past ((s.cmdOps a.cmd.id).map (·.id)) }

/-- The agent of a command's operations. -/
def Active.agent (a : Active) : Agent := .engine a.team.id a.group.gid a.team.core a.cmd.id

/-- A write of a command enters the machine. -/
def State.cmdWrite (s : State) (o : MemOp) (data : List (Byte × Byte)) : Except Halt State :=
  if !s.canIssue [o] then .error .wait else .ok (s.pushOp { o with data := data })

/-- A run of writes of a command, each behind the one before, once the first may issue. -/
def State.cmdWrites (s : State) (a : Active) (os : List MemOp) : Except Halt State :=
  match os with
  | [] => .ok s
  | o :: _ =>
    if !s.canIssue [o] then .error .wait
    else .ok (os.foldl (fun s o => s.pushOp { o with past := unite o.past ((s.cmdOps a.cmd.id).map (·.id)) }) s)

/-- Translation and the checks of R239 for a command's access of n bytes. -/
def State.cmdCheck (s : State) (a : Active) (ptr : DWord) (n : Nat) (k : Access) (fmtOk : Leaf → Bool) : Except Halt Leaf :=
  match s.checkAccess (some a.team.core) a.cmd.asid ptr n k fmtOk with
  | .error f => .error (.fault f ptr)
  | .ok l => .ok l

/-- The result of a command's read under a key, the operation of which `issue` gives. -/
def State.cmdRead (s : State) (a : Active) (key : Nat) (issue : Except Halt (MemOp × (State → State))) : Except Halt (List Byte) :=
  s.readBy a.agent a.cmd.uid key issue

/-- A command's read of n bytes of memory within a sector, with the order of its access. -/
def State.cmdLoad (s : State) (a : Active) (ptr : DWord) (n : Nat) (order : Order) (fmtOk : Leaf → Bool) : Except Halt (List Byte) :=
  s.cmdRead a ptr.toNat (
    match s.cmdCheck a ptr n .load fmtOk with
    | .error e => .error e
    | .ok l => .ok ({ s.cmdOp a .load .mem (l.pa ptr) n l.sc with order := order }, fun t => t.usedLeaf (some a.team.core) a.cmd.asid ptr l))

/-- Bytes of memory read by a command in one operation per sector, in ascending order. -/
def State.cmdFetch (s : State) (a : Active) (ptr : DWord) (n : Nat) (fmtOk : Leaf → Bool) : Except Halt (List Byte) :=
  (sectorPieces ptr.toNat n n).foldl (fun acc q =>
    match acc with
    | .error e => .error e
    | .ok bs =>
      match s.cmdLoad a (ptr + BitVec.ofNat 64 q.1) q.2 .relaxed fmtOk with
      | .error e => .error e
      | .ok bs' => .ok (bs ++ bs')) (.ok [])

/-! The end of a command. -/

/-- The split number under which a command's faults are recorded. -/
def Group.splitNumber (g : Group) (uid : Nat) : Nat :=
  match g.live.find? fun kp => kp.2.set.uid == uid with
  | some kp => kp.1.val
  | none => 0

/-- A command ended by a cause: its ring neighbours hear of it, and its token is to receive the cause. -/
def State.abortCmd (s : State) (c : Cmd) (cause : Cause) : State := ((s.notify c).endCmd c.id cause.code).contain cause c.team c.group

/-- The peer of a remote copy, zero for any other command (R338). -/
def Cmd.peerNode (c : Cmd) : Nat :=
  match c.kind with
  | .copy { shape := some p, .. } => if p.skind == 3 || p.dkind == 3 then p.node else 0
  | _ => 0

/-- A fault of a command (R307, R344, R375): TRANSLATION is held, any other cause ends the command and goes to the policy. -/
def State.cmdFault (s : State) (a : Active) (f : AccessFault) (addr : DWord) (src : Nat) : State :=
  let trap := { s.siteTrap a.team a.group (a.group.splitNumber a.cmd.uid) a.cmd.pc src f addr with node := a.cmd.peerNode }
  if f.1.isHeld && (s.asid a.cmd.asid).frsize ≠ 0 then s.takeFault trap a.team.id a.group.gid (.cmd a.cmd.id)
  else (s.record trap).abortCmd a.cmd f.1

/-- What a command's action does when an access halts it. -/
def State.cmdHalt (s : State) (a : Active) (src : Nat) : Halt → State
  | .wait => s
  | .issued s' => s'
  | .fault f addr => s.cmdFault a f addr src
  | .bad key o => (s.mismatch o).cmdFault a (.uncorrectableScratch, 2) (BitVec.ofNat 64 key) src

/-! Entering a queue. -/

/-- A command as its split issues it. -/
def Issuer.command (c : Issuer) (i : Instr) (id : Nat) (tok : SReg) (q : Nat) (kind : CmdKind) : Cmd :=
  { id := id, team := c.team.id, group := c.group.gid, uid := c.uid, asid := c.asid, pc := c.pc, tok := tok, queue := q
    word := (encodeScalar i).getD 0, kind := kind
    past := c.split.set.past, ending := none }

/-- A queue holds 16 commands from issue until completion (R291). -/
def Group.queueStalls (g : Group) (q : Nat) : Bool :=
  16 ≤ ((vget g.engines q []).filter fun x => match x with | .cmd _ => true | .mark _ => false).length

/-- A command enters its queue and its token is busy (R33, R291); of a redundant team copy 0's enters the queue and both tokens
receive its status (R358). A queue number of 8 or above names no queue. -/
def State.enterCommand (s : State) (c : Issuer) (i : Instr) (tok : SReg) (q : Nat) (kind : CmdKind) : Option State :=
  let enter (s : State) (kind : CmdKind) (item : Bool) : State :=
    ({ s with cmds := s.cmds ++ [c.command i s.fresh tok q kind], fresh := s.fresh + 1 } : State).modGroup c.team.id c.group.gid fun g =>
      { g.mark c.ref.split tok s.fresh true with engines := if item then vmod g.engines q fun l => l ++ [.cmd s.fresh] else g.engines }
  match c.team.red with
  | none => some (enter s kind true)
  | some r =>
    if r.copy = 0 then
      some ((enter s kind true).modTeam r.twin fun t => { t with red := t.red.map fun x => { x with mail := [s.fresh] } })
    else
      match r.mail with
      | [] => none
      | id :: _ =>
        let s' := (enter s (.echo id) false).modTeam c.team.id fun t => { t with red := t.red.map fun x => { x with mail := [] } }
        some (s'.finishCmd id)

end Sys2Proof.Machine
end

