-- ==== Sys2Proof/Machine/Shape.lean ====
section
/-! DEFINITION. The shape of a copy: its record (R295 to R297), what each destination byte holds (R298, R300 to R302), SBP records
formed by a pump (R151, R302), 2:4 expansion (R304) and compressed blocks (R303). -/

namespace Sys2Proof.Machine

/-! The record (R295). -/

/-- The fields of a record of 64 bytes. -/
def shapeOf (bs : List Byte) : Shape :=
  let v := leNat bs
  { src := BitVec.ofNat 64 (bits v 63 0), dst := BitVec.ofNat 64 (bits v 127 64), op := bits v 131 128, skind := bits v 135 132,
    dkind := bits v 139 136, efmt := bits v 145 140, banda := bit v 146, node := bits v 177 160, shift := BitVec.ofNat 8 (bits v 185 178),
    const := BitVec.ofNat 32 (bits v 223 192), band := BitVec.ofNat 16 (bits v 239 224), scoff := bits v 255 240, e0 := bits v 287 256,
    e1 := bits v 319 288, e2 := bits v 351 320, v0 := bits v 367 352, v1 := bits v 383 368, s1 := bits v 415 384, s2 := bits v 447 416,
    d1 := bits v 479 448, d2 := bits v 511 480, zero := bits v 159 147 == 0 && bits v 191 186 == 0 }

namespace Shape

/-- The element width in bits: SBP records and raw data are counted in bytes, OP 2 reads elements of 4 bits (R297, R302). -/
def width (p : Shape) : Nat := if p.op = 2 then 4 else if p.efmt == 0x20 || fmtSbp p.efmt then 8 else fmtWidth p.efmt

/-- An extent of 0 (R297). -/
def empty (p : Shape) : Bool := p.e0 == 0 || p.e1 == 0 || p.e2 == 0

/-- An endpoint is accepted (R296, R297), with its kind, address and stride of dimension 1, under the team's tile count. -/
def endOk (p : Shape) (kind addr stride : Nat) (isSrc : Bool) (tiles : Nat) : Bool :=
  match kind with
  | 0 | 3 => true
  | 1 => addr < 2 ^ 32
  | 2 => addr < 16 && addr < tiles && stride == 128 && p.e2 == 1 && p.e1 ≤ 64 && !fmtScaled p.efmt
  | 4 => isSrc && addr == 0 && p.op == 0 && p.efmt < 0x10 && p.width ≤ 32
  | _ => false

/-- The record is valid (R297); `bar` says that the command names a barrier object. -/
def valid (p : Shape) (bar : Bool) (tiles : Nat) : Bool :=
  p.zero && p.op ≤ 2 && p.efmt ≤ 0x20 && p.e0 * p.width % 8 == 0 && (p.width != 6 || p.e0 % 128 == 0) &&
  (p.op != 2 || (p.e0 % 32 == 0 && (p.efmt == 0x1C || p.efmt == 0x1E))) &&
  (p.op != 1 || [8, 16, 32, 64].contains p.width) &&
  !(bar && p.dkind != 1) &&
  p.endOk p.skind p.src.toNat p.s1 true tiles && p.endOk p.dkind p.dst.toNat p.d1 false tiles

/-- Addresses of an endpoint wrap: modulo 2^64, or 2^32 in scratchpad (R298). -/
def modulus (kind : Nat) : Nat := if kind == 0 || kind == 3 then 2 ^ 64 else 2 ^ 32

/-- The row base of a source row, and of a destination row by its two indexes (R296, R298). -/
def srcRow (p : Shape) (i1 i2 : Nat) : Nat :=
  if p.skind = 2 then 128 * i1 else (p.src.toNat + i1 * p.s1 + i2 * p.s2) % modulus p.skind
def dstRow (p : Shape) (i i2 : Nat) : Nat :=
  if p.dkind = 2 then 128 * i else (p.dst.toNat + i * p.d1 + i2 * p.d2) % modulus p.dkind

/-- Destination rows along dimension 1, and the bytes of one (R298, R302); an FP6 row of a tile takes the 32 bytes of zero that
follow it (R160). -/
def rows (p : Shape) : Nat := if p.op = 1 then p.e0 else p.e1
def rowLen (p : Shape) : Nat :=
  if p.op = 1 then p.e1 * p.width / 8
  else if p.op = 2 then p.e0
  else if p.dkind == 2 && p.width == 6 then 128 else p.e0 * p.width / 8

/-- The block length of a block-scaled format, and the blocks of a source row (R163). -/
def block (p : Shape) : Nat := fmtBlock p.efmt
def blocks (p : Shape) : Nat := (p.e0 + p.block - 1) / p.block

/-- The shift area, band or scale array at an address (R295). -/
def area (p : Shape) (kind addr : Nat) : Nat := (addr + 32 * p.scoff) % modulus kind

/-- Row r of the copy (R299). -/
def rowNo (p : Shape) (i1 i2 : Nat) : Nat := i1 + p.e1 * i2

end Shape

/-! Elements in bytes (R160). -/

/-- Some bits of an element's code in a byte: the element, the lowest bit of the code, how many, the lowest bit in the byte. -/
structure Part where
  elem : Nat
  code : Nat
  n    : Nat
  bit  : Nat
  deriving DecidableEq, Repr

/-- What byte o of a row of w-bit elements holds. -/
def rowParts (w o : Nat) : List Part :=
  if w = 6 then
    let u := 128 * (o / 96)
    let k := o % 96
    if k < 64 then (List.range 2).map fun t => { elem := u + 2 * k + t, code := 2, n := 4, bit := 4 * t }
    else (List.range 4).map fun t => { elem := u + 4 * (k - 64) + t, code := 0, n := 2, bit := 2 * t }
  else if 8 ≤ w then [{ elem := o / (w / 8), code := 8 * (o % (w / 8)), n := 8, bit := 0 }]
  else (List.range (8 / w)).map fun t => { elem := 8 / w * o + t, code := 0, n := w, bit := w * t }

/-- Where element j of a row lies: (byte, lowest bit in it, bits, lowest bit of the code). -/
def elemPlaces (w j : Nat) : List (Nat × Nat × Nat × Nat) :=
  if w = 6 then
    let u := 96 * (j / 128)
    let k := j % 128
    [(u + k / 2, 4 * (k % 2), 4, 2), (u + 64 + k / 4, 2 * (k % 4), 2, 0)]
  else if 8 ≤ w then (List.range (w / 8)).map fun t => (j * (w / 8) + t, 0, 8, 8 * t)
  else [(j * w / 8, j * w % 8, w, 0)]

/-- The code of element j, from the bytes of its row. -/
def rowCode (w j : Nat) (get : Nat → Byte) : Nat :=
  (elemPlaces w j).foldl (fun acc q => acc + bits (get q.1).toNat (q.2.1 + q.2.2.1 - 1) q.2.1 * 2 ^ q.2.2.2) 0

/-! 2:4 pages (R304). -/

/-- The chunk of a dense element, and its metadata byte. -/
def chunkBase (w j : Nat) : Nat := j / 128 * (8 * w + 16)
def sparseMeta (w j : Nat) : Nat := chunkBase w j + 8 * w + j % 128 / 8

/-- The bytes that dense element j needs: its metadata, and the two kept values of its group. -/
def sparseBytes (w j : Nat) : List Nat :=
  sparseMeta w j :: (List.range 2).flatMap fun t => (elemPlaces w (2 * (j % 128 / 4) + t)).map fun q => chunkBase w j + q.1

/-- The code of dense element j: with both positions equal the second value alone is written. -/
def sparseCode (w j : Nat) (get : Nat → Byte) : Nat :=
  let g := j % 128 / 4
  let nib := bits (get (sparseMeta w j)).toNat (4 * (g % 2) + 3) (4 * (g % 2))
  let kept (t : Nat) : Nat := rowCode w (2 * g + t) fun o => get (chunkBase w j + o)
  if j % 4 = bits nib 3 2 then kept 1 else if j % 4 = bits nib 1 0 then kept 0 else 0

/-! Compressed pages (R303). -/

/-- A block from its header and slot, none for a refused header; `past` gives the bytes that a mask of 32 words reads beyond the
slot. -/
def decompress (hdr : Nat) (slot : List Byte) (past : Nat → Byte) : Option (List Byte) :=
  match hdr with
  | 0 => some slot
  | 1 => some (List.replicate 256 0)
  | 2 => some ((List.range 256).map fun i => slot.getD (i % 4) 0)
  | 3 =>
    let mask := leNat (slot.take 4)
    some ((List.range 32).flatMap fun j =>
      if bit mask j then (List.range 8).map fun k => let o := 4 + 8 * popcount j mask + k; slot.getD o (past o) else List.replicate 8 0)
  | _ => none

/-- The header that a pump writes for a block, and the bytes at the start of its slot. -/
def compress (bs : List Byte) : Nat × List Byte :=
  let word (j : Nat) : List Byte := (bs.drop (8 * j)).take 8
  let used := (List.range 32).filter fun j => (word j).any (· != 0)
  if used.isEmpty then (1, [])
  else if (List.range 64).all fun j => (bs.drop (4 * j)).take 4 == bs.take 4 then (2, bs.take 4)
  else if 4 + 8 * used.length < 256 then (3, natLe 4 (used.foldl (fun m j => m + 2 ^ j) 0) ++ used.flatMap word)
  else (0, bs)

/-! SBP records (R151, R152, R165, R302). -/

/-- The ladder index of an element: of e2m1, −0 counting as 0, or of i4, −8 counting as −7. -/
def ladderIndex (i4 : Bool) (code : Nat) : Nat :=
  if i4 then (let v := signed 4 code; ((if v < -7 then -7 else v) + 7).toNat)
  else if code % 16 < 8 then 7 + code % 8 else 7 - code % 8

/-- The all-zero record. -/
def zeroRecord : List Byte := natLe 32 (0x80 * 2 ^ 244)

/-- The record of 32 elements with a block shift: a stable sort of the lanes by weight, and the counts. -/
def sbpRecord (i4 : Bool) (codes : List Nat) (shift : BitVec 8) : List Byte :=
  if shift = 0x80 then zeroRecord
  else
    let idx := codes.map (ladderIndex i4)
    let lanes (j : Nat) : List Nat := (List.range 32).filter fun k => idx.getD k 7 == j
    let perm := ((List.range 15).flatMap lanes).zipIdx.foldl (fun acc (l, k) => acc + l * 2 ^ (5 * k)) 0
    let counts := (List.range 14).foldl (fun acc j => acc + (lanes j).length * 2 ^ (160 + 6 * j)) 0
    natLe 32 (perm + counts + shift.toNat * 2 ^ 244)

/-! What a destination byte holds (R298 to R302). -/

/-- The content of a destination byte: byte o of a row under OP 0, byte k of an element under OP 1, byte k of the record of a run
under OP 2, the zero that fills an FP6 row of a tile, the shift of a block, a byte of the band. -/
inductive Fill where
  | row    (i1 i2 o : Nat)
  | elem   (i0 i1 i2 k : Nat)
  | record (i1 i2 run k : Nat)
  | zero
  | shift  (i1 i2 b : Nat)
  | band   (k : Nat)
  deriving DecidableEq, Repr

namespace Shape

/-- The offset of an address within a row at a base. -/
def offset (kind a base : Nat) : Nat := (a + modulus kind - base) % modulus kind

/-- The element byte at a destination address: of the elements that share it, the one with the greatest (i2, i1, i0). -/
def elemFill (p : Shape) (a : Nat) : Option Fill :=
  let o (i i2 : Nat) : Nat := offset p.dkind a (p.dstRow i i2)
  (List.range p.e2).foldl (fun acc i2 =>
    let hits := (List.range p.rows).filter fun i => o i i2 < p.rowLen
    if p.op = 1 then
      let b := p.width / 8
      match hits with
      | [] => acc
      | i :: is =>
        let best := is.foldl (fun m i => if o m i2 / b ≤ o i i2 / b then i else m) i
        some (.elem best (o best i2 / b) i2 (o best i2 % b))
    else
      match hits.getLast? with
      | none => acc
      | some i1 =>
        let x := o i1 i2
        if p.op = 2 then some (.record i1 i2 (x / 32) (x % 32))
        else if p.dkind == 2 && p.width == 6 && 96 ≤ x then some .zero else some (.row i1 i2 x)) none

/-- The copy writes shift counts at a byte address of its own: at a scratchpad destination, or as the scale array of OP 1. -/
def writesShifts (p : Shape) : Bool := fmtScaled p.efmt && (p.dkind == 1 || p.op == 1)

/-- A shift byte or a band byte at a destination address (R299, R301). -/
def areaFill (p : Shape) (a : Nat) : Option Fill :=
  let x := offset p.dkind a (p.area p.dkind p.dst.toNat)
  let band := if p.dkind == 1 && fmtBand p.efmt then
      let b := if fmtSbp p.efmt then 0 else if p.banda then 2048 else 1024
      if b ≤ x && x < b + 2 then some (Fill.band (x - b)) else none
    else none
  match band with
  | some f => some f
  | none =>
    if !p.writesShifts then none
    else if p.op = 1 then
      if x / p.blocks < p.e1 then some (.shift (x / p.blocks) (p.e2 - 1) (x % p.blocks)) else none
    else
      -- of the rows whose shifts share the byte, the last
      let r := Nat.min (x / 32) (p.e1 * p.e2 - 1)
      if p.e1 * p.e2 != 0 && x - 32 * r < p.blocks then some (.shift (r % p.e1) (r / p.e1) (x - 32 * r)) else none

/-- What a destination byte holds, if the copy writes it. -/
def fill (p : Shape) (a : Nat) : Option Fill := match p.areaFill a with | some f => some f | none => p.elemFill a

/-- The sectors of n bytes from an address. -/
def span (kind a n : Nat) : List Nat :=
  if n = 0 then [] else (List.range ((a % 32 + n + 31) / 32)).map fun k => (a / 32 + k) % (modulus kind / 32)

/-- Insertion into a rising list without repeats. -/
def insertSector (x : Nat) : List Nat → List Nat
  | [] => [x]
  | y :: ys => if x < y then x :: y :: ys else if x = y then y :: ys else y :: insertSector x ys

/-- The destination sectors in ascending order (R298); a tile ends at its 64th row. -/
def sectors (p : Shape) : List Nat :=
  let elems := (List.range p.e2).flatMap fun i2 => (List.range p.rows).flatMap fun i => span p.dkind (p.dstRow i i2) p.rowLen
  let base := p.area p.dkind p.dst.toNat
  let shifts := if !p.writesShifts then []
    else if p.op = 1 then span p.dkind base (p.e1 * p.blocks)
    else (List.range (p.e1 * p.e2)).flatMap fun r => span p.dkind ((base + 32 * r) % modulus p.dkind) p.blocks
  let band := if p.dkind == 1 && fmtBand p.efmt then
      span p.dkind ((base + if fmtSbp p.efmt then 0 else if p.banda then 2048 else 1024) % modulus p.dkind) 2 else []
  ((elems ++ shifts ++ band).foldl (fun acc x => insertSector x acc) []).filter fun x => p.dkind != 2 || x < 256

/-- An element outside the valid source (R300). -/
def outside (p : Shape) (i0 i1 : Nat) : Bool := (p.v0 != 0 && p.v0 ≤ i0) || (p.v1 != 0 && p.v1 ≤ i1)

/-- The elements whose codes a fill reads. -/
def reads (p : Shape) : Fill → List (Nat × Nat × Nat)
  | .row i1 i2 o => (rowParts p.width o).map fun q => (q.elem, i1, i2)
  | .elem i0 i1 i2 _ => [(i0, i1, i2)]
  | .record i1 i2 run _ => (List.range 32).map fun k => (32 * run + k, i1, i2)
  | _ => []

/-- The value of a fill, from the codes of the elements and the stored shifts. -/
def value (p : Shape) (code : Nat → Nat → Nat → Nat) (stored : Nat → Nat → Nat → Byte) : Fill → Byte
  | .row i1 i2 o =>
    BitVec.ofNat 8 ((rowParts p.width o).foldl (fun acc q => acc + bits (code q.elem i1 i2) (q.code + q.n - 1) q.code * 2 ^ q.bit) 0)
  | .elem i0 i1 i2 k => BitVec.ofNat 8 (code i0 i1 i2 / 2 ^ (8 * k))
  | .record i1 i2 run k =>
    (if p.outside (32 * run) i1 then zeroRecord
     else sbpRecord (p.efmt == 0x1E) ((List.range 32).map fun j => code (32 * run + j) i1 i2) p.shift).getD k 0
  | .zero => 0
  | .shift i1 i2 b => if p.outside (b * p.block) i1 then 0x80 else stored i1 i2 b
  | .band k => BitVec.ofNat 8 (p.band.toNat / 2 ^ (8 * k))

/-- The blocks that begin in a byte of a row: those whose first element does (R237, R299). -/
def blocksAt (p : Shape) : Fill → List (Nat × Nat × Nat)
  | .row i1 i2 o =>
    ((rowParts p.width o).filter fun q => q.elem % p.block == 0 && (if p.width = 6 then q.code == 2 else q.code == 0)).map fun q =>
      (i1, i2, q.elem / p.block)
  | _ => []

/-- The format code under which an endpoint's page is held against EFMT (R299, R302). -/
def pageCode (p : Shape) (isSrc : Bool) : Nat :=
  if p.op = 2 && isSrc then (if p.efmt == 0x1C then 0x08 else 0x0C) else p.efmt

end Shape

/-- The 2:4 page whose elements have a format code (R299). -/
def sparseFmt (efmt : Nat) : Nat :=
  if efmt == 0x04 then 0x21 else if efmt == 0x02 then 0x22 else if efmt == 0x0A then 0x23 else 0x24

/-- A page agrees with a format code at an endpoint (R299); 2:4 pages are sources only. -/
def pageAgrees (efmt : Nat) (isSrc sparse : Bool) (fmt : Nat) : Bool :=
  if sparse then
    isSrc && ((fmt == 0x21 && efmt == 0x04) || (fmt == 0x22 && efmt == 0x02) || (fmt == 0x23 && efmt == 0x0A) || (fmt == 0x24 && efmt == 0x08))
  else if fmtScaled efmt then fmt == efmt
  else fmt == 0x20 || ((fmt ≤ 0x0F || fmtSbp fmt) && (fmt == efmt || efmt == 0x20))

end Sys2Proof.Machine
end

