-- ==== Sys2Proof/Machine/Copy.lean ====
section
/-! DEFINITION. Pump copies: `cpy`, `cpys` (R293, R294), the start of a copy (R297, R305) and the movement of a sector (R298 to R304,
R306, R307, R368). -/

namespace Sys2Proof.Machine

/-! Issue (R293). -/

/-- A copy command enters its queue; the split waits while the queue is full. -/
def State.issueCopy (s : State) (c : Issuer) (i : Instr) (sd : SReg) (q : BitVec 3) (k : CopyState) : Out State :=
  if c.group.queueStalls q.toNat then .next s
  else
    s.atClose c.team (.scalar c.ref) fun s =>
      match s.enterCommand c i sd q.toNat (.copy k) with
      | none => .next s
      | some s => .next (s.advance c)

/-- What both forms share: the checks at issue in their order. -/
def copyIssue (i : Instr) (sd sa sb : SReg) (bar : Bool) (s : State) (k : Issuer → CopyState → State → Out State) : Out State :=
  commandIssue i (regsFrom sa 2 ++ if bar then [sb] else []) sd s fun c s =>
    let rec_ := c.pair sa
    let obj := (c.read sb).toNat
    if c.inPass then .next (s.passEffects c)
    else if rec_.toNat % 64 ≠ 0 then .next (s.scalarFault c (.alignment, 0) rec_)
    else if bar && obj % 16 != 0 then .next (s.scalarFault c (.alignment, 0) (BitVec.ofNat 64 obj))
    else if bar && 1024 * c.launch.record.scratch < obj + 16 then .next (s.scalarFault c (.bounds, 0) (BitVec.ofNat 64 obj))
    else k c { record := rec_, bar := if bar then some obj else none, half := none, shape := none, todo := [], asked := none } s

/-- CPY (R293): the record is read when the command's turn comes (COPY_START). -/
def execCpy (sd sa sb : SReg) (bar : Bool) (q : BitVec 3) (s : State) : Out State :=
  copyIssue (.cpy sd sa sb bar q) sd sa sb bar s fun c k s => s.issueCopy c (.cpy sd sa sb bar q) sd q k

/-- A copy with its record read. -/
def CopyState.withShape (k : CopyState) (p : Shape) : CopyState :=
  { k with shape := some p, todo := if p.empty then [] else p.sectors }

/-- CPYS (R293, R305): the record is read, sector 0 before sector 1, and validated before the next instruction issues. -/
def execCpys (sd sa sb : SReg) (bar : Bool) (q : BitVec 3) (s : State) : Out State :=
  copyIssue (.cpys sd sa sb bar q) sd sa sb bar s fun c k s =>
    if c.group.queueStalls q.toNat then .next s
    else
      s.atClose c.team (.scalar c.ref) fun s =>
        match s.splitReads c k.record 2 Leaf.plainFmt with
        | .error h => .next (s.splitHalt c (fun s f a => s.scalarFault c f a) h)
        | .ok bs =>
          let p := shapeOf bs
          if !p.valid bar c.launch.record.tiles then .next ((s.splitTaken c).scalarFault c (.illegalEncoding, 0) 0)
          else
            match (s.splitTaken c).enterCommand c (.cpys sd sa sb bar q) sd q.toNat (.copy (k.withShape p)) with
            | none => .next s
            | some s => .next (s.advance c)

/-! The start (R297, R305). -/

/-- COPY_START: one sector of the record is read per start, sector 0 first; the record is then validated, and an invalid record or
a zero extent ends the copy. -/
def execCopyStart (cmd : Nat) (s : State) : Out State :=
  match s.active? cmd with
  | none => .next s
  | some a =>
    match a.cmd.kind with
    | .copy k =>
      match k.shape with
      | some _ => if k.todo.isEmpty then .next (s.endCmd cmd 0) else .next s
      | none =>
        match s.cmdFetch a (k.record + if k.half.isNone then 0 else 32) 32 Leaf.plainFmt with
        | .error h => .next (s.cmdHalt a 4 h)
        | .ok bs =>
          match k.half with
          | none => .next (s.modCmd cmd fun c => { c with kind := .copy { k with half := some bs } })
          | some lo =>
            let p := shapeOf (lo ++ bs)
            if !p.valid k.bar.isSome a.launch.record.tiles then .next (s.endCmd cmd 1)
            else
              let s := (s.cmdTaken cmd).modCmd cmd fun c => { c with kind := .copy (k.withShape p) }
              if p.empty then .next (s.endCmd cmd 0) else .next s
    | _ => .next s

/-! Sources. -/

/-- Sectors read so far, by their number in the source's address space. -/
abbrev Sectors := List (Nat × List Byte)

/-- A byte of the sectors read. -/
def Sectors.get (m : Sectors) (a : Nat) : Byte :=
  match m.find? fun x => x.1 == a / 32 with
  | some x => x.2.getD (a % 32) 0
  | none => 0

/-- The header of the block at a physical address of a compressed page (R237). -/
def Leaf.header (l : Leaf) (pa : Nat) : Nat := l.aux + (pa - l.frame) / 256

/-- The scale byte of the block that begins at a byte of a block-scaled page (R237). -/
def Leaf.scaleAddr (l : Leaf) (ptr : DWord) : Nat :=
  let w := fmtWidth l.fmt
  let x := bits ptr.toNat 56 0 % l.size
  let e := match rowParts w x with | q :: _ => q.elem | [] => 0
  let n := fmtBlock l.fmt
  l.aux + e / l.row * ((l.row + n - 1) / n) + e % l.row / n

/-- A row of the source lies on a 2:4 page (R304), by the page of its first byte, or as the remote device has answered. -/
def State.sparseRow (s : State) (a : Active) (p : Shape) (i1 i2 : Nat) : Bool :=
  match p.skind, a.cmd.kind with
  | 0, _ =>
    (match s.translate (some a.team.core) a.cmd.asid (BitVec.ofNat 64 (p.srcRow i1 i2)) with
     | .leaf l => 0x21 ≤ l.fmt
     | _ => false)
  | 3, .copy { asked := some sparse, .. } => sparse
  | _, _ => false

/-- The source addresses of an element's bytes. -/
def State.elemAddrs (s : State) (a : Active) (p : Shape) (e : Nat × Nat × Nat) : List (Nat × Bool) :=
  let sparse := s.sparseRow a p e.2.1 e.2.2
  (if sparse then sparseBytes p.width e.1 else (elemPlaces p.width e.1).map (·.1)).map fun o =>
    ((p.srcRow e.2.1 e.2.2 + o) % Shape.modulus p.skind, sparse)

/-- The address of a stored shift at a scratchpad source (R299). -/
def Shape.shiftAddr (p : Shape) (i1 i2 b : Nat) : Nat := (p.area 1 p.src.toNat + 32 * p.rowNo i1 i2 + b) % 2 ^ 32

/-- The source bytes that fills and blocks need, with the kind of their page. -/
def State.needs (s : State) (a : Active) (p : Shape) (fills : List Fill) (blocks : List (Nat × Nat × Nat)) : List (Nat × Bool) :=
  if p.skind = 4 then []
  else
    let elems := (fills.flatMap p.reads).filter fun e => !p.outside e.1 e.2.1
    elems.flatMap (s.elemAddrs a p) ++ (if p.skind = 1 then blocks.map fun b => (p.shiftAddr b.1 b.2.1 b.2.2, false) else [])

/-- One source sector read (R299, R303, R304): `first` is the first byte needed of it. A block of a compressed page is read whole,
at its home. -/
def State.readSector (s : State) (a : Active) (p : Shape) (sec first : Nat) (sparse : Bool) : Except Halt Sectors :=
  match p.skind with
  | 0 =>
    let ptr := BitVec.ofNat 64 (32 * sec)
    let block := 2 ^ 67 + 32 * (sec - sec % 8)
    let used (l : Leaf) (s : State) : State := s.usedLeaf (some a.team.core) a.cmd.asid ptr l
    let page := s.checkAccess (some a.team.core) a.cmd.asid ptr 32 .load fun l => pageAgrees (p.pageCode true) true sparse l.fmt
    let op (f : Leaf → MemOp) : Except Halt (MemOp × (State → State)) :=
      match page with
      | .error f => .error (.fault f (BitVec.ofNat 64 first))
      | .ok l => .ok (f l, used l)
    if (match page with | .ok l => l.cmp | .error _ => false) || (s.reading a.agent a.cmd.uid block).isSome then
      match s.cmdRead a block (op fun l =>
        let pa := l.pa ptr - l.pa ptr % 256
        s.cmdOp a (.blockLoad (l.header pa)) .mem pa 256 l.sc) with
      | .error e => .error e
      | .ok bs =>
        match decompress (bs.headD 0).toNat (bs.drop 1) fun o => (Config.freeWord (block + o)).truncate 8 with
        | none => .error (.fault (.formatAccess, 0) (BitVec.ofNat 64 first))
        | some bs => .ok ((List.range 8).map fun k => (sec - sec % 8 + k, (bs.drop (32 * k)).take 32))
    else (s.cmdRead a (32 * sec) (op fun l => s.cmdOp a .load .mem (l.pa ptr) 32 l.sc)).map fun bs => [(sec, bs)]
  | 1 =>
    if 1024 * a.launch.record.scratch < 32 * sec + 32 then .error (.fault (.bounds, 0) (BitVec.ofNat 64 first))
    else (s.cmdRead a (2 ^ 66 + 32 * sec) (.ok (s.cmdOp a .load (.scratch a.team.id) (32 * sec) 32 false, id))).map fun bs => [(sec, bs)]
  | 2 =>
    -- the spec states nothing of bytes beyond a tile's 64 rows
    if sec < 256 then .ok [(sec, ((a.team.tiles[p.src.toNat]?).getD []).readN (32 * sec) 32)]
    else .ok [(sec, (List.range 32).map fun j => (Config.freeWord (s.choice + j)).truncate 8)]
  | _ => .ok []

/-- The sectors of needed bytes, ascending, each with the first byte needed of it and its page's kind. -/
def needSectors (bytes : List (Nat × Bool)) : List (Nat × Nat × Bool) :=
  let secs := bytes.foldl (fun acc b => Shape.insertSector (b.1 / 32) acc) []
  secs.map fun k =>
    let mine := bytes.filter fun b => b.1 / 32 == k
    (k, mine.foldl (fun m b => if b.1 < m then b.1 else m) (32 * k + 31), mine.any (·.2))

/-- Every source sector that a destination sector needs, in ascending order (R264). -/
def State.readSectors (s : State) (a : Active) (p : Shape) (bytes : List (Nat × Bool)) : Except Halt Sectors :=
  (needSectors bytes).foldl (fun acc k =>
    match acc with
    | .error e => .error e
    | .ok m =>
      if m.any fun x => x.1 == k.1 then .ok m
      else (s.readSector a p k.1 k.2.1 k.2.2).map fun m' => m ++ m') (.ok [])

/-- The first byte of a block's first element in the source row. -/
def Shape.blockPtr (p : Shape) (b : Nat × Nat × Nat) : Nat :=
  (p.srcRow b.1 b.2.1 + match elemPlaces p.width (b.2.2 * p.block) with | q :: _ => q.1 | [] => 0) % Shape.modulus p.skind

/-- Stored shifts read from scale pages, one operation per sector (R237, R264, R299). -/
def State.readShifts (s : State) (a : Active) (p : Shape) (blocks : List (Nat × Nat × Nat)) : Except Halt (List ((Nat × Nat × Nat) × Byte)) :=
  if p.skind ≠ 0 then .ok []
  else
    blocks.foldl (fun acc b =>
      match acc with
      | .error e => .error e
      | .ok m =>
        let ptr := BitVec.ofNat 64 (p.blockPtr b)
        match s.cmdCheck a ptr 1 .load fun l => pageAgrees (p.pageCode true) true false l.fmt with
        | .error e => .error e
        | .ok l =>
          let x := l.scaleAddr ptr
          let sec := x - x % 32
          (s.cmdRead a (2 ^ 70 + sec) (.ok (s.cmdOp a .load .mem sec 32 l.sc, fun t => t.usedLeaf (some a.team.core) a.cmd.asid ptr l))).map
            fun bs => m ++ [(b, bs.getD (x % 32) 0)]) (.ok [])

/-- What a remote node's answer holds: its sectors in ascending order, then a shift byte for each block asked for. -/
def answerOf (bytes : List (Nat × Bool)) (blocks : List (Nat × Nat × Nat)) (remote : List Byte) : Sectors × List ((Nat × Nat × Nat) × Byte) :=
  let secs := needSectors bytes
  (secs.zipIdx.map fun (k, i) => (k.1, (remote.drop (32 * i)).take 32),
   blocks.zipIdx.map fun (b, i) => (b, remote.getD (32 * secs.length + i) 0))

/-! Destinations. -/

/-- Bytes of a tile (R160). -/
def Team.writeTile (t : Team) (n a : Nat) (data : List (Byte × Byte)) : Team :=
  { t with tiles := t.tiles.mapIdx fun i m => if i == n then m.writeMasked a data else m }

/-- Destination bytes of sectors, each with its fill. -/
def Shape.fills (p : Shape) (secs : List Nat) : List (Option Fill) := secs.flatMap fun k => (List.range 32).map fun j => p.fill (32 * k + j)

/-- The blocks whose shifts a destination needs: those that it writes in an area of its own, and at a memory page those that begin
in its bytes. Blocks wholly outside the valid source are left out (R300). -/
def Shape.blocksOf (p : Shape) (fills : List Fill) : List (Nat × Nat × Nat) :=
  if !fmtScaled p.efmt then []
  else
    let own := fills.filterMap fun f => match f with | .shift i1 i2 b => some (i1, i2, b) | _ => none
    own ++ if p.op = 0 && p.dkind != 1 then fills.flatMap p.blocksAt else []

/-- Bytes at their addresses as operations of a command, one per sector in ascending order (R264). -/
def State.sectorWrites (s : State) (a : Active) (bytes : List (Nat × Byte)) (sc : Bool) : List MemOp :=
  (bytes.foldl (fun acc x => Shape.insertSector (x.1 / 32) acc) []).map fun k =>
    { s.cmdOp a .store .mem (32 * k) 32 sc with
      data := (List.range 32).map fun j => match bytes.find? fun x => x.1 == 32 * k + j with | some x => (x.2, 0xFF) | none => (0, 0) }

/-- The shift bytes that a destination sector carries to the scale page of its page: those of the blocks that begin in it (R237, R299). -/
def Shape.scaleBytes (p : Shape) (l : Leaf) (stored : Nat → Nat → Nat → Byte) (fills : List (Nat × Fill)) : List (Nat × Byte) :=
  if !fmtScaled p.efmt || p.op ≠ 0 then []
  else
    fills.flatMap fun f => (p.blocksAt f.2).map fun b =>
      (l.scaleAddr (BitVec.ofNat 64 f.1), p.value (fun _ _ _ => 0) stored (.shift b.1 b.2.1 b.2.2))

/-- The destination sectors of one operation: a block of a compressed page is one operation (R303). -/
def State.unit (s : State) (a : Active) (p : Shape) (todo : List Nat) : List Nat :=
  match todo with
  | [] => []
  | sec :: rest =>
    let cmp := p.dkind == 0 && match s.translate (some a.team.core) a.cmd.asid (BitVec.ofNat 64 (32 * sec)) with
      | .leaf l => l.cmp
      | _ => false
    if cmp then sec :: rest.filter fun k => k / 8 == sec / 8 else [sec]

/-- The bytes of destination sectors written, with the bits that the copy writes (R298, R299, R303). -/
def State.writeUnit (s : State) (a : Active) (p : Shape) (secs : List Nat) (fills : List (Nat × Fill))
    (value : Fill → Byte) (stored : Nat → Nat → Nat → Byte) : Except Halt State :=
  let sec := secs.headD 0
  let at_ (x : Nat) : Byte × Byte := match fills.find? fun f => f.1 == x with | some f => (value f.2, 0xFF) | none => (0, 0)
  let data := (List.range 32).map fun j => at_ (32 * sec + j)
  let first := match fills with | f :: _ => f.1 | [] => 32 * sec
  match p.dkind with
  | 0 =>
    let ptr := BitVec.ofNat 64 (32 * sec)
    let array := fills.all fun f => match f.2 with | .shift _ _ _ => true | _ => false
    let code := if array then 0x20 else p.pageCode false
    match s.checkAccess (some a.team.core) a.cmd.asid ptr 32 .store fun l => pageAgrees code false false l.fmt with
    | .error f => .error (.fault f (BitVec.ofNat 64 first))
    | .ok l =>
      let s := s.usedLeaf (some a.team.core) a.cmd.asid ptr l
      if l.cmp then
        let pa := l.pa ptr - l.pa ptr % 256
        let base := 32 * (sec - sec % 8)
        if 4 ≤ (s.mem.read (l.header pa)).toNat then .error (.fault (.formatAccess, 0) (BitVec.ofNat 64 first))
        else s.cmdWrite (s.cmdOp a (.block (l.header pa)) .mem pa 256 l.sc) ((List.range 256).map fun j => at_ (base + j))
      else s.cmdWrites a ({ s.cmdOp a .store .mem (l.pa ptr) 32 l.sc with data := data } :: s.sectorWrites a (p.scaleBytes l stored fills) l.sc)
  | 1 =>
    if 1024 * a.launch.record.scratch < 32 * sec + 32 then .error (.fault (.bounds, 0) (BitVec.ofNat 64 first))
    else s.cmdWrite (s.cmdOp a .store (.scratch a.team.id) (32 * sec) 32 false) data
  | 2 => .ok (s.modTeam a.team.id fun t => t.writeTile p.dst.toNat (32 * sec) data)
  | _ =>
    let scales := if fmtScaled p.efmt && p.op = 0 then
        (fills.flatMap fun f => p.blocksAt f.2).map fun b => some (p.value (fun _ _ _ => 0) stored (.shift b.1 b.2.1 b.2.2)) else []
    match s.cmdWrite (s.cmdOp a .store (.remote p.node) (32 * sec) 32 false) data with
    | .error e => .error e
    | .ok s => .ok { s with sent := s.sent ++ [.write p.node a.cmd.asid (BitVec.ofNat 64 (32 * sec)) p.efmt
            ((data.map fun x => if x.2 = 0 then none else some x.1) ++ scales)] }

/-- A sector, or a compressed block, formed and written: its source is read first, or asked of the remote device and awaited. -/
def State.pump (s : State) (a : Active) (k : CopyState) (p : Shape) (remote : RemoteInput) : Except Halt State :=
  let secs := s.unit a p k.todo
  let addrs := secs.flatMap fun k => (List.range 32).map (32 * k + ·)
  let fills := addrs.filterMap fun x => (p.fill x).map fun f => (x, f)
  let blocks := (p.blocksOf (fills.map (·.2))).filter fun b => !p.outside (b.2.2 * p.block) b.1
  let bytes := s.needs a p (fills.map (·.2)) blocks
  let code (m : Sectors) (i0 i1 i2 : Nat) : Nat :=
    if p.outside i0 i1 then 0
    else if p.skind = 4 then p.const.toNat % 2 ^ p.width
    else
      let get (o : Nat) : Byte := m.get ((p.srcRow i1 i2 + o) % Shape.modulus p.skind)
      if s.sparseRow a p i1 i2 then sparseCode p.width i0 get else rowCode p.width i0 get
  let finish (m : Sectors) (sh : List ((Nat × Nat × Nat) × Byte)) : Except Halt State :=
    let stored (i1 i2 b : Nat) : Byte :=
      if p.skind = 1 then m.get (p.shiftAddr i1 i2 b) else
      match sh.find? fun x => x.1 == (i1, i2, b) with
      | some x => x.2
      | none => 0
    (s.writeUnit a p secs fills (p.value (code m) stored) stored).map fun s =>
      (s.cmdTaken a.cmd.id).modCmd a.cmd.id fun c =>
        { c with kind := .copy { k with todo := k.todo.filter fun x => !secs.contains x, asked := none } }
  let ask (sparse : Bool) : State :=
    let s := s.modCmd a.cmd.id fun c => { c with kind := .copy { k with asked := some sparse } }
    let need := match s.cmd? a.cmd.id with | some c => s.needs { a with cmd := c } p (fills.map (·.2)) blocks | none => bytes
    { s with sent := s.sent ++ (needSectors need).map fun x => .ask p.node a.cmd.asid (BitVec.ofNat 64 (32 * x.1)) p.efmt }
  if p.skind = 3 then
    if bytes.isEmpty && blocks.isEmpty then finish [] []
    else
      match k.asked, remote with
      | none, _ => .ok (ask false)
      | some false, .data true _ => if pageAgrees p.efmt true true (sparseFmt p.efmt) then .ok (ask true) else .error .wait
      | some sparse, .data x got =>
        if x == sparse && got.length = 32 * (needSectors bytes).length + blocks.length then
          let (m, sh) := answerOf bytes blocks got
          finish m sh
        else .error .wait
      | _, _ => .error .wait
  else
    match s.readSectors a p bytes with
    | .error e => .error e
    | .ok m =>
      match s.readShifts a p blocks with
      | .error e => .error e
      | .ok sh => finish m sh

/-- The fabric peer's state; a node that is no peer has no route (R367). -/
def State.peer? (s : State) (node : Nat) : Option PeerState := (s.peers.find? fun p => p.node == node).map (·.state)

/-- The cause of a code (R336). -/
def causeOf (code : Nat) : Option Cause :=
  [Cause.illegalEncoding, .illegalClause, .xnFetch, .translation, .permission, .tagMismatch, .bounds, .formatAccess, .alignment,
   .splitMatrix, .queueConfig, .intervalMode, .uncorrectableReg, .uncorrectableScratch, .watchdog, .remoteLost, .userTrap,
   .contextArea].find? fun c => c.code == code

/-- The end of a remote request of a command (R307, R368): its write is performed there, or a cause that arose there ends the copy. -/
def State.remoteDone (s : State) (cmd cause : Nat) : State :=
  let away := (s.cmdOps cmd).filter fun o => o.space != .mem && !o.isHomed && match o.space with | .remote _ => true | _ => false
  let s := away.foldl (fun s o => s.setOp { o with place := .homed, done := true }) s
  match causeOf cause, s.cmd? cmd with
  | some f, some c => if c.ending.isNone then s.abortCmd c f else s.finishCmd cmd
  | _, _ => s.finishCmd cmd

/-- A sector that a copy has written on another device awaits its answer. -/
def State.remotePending (s : State) (cmd : Nat) : Bool :=
  (s.cmdOps cmd).any fun o => !o.isHomed && match o.space with | .remote _ => true | _ => false

/-- Some pump of a die is in service (R356, R357). -/
def State.pumpFree (s : State) (die : Nat) : Bool := (List.range 16).any fun k => s.inService (.pump (16 * die + k))

/-- PUMP_SECTOR: the next destination sector of a copy (R298), by a pump of the die that is in service (R356). `remote` is what the fabric
brought for it. A copy that names a tile waits for the loops that name it (R175), one with a remote endpoint for its peer (R367), and
one that writes another device for the end of its last sector there (R307). -/
def execPumpSector (cmd : Nat) (remote : RemoteInput) (s : State) : Out State :=
  match remote with
  | .done cause => .next (s.remoteDone cmd cause)
  | _ =>
    match s.active? cmd with
    | none => .next s
    | some a =>
      match a.cmd.kind with
      | .copy k =>
        match k.shape with
        | none => .next s
        | some p =>
          let far := p.skind = 3 || p.dkind = 3
          if s.remotePending cmd then .next s
          else if k.todo.isEmpty then .next (s.endCmd cmd 0)
          else if (p.skind = 2 && s.tileBusy a.team.id p.src.toNat) || (p.dkind = 2 && s.tileBusy a.team.id p.dst.toNat) then .next s
          else if (far && s.peer? p.node != some .up) || !s.pumpFree (dieOf a.team.core) then .next s
          else
            match s.pump a k p remote with
            | .error h => .next (s.cmdHalt a 4 h)
            | .ok s' =>
              match s'.cmd? cmd with
              | some { kind := .copy k', .. } => if k'.todo.isEmpty && !s'.remotePending cmd then .next (s'.endCmd cmd 0) else .next s'
              | _ => .next s'
      | _ => .next s

end Sys2Proof.Machine
end

