-- ==== Sys2Proof/Machine/Collective.lean ====
section
/-! DEFINITION. Siphon collectives: `siph` (R362), the start of a collective (R369, R370), the gate and the steps of the ring (R363,
R371, R372), lost members (R373), the status array and the token (R364, R375). -/

namespace Sys2Proof.Machine

/-! Issue (R362). -/

/-- SIPH: the command enters its queue; the split waits while the queue is full. -/
def execSiph (sd sa : SReg) (q : BitVec 3) (s : State) : Out State :=
  commandIssue (.siph sd sa q) (regsFrom sa 2) sd s fun c s =>
    let ptr := c.pair sa
    if c.inPass then .next (s.passEffects c)
    else if ptr.toNat % 64 ≠ 0 then .next (s.scalarFault c (.alignment, 0) ptr)
    else if c.group.queueStalls q.toNat then .next s
    else
      s.atClose c.team (.scalar c.ref) fun s =>
        match s.enterCommand c (.siph sd sa q) sd q.toNat (.coll ptr none none) with
        | none => .next s
        | some s => .next (s.advance c)

/-! The record (R369, R370). -/

/-- The fields of a collective record of 64 bytes. -/
def collOf (bs : List Byte) : Coll :=
  let v := leNat bs
  { members := BitVec.ofNat 64 (bits v 511 448), stat := BitVec.ofNat 64 (bits v 447 384), flag := BitVec.ofNat 64 (bits v 383 320)
    buf := BitVec.ofNat 64 (bits v 319 256), flagv := bits v 255 224, count := bits v 223 192, n := bits v 191 160, efmt := bits v 15 10
    op := bits v 7 4, kind := bits v 3 0, zero := bits v 159 16 == 0 && bits v 9 8 == 0 }

namespace Coll

/-- The element format. -/
def fmt (c : Coll) : FFmt := match c.efmt with | 0 => .f64 | 1 => .f32 | 2 => .bf16 | _ => .f16
/-- Bytes of an element. -/
def size (c : Coll) : Nat := c.fmt.width / 8

/-- The record is accepted, its table aside. -/
def ok (c : Coll) : Bool :=
  c.zero && c.kind ≤ 2 && c.op == 0 && c.efmt ≤ 3 && 1 ≤ c.n && c.n ≤ 262144 && c.buf.toNat % c.size == 0 && c.flag.toNat % 4 == 0 &&
  c.stat.toNat % 8 == 0 && c.members.toNat % 4 == 0

/-- The elements of a chunk: the first, and one past the last (R363). -/
def chunk (c : Coll) (k : Nat) : Nat × Nat := (k * c.count / c.n, (k + 1) * c.count / c.n)
/-- The address and length of a chunk. -/
def place (c : Coll) (k : Nat) : DWord × Nat := (c.buf + BitVec.ofNat 64 (c.size * (c.chunk k).1), c.size * ((c.chunk k).2 - (c.chunk k).1))

/-- Steps of a collective (R371). -/
def steps (c : Coll) : Nat := if c.kind = 0 then 2 * (c.n - 1) else c.n - 1
/-- A step belongs to the all-gather. -/
def gathers (c : Coll) (i : Nat) : Bool := c.kind == 2 || (c.kind == 0 && c.n - 1 ≤ i)
/-- The number of a step within its phase. -/
def phaseStep (c : Coll) (i : Nat) : Nat := if c.kind = 0 && c.n - 1 ≤ i then i - (c.n - 1) else i
/-- The chunks that step i of rank r sends and receives (R363). -/
def sends (c : Coll) (r i : Nat) : Nat := (r + (if c.gathers i then 1 else 0) + c.n - c.phaseStep i) % c.n
def receives (c : Coll) (r i : Nat) : Nat := (r + (if c.gathers i then 1 else 0) + c.n - c.phaseStep i - 1 + c.n) % c.n

/-- The mask that the schedule gives chunk k on rank r (R371). -/
def scheduled (c : Coll) (r k : Nat) : List Nat :=
  match c.kind with
  | 0 => List.range c.n
  | 1 => (List.range c.n).filter fun x => (x + c.n - k) % c.n ≤ (r + c.n - k) % c.n
  | _ => [(k + c.n - 1) % c.n]

/-- The masks that rank r starts with (R371). -/
def firstMasks (c : Coll) (r : Nat) : List (List Nat) :=
  (List.range c.n).map fun k => if c.kind = 2 then (if k = (r + 1) % c.n then [r] else []) else [r]

/-- Bytes of a status entry (R364). -/
def entrySize (c : Coll) : Nat := 8 + 8 * ((c.n + 63) / 64)

/-- The status entry of a chunk with a mask on rank r (R364, R373). -/
def entry (c : Coll) (r k : Nat) (mask : List Nat) : List Byte :=
  let bits_ (m : List Nat) : List Nat := (List.range c.n).filter m.contains
  let same := bits_ mask == bits_ (c.scheduled r k)
  natLe 4 (if same then 0 else 1) ++ natLe 4 (bits_ mask).length ++
    natLe (c.entrySize - 8) ((bits_ mask).foldl (fun v x => v + 2 ^ x) 0)

end Coll

/-- The node numbers of a member table. -/
def tableOf (n : Nat) (bs : List Byte) : List Nat := (List.range n).map fun k => leNat ((bs.drop (4 * k)).take 4)

/-- The table names nodes, none twice, and this device (R370). -/
def tableOk (node : Nat) (ring : List Nat) : Bool := ring.all (· < 2 ^ 18) && ring.eraseDups.length == ring.length && ring.contains node

/-- This device's node (R366, R376). -/
def State.nodeNo (s : State) : Nat := bits s.node.toNat 17 0

/-- Collectives that are under way: their commands and progress. -/
def State.collectives (s : State) : List (Cmd × CollState) :=
  s.cmds.filterMap fun c => match c.kind with | .coll _ _ (some st) => if c.ending.isNone then some (c, st) else none | _ => none

/-- Another collective of the ASID on the same buffer is active on the siphon of a die (R372). -/
def State.bufferBusy (s : State) (a : Active) (buf : DWord) : Bool :=
  s.collectives.any fun x => x.1.id != a.cmd.id && x.1.asid == a.cmd.asid && x.2.coll.buf == buf &&
    match s.team? x.1.team with | some t => dieOf t.core == dieOf a.team.core | none => false

/-- A collective's progress replaced. -/
def State.setColl (s : State) (id : Nat) (st : CollState) : State :=
  s.modCmd id fun c => { c with kind := match c.kind with | .coll r h _ => .coll r h (some st) | k => k }

/-! Lost members (R373). -/

/-- The die of a command's team, whose siphon serves it. -/
def State.siphonOf (s : State) (c : Cmd) : Nat := match s.team? c.team with | some t => dieOf t.core | none => 0

/-- Members whose node the fabric has given up, or of whom a notice has come, and that are not yet known lost. -/
def State.newlyLost (s : State) (c : Cmd) (st : CollState) : List Nat :=
  (List.range st.ring.length).filter fun k => k != st.rank && !st.lost.contains k &&
    (s.peer? (st.ring.getD k 0) == some .lost ||
     s.notices.any fun x => x == (s.siphonOf c, c.asid, st.coll.buf, st.ring.getD k 0))

/-- A siphon learns of lost members: the step that has begun may still take what has come in whole, no further step starts. One that has
done its steps has no member to lose. -/
def CollState.learn (st : CollState) (lost : List Nat) : CollState :=
  if lost.isEmpty || st.last ≤ Nat.min st.step st.sent then st
  else { st with lost := st.lost ++ lost, last := Nat.min st.last (if st.gate then Nat.min st.step st.sent + 1 else 0) }

/-- Every collective that has begun learns of the members lost meanwhile, in the order in which that becomes known. -/
def State.learnLosses (s : State) : State :=
  s.collectives.foldl (fun s x => s.setColl x.1.id (x.2.learn (s.newlyLost x.1 x.2))) s

/-! Steps (R363, R371, R372). -/

/-- Pages of the buffer: raw, or of the element format (R375). -/
def Leaf.isBuffer (efmt : Nat) (l : Leaf) : Bool := !l.cmp && (l.fmt == 0x20 || l.fmt == efmt)

/-- The next sector of a run of bytes that a command writes, one operation per sector in ascending order (R264), after so many; none once
all are written. -/
def State.cmdPut (s : State) (a : Active) (ptr : DWord) (bs : List Byte) (put : Nat) (fmtOk : Leaf → Bool) : Except Halt (Option State) :=
  match (sectorPieces ptr.toNat bs.length bs.length)[put]? with
  | none => .ok none
  | some q =>
    let p := ptr + BitVec.ofNat 64 q.1
    match s.cmdCheck a p q.2 .store fmtOk with
    | .error e => .error e
    | .ok l =>
      (s.cmdWrite (s.cmdOp a .store .mem (l.pa p) q.2 l.sc) (plainData ((bs.drop q.1).take q.2))).map fun s =>
        some (s.usedLeaf (some a.team.core) a.cmd.asid p l)

/-- Two chunks added element by element, each once, RNE, subnormals kept (R363, R371). -/
def addChunks (f : FFmt) (a b : List Byte) : List Byte :=
  let w := f.width / 8
  (List.range (a.length / w)).flatMap fun k =>
    let x (l : List Byte) : FVal := f.decode (leNat ((l.drop (w * k)).take w))
    natLe w (f.round 0 false 0 (FVal.add false (x a) (x b)))

/-- The message of a step's send. -/
def CollState.message (st : CollState) (die asid i : Nat) (data : List Byte) : ChunkMsg :=
  let c := st.coll
  let k := c.sends st.rank i
  { die := die, asid := asid, buf := c.buf, kind := c.kind, count := c.count, efmt := c.efmt, n := c.n, gather := c.gathers i, chunk := k, data := data
    mask := st.masks.getD k [] }

/-- The node of the next member of the ring, and of the one before. -/
def CollState.next (st : CollState) : Nat := st.ring.getD ((st.rank + 1) % st.ring.length) 0
def CollState.prev (st : CollState) : Nat := st.ring.getD ((st.rank + st.ring.length - 1) % st.ring.length) 0

/-- A step's send: what the step before wrote is read and sent; it waits for a neighbour that is not up. -/
def State.sendStep (s : State) (a : Active) (st : CollState) : Except Halt State :=
  if s.peer? st.next != some .up then .error .wait
  else
    let p := st.coll.place (st.coll.sends st.rank st.sent)
    (s.cmdFetch a p.1 p.2 (Leaf.isBuffer st.coll.efmt)).map fun bs =>
      (({ s with sent := s.sent ++ [.chunk st.next (st.message (dieOf a.team.core) a.cmd.asid st.sent bs)] } : State).cmdTaken a.cmd.id).setColl
        a.cmd.id { st with sent := st.sent + 1 }

/-- A message is for a collective on the siphon of a die (R372). -/
def CollState.takes (st : CollState) (die asid : Nat) (m : ChunkMsg) : Bool := m.die == die && m.asid == asid && m.buf == st.coll.buf
/-- Its header agrees with the record (R372). -/
def Coll.agrees (c : Coll) (m : ChunkMsg) : Bool := m.kind == c.kind && m.count == c.count && m.efmt == c.efmt && m.n == c.n

/-- A step's receive: the chunk is reduced into the local copy or written over it, sector by sector, then counted with its mask. -/
def State.receiveStep (s : State) (a : Active) (st : CollState) (m : ChunkMsg) : Except Halt State :=
  let p := st.coll.place m.chunk
  let put (bs : List Byte) (mask : List Nat) : Except Halt State :=
    (s.cmdPut a p.1 bs st.put (Leaf.isBuffer st.coll.efmt)).map fun r =>
      match r with
      | some s => s.setColl a.cmd.id { st with put := st.put + 1 }
      | none =>
        (({ s with chunks := s.chunks.erase m } : State).cmdTaken a.cmd.id).setColl a.cmd.id
          { st with step := st.step + 1, put := 0, masks := st.masks.mapIdx fun k x => if k == m.chunk then mask else x }
  if m.gather then put m.data m.mask
  else
    match s.cmdFetch a p.1 p.2 (Leaf.isBuffer st.coll.efmt) with
    | .error e => .error e
    | .ok local_ => put (addChunks st.coll.fmt m.data local_) (unite m.mask (st.masks.getD m.chunk []))

/-- The token of a collective that ran to its end (R362, R373). -/
def CollState.token (st : CollState) : Nat :=
  match st.lost with
  | k :: _ => 0x10 + 256 * st.ring.getD k 0
  | [] => 0

/-- The end of a collective: its status entries are written, sector by sector, then its token (R363, R364). -/
def State.finishColl (s : State) (a : Active) (st : CollState) : Except Halt State :=
  let c := st.coll
  let all := (List.range c.n).flatMap fun k => c.entry st.rank k (st.masks.getD k [])
  (s.cmdPut a c.stat all st.put Leaf.isRaw).map fun r =>
    match r with
    | some s => s.setColl a.cmd.id { st with put := st.put + 1 }
    | none =>
      let die := dieOf a.team.core
      let mine (d asid : Nat) (buf : DWord) : Bool := d == die && asid == a.cmd.asid && buf == c.buf
      ({ s with notices := s.notices.filter fun x => !mine x.1 x.2.1 x.2.2.1
                chunks := if st.lost.isEmpty then s.chunks else s.chunks.filter fun m => !mine m.die m.asid m.buf } : State).endCmd a.cmd.id st.token

/-- The chunk that a collective's step in progress waits for, when it has come. -/
def State.chunkFor (s : State) (a : Active) (st : CollState) : Option ChunkMsg :=
  s.chunks.find? fun m => st.takes (dieOf a.team.core) a.cmd.asid m && st.coll.agrees m && m.gather == st.coll.gathers st.step &&
    m.chunk == st.coll.receives st.rank st.step

/-- The siphon reads its flag with acquire, again and again until it opens the gate (R363). -/
def State.gateStep (s : State) (a : Active) (st : CollState) : Except Halt State :=
  let c := st.coll
  if c.flag = 0 then .ok (s.setColl a.cmd.id { st with gate := true })
  else
    (s.cmdLoad a c.flag 4 .acquire Leaf.isRaw).map fun bs =>
      let s := s.cmdTaken a.cmd.id
      if leNat bs < c.flagv then s else s.setColl a.cmd.id { st with gate := true }

/-- What a collective does next: it passes its gate, receives, sends, or ends. A step's send and its receive may come in either order; a
step starts once both of the one before are done. A chunk whose header disagrees makes its sender lost (R372). -/
def State.collStep (s : State) (a : Active) (st : CollState) : Except Halt State :=
  let c := st.coll
  let wrong := s.chunks.find? fun m => st.takes (dieOf a.team.core) a.cmd.asid m && !c.agrees m
  match st.lost, wrong with
  | [], some m =>
    .ok (({ s with chunks := s.chunks.erase m } : State).setColl a.cmd.id (st.learn [(st.rank + c.n - 1) % c.n]))
  | _, _ =>
    if st.gate && st.step < st.last && st.step ≤ st.sent && (s.chunkFor a st).isSome then
      match s.chunkFor a st with
      | some m => s.receiveStep a st m
      | none => .error .wait
    else if !st.lost.isEmpty then s.finishColl a st
    else if !st.gate then s.gateStep a st
    else if c.steps ≤ st.step && c.steps ≤ st.sent then s.finishColl a st
    else if st.sent < c.steps && st.sent ≤ st.step then s.sendStep a st
    else .error .wait

/-- A collective goes on: one access, or one step of its own. -/
def State.collGo (s : State) (id : Nat) : State :=
  match s.active? id with
  | none => s
  | some a =>
    match a.cmd.kind with
    | .coll _ _ (some st) =>
      match s.collStep a st with
      | .ok s' => s'
      | .error h => s.cmdHalt a 4 h
    | _ => s

/-! Events. -/

/-- COLLECTIVE_START: the record is read, one sector per start, then the member table; a refused command ends with token 0x01. The
command waits while its buffer has an active collective (R370, R372). -/
def execCollectiveStart (cmd : Nat) (s : State) : Out State :=
  match s.active? cmd with
  | none => .next s
  | some a =>
    match a.cmd.kind with
    | .coll record half none =>
      match s.cmdFetch a (record + if half.isNone then 0 else 32) 32 Leaf.isRaw with
      | .error h => .next (s.cmdHalt a 4 h)
      | .ok bs =>
        match half with
        | none => .next ((s.cmdTaken cmd).modCmd cmd fun c => { c with kind := .coll record (some bs) none })
        | some lo =>
          let c := collOf (lo ++ bs)
          if !c.ok then .next (s.endCmd cmd 1)
          else if s.bufferBusy a c.buf then .next s
          else
            match s.cmdFetch a c.members (4 * c.n) Leaf.isRaw with
            | .error h => .next (s.cmdHalt a 4 h)
            | .ok table =>
              let ring := tableOf c.n table
              if !tableOk s.nodeNo ring then .next (s.endCmd cmd 1)
              else
                let st : CollState := { coll := c, ring := ring, rank := ring.idxOf s.nodeNo, gate := false, step := 0, sent := 0
                                        masks := c.firstMasks (ring.idxOf s.nodeNo), lost := [], last := c.steps, put := 0 }
                .next ((s.cmdTaken cmd).setColl cmd (st.learn (s.newlyLost a.cmd st)))
    | _ => .next s

/-- SIPHON_GATE_READ: the siphon reads its flag again, and goes on with what it can. -/
def execSiphonGateRead (cmd : Nat) (s : State) : Out State := .next (s.collGo cmd)

/-- SIPHON_CHUNK: a chunk arrives; it waits in the siphon until its collective takes it, unless that has lost a member and takes no more. -/
def execSiphonChunk (msg : ChunkMsg) (s : State) : Out State :=
  if s.collectives.any fun x => x.2.takes (s.siphonOf x.1) x.1.asid msg && !x.2.lost.isEmpty then .next s
  else .next { s with chunks := s.chunks ++ [msg] }

/-- SIPHON_FAULT_NOTICE: a member's collective ended by a fault; it is lost to the collective on this buffer. -/
def execSiphonFaultNotice (at_ : SiphonAt) (buf : DWord) (node : Nat) (s : State) : Out State :=
  .next ({ s with notices := s.notices ++ [(at_.die, at_.asid, buf, node)] } : State).learnLosses

/-- SIPHON_MEMBER_DEADLINE: a neighbour that a send or a receive waits on has been RECOVERING for 2^26 cycles and is lost. -/
def execSiphonMemberDeadline (cmd node : Nat) (s : State) : Out State :=
  match s.active? cmd with
  | none => .next s
  | some a =>
    match a.cmd.kind with
    | .coll _ _ (some st) =>
      let sends := st.sent < st.last && st.sent ≤ st.step && st.next == node
      let receives := st.step < st.last && st.step ≤ st.sent && st.prev == node
      if s.peer? node != some .recovering || !st.gate || !(sends || receives) || !st.lost.isEmpty then .next s
      else .next (s.setColl cmd (st.learn [st.ring.idxOf node]))
    | _ => .next s

end Sys2Proof.Machine
end

