-- ==== Sys2Proof/Machine/Matrix.lean ====
section
/-! DEFINITION. Matrix loops: `mloop` in its three modes (R178 to R180, R185, R188), a step of a loop (R157, R163, R164, R172, R173,
R177, R181), and its faults (R186). -/

namespace Sys2Proof.Machine

/-! Tile configurations (R112, R176). -/

def tileFmt (w : Word) : Nat := bits w.toNat 4 0
def tileRows (w : Word) : Nat := bits w.toNat 13 8
def Team.cfg (t : Team) (n : Nat) : Word := vget t.tcfg n 0
/-- Rows of A and of B in use (R176). -/
def Team.rowsA (t : Team) (ta : Nat) : Nat := tileRows (t.cfg ta) + 1
def Team.rowsB (t : Team) (ta : Nat) : Nat := Nat.min (tileRows (t.cfg (ta + 1))) 31 + 1

/-- Formats that SBP mode accepts for A (R176). -/
def sbpOperand (f : Nat) : Bool := (0x02 ≤ f && f ≤ 0x08) || (0x0A ≤ f && f ≤ 0x0D) || (0x10 ≤ f && f ≤ 0x1B)

/-- The accumulator is f64 (R176). -/
def Team.wideAcc (t : Team) (mode tc : Nat) : Bool := mode != 1 && tileFmt (t.cfg tc) == 0

/-- The tiles and formats of a loop are accepted (R185 check 2). -/
def Team.loopOk (t : Team) (r : LaunchRec) (mode tc ta : Nat) : Bool :=
  let fc := tileFmt (t.cfg tc)
  let fa := tileFmt (t.cfg ta)
  let fb := tileFmt (t.cfg (ta + 1))
  let wide := t.wideAcc mode tc
  tc < r.tiles && ta + 1 < r.tiles && (!wide || tc + 1 < r.tiles) && tc != ta && tc != ta + 1 && (!wide || tc % 2 == 0) &&
  (if mode = 1 then fc == 1 && sbpOperand fa && fmtSbp fb
   else (fc == 1 || (wide && fa == 0 && tileFmt (t.cfg (tc + 1)) == 0)) && fa ≤ 0x1B && fb ≤ 0x1B && fmtWidth fa == fmtWidth fb)

/-! Operand blocks (R177). -/

/-- Bytes of a block that a step reads, as offsets and lengths: the rows, the shift bytes, the band. `side` is 0 for A, 1 for B, 2
for B in SBP mode. -/
def blockParts (fmt rows side : Nat) : List (Nat × Nat) :=
  let w := fmtWidth fmt
  let k := if w = 6 then 128 else 1024 / w
  let shifts := if side = 0 then 8192 else 4096
  let band := if side = 0 then 10240 else if side = 1 then 5120 else 4096
  ((List.range rows).map fun r => (128 * r, if w = 6 then 96 else 128)) ++
  (if fmtScaled fmt then (List.range rows).map fun r => (shifts + 32 * r, k / fmtBlock fmt) else []) ++
  (if fmtBand fmt then [(band, 2)] else [])

/-- One past the last byte of a block. -/
def blockEnd (fmt rows side : Nat) : Nat := (blockParts fmt rows side).foldl (fun m p => if m < p.1 + p.2 then p.1 + p.2 else m) 0

/-- The step increments in bytes (R179). -/
def incBytes (inc : BitVec 16) : Int := 128 * inc.toInt

/-- Every byte that any step reads lies within the scratchpad (R185 check 5): offsets that leave it once have left it. -/
def blockFits (addr : Word) (inc : BitVec 16) (steps ending size : Nat) : Bool :=
  let last : Int := addr.toNat + (steps - 1 : Nat) * incBytes inc
  0 ≤ last && last + ending ≤ size && addr.toNat + ending ≤ size

/-- The first byte at or beyond the scratchpad's size that a loop's blocks at an address would read. -/
def blockFirst (addr : Word) (inc : BitVec 16) (fmt rows side size : Nat) : Nat :=
  let e := blockEnd fmt rows side
  let d := incBytes inc
  let j := if size < addr.toNat + e then 0 else if 0 < d then (size - e - addr.toNat) / d.natAbs + 1 else addr.toNat / d.natAbs + 1
  let x := ((addr.toNat + j * d) % (2 ^ 32 : Nat)).toNat
  let outs := (blockParts fmt rows side).filterMap fun p => if size < x + p.1 + p.2 then some (Nat.max (x + p.1) size) else none
  outs.foldl Nat.min (outs.headD x)

/-! Issue (R178 to R180, R183, R185, R188). -/

/-- The descriptor and base of a loop as its split issues it. -/
def Issuer.loop (c : Issuer) (id : Nat) (sd sa : SReg) (base : DWord) (mode : Nat) (z : Bool) (tc ta : Nat) : Loop :=
  let inc := c.read (sa + 2)
  let tiles := if c.team.wideAcc mode tc then [tc, tc + 1] else [tc]
  { id := id, team := c.team.id, group := c.group.gid, uid := c.uid, pc := c.pc, tok := sd, mode := mode, z := z, tc := tc, ta := ta
    a := c.read sa, b := c.read (sa + 1), base := base, inca := inc.truncate 16, incb := inc.extractLsb' 16 16
    steps := (c.read (sa + 3)).toNat, next := 0, ma := c.team.rowsA ta, nb := c.team.rowsB ta, rmode := c.group.rmode
    shadow := tiles.map fun n => (c.team.tiles[n]?).getD [], past := c.split.set.past, served := 0 }

/-- Loops in flight on a core (R183). -/
def State.coreLoops (s : State) (core : Nat) : Nat :=
  (s.loops.filter fun l => match s.team? l.team with | some t => t.core == core | none => false).length

/-- A loop starts and its token is busy; of a redundant team copy 0's runs for both (R358). -/
def State.startLoop (s : State) (c : Issuer) (i : Instr) (sd : SReg) (l : Loop) : Option State :=
  let start (s : State) : State :=
    ({ s with loops := s.loops ++ [{ l with id := s.fresh, served := s.fresh }], fresh := s.fresh + 1 } : State).modGroup c.team.id c.group.gid fun g =>
      g.mark c.ref.split sd s.fresh true
  match c.team.red with
  | none => some (start s)
  | some r =>
    if r.copy = 0 then some ((start s).modTeam r.twin fun t => { t with red := t.red.map fun x => { x with mail := [s.fresh] } })
    else s.enterCommand c i sd 8 (.echo 0)

/-- What the three modes share: the checks in their order, the wait for the engine and the tiles, a loop without steps, the start. -/
def loopIssue (i : Instr) (sd sa : SReg) (more : List SReg) (mode : Nat) (z : Bool) (tc ta : BitVec 4) (base : Issuer → DWord)
    (s : State) : Out State :=
  commandIssue i (regsFrom sa 4 ++ more) sd s fun c s =>
    let l := c.loop 0 sd sa (base c) mode z tc.toNat ta.toNat
    let fa := tileFmt (c.team.cfg ta.toNat)
    let fb := tileFmt (c.team.cfg (ta.toNat + 1))
    let size := 1024 * c.launch.record.scratch
    if !c.team.loopOk c.launch.record mode tc.toNat ta.toNat then .next (s.scalarFault c (.illegalEncoding, 0) 0)
    else if c.inPass then .next (s.passEffects c)
    else if c.group.live.length ≠ 1 then .next (s.scalarFault c (.splitMatrix, 0) 0)
    else if l.a.toNat % 128 ≠ 0 then .next (s.scalarFault c (.alignment, 0) (l.a.zeroExtend 64))
    else if l.b.toNat % 128 ≠ 0 then .next (s.scalarFault c (.alignment, 0) (l.b.zeroExtend 64))
    else if mode = 2 && l.base.toNat % 128 != 0 then .next (s.scalarFault c (.alignment, 0) l.base)
    else if mode ≠ 2 && l.steps ≠ 0 && !blockFits l.a l.inca l.steps (blockEnd fa l.ma 0) size then
      .next (s.scalarFault c (.bounds, 0) (BitVec.ofNat 64 (blockFirst l.a l.inca fa l.ma 0 size)))
    else if mode ≠ 2 && l.steps ≠ 0 && !blockFits l.b l.incb l.steps (blockEnd fb l.nb (if mode = 1 then 2 else 1)) size then
      .next (s.scalarFault c (.bounds, 0) (BitVec.ofNat 64 (blockFirst l.b l.incb fb l.nb (if mode = 1 then 2 else 1) size)))
    else if 2 ≤ s.coreLoops c.core || s.tileBusy c.team.id ta.toNat || s.tileBusy c.team.id (ta.toNat + 1) ||
        (List.range l.shadow.length).any fun k => s.tileBusy c.team.id (tc.toNat + k) then .next s
    else
      s.atClose c.team (.scalar c.ref) fun s =>
        if l.steps = 0 then .next (s.writeRetire c sd 0)
        else
          match s.startLoop c i sd l with
          | none => .next s
          | some s => .next (s.advance c)

/-- MLOOP (R178, R180): dense, operands in scratchpad. -/
def execMloop (sd sa : SReg) (z : Bool) (tc ta : BitVec 4) (s : State) : Out State :=
  loopIssue (.mloop sd sa z tc ta) sd sa [] 0 z tc ta (fun _ => 0) s

/-- MLOOP_SBP (R157, R178). -/
def execMloopSbp (sd sa : SReg) (z : Bool) (tc ta : BitVec 4) (s : State) : Out State :=
  loopIssue (.mloopSbp sd sa z tc ta) sd sa [] 1 z tc ta (fun _ => 0) s

/-- MLOOP_DIRECT (R178, R179): operands in memory from a base pair. -/
def execMloopDirect (sd sa sb : SReg) (z : Bool) (tc ta : BitVec 4) (s : State) : Out State :=
  loopIssue (.mloopDirect sd sa sb z tc ta) sd sa (regsFrom sb 2) 2 z tc ta (fun c => c.pair sb) s

/-! The fetch of a step (R180, R184). -/

/-- The address of step j's block: a scratchpad offset, or a pointer that keeps the base's bits [63:57] (R179). -/
def Loop.blockAddr (l : Loop) (addr : Word) (inc : BitVec 16) (j : Nat) : Nat :=
  let x := ((addr.toNat + j * incBytes inc) % (2 ^ 32 : Nat)).toNat
  if l.mode = 2 then l.base.toNat / 2 ^ 57 * 2 ^ 57 + (l.base.toNat + x) % 2 ^ 57 else x

/-- The agent of a loop's fetches. -/
def Loop.agent (l : Loop) (t : Team) : Agent := .engine t.id l.group t.core l.id

/-- The key of a fetch of step j from a byte address: sectors of different steps are fetched apart. -/
def loopKey (j addr : Nat) : Nat := j * 2 ^ 64 + addr / 32 * 32

/-- The loop as the agent of its fetches (R264). -/
def State.loopOp (s : State) (l : Loop) (t : Team) (space : Space) (addr : Nat) (sc : Bool) : MemOp :=
  { blankOp (l.agent t) (s.asidOf t) .load space addr 32 with
    uid := l.uid, sc := sc, past := unite l.past ((s.cmdOps l.id).map (·.id)) }

/-- The sectors that some bytes of step j's blocks lie in, in ascending order, each one operation; a fault names the first byte. -/
def State.loopFetch (s : State) (l : Loop) (t : Team) (j : Nat) (bytes : List Nat) : Except Halt Sectors :=
  (needSectors (bytes.map fun a => (a, false))).foldl (fun acc k =>
    match acc with
    | .error e => .error e
    | .ok m =>
      let issue : Except Halt (MemOp × (State → State)) :=
        if l.mode = 2 then
          let ptr := BitVec.ofNat 64 (32 * k.1)
          match s.checkAccess (some t.core) (s.asidOf t) ptr 32 .load Leaf.isRaw with
          | .error f => .error (.fault f (BitVec.ofNat 64 k.2.1))
          | .ok p => .ok (s.loopOp l t .mem (p.pa ptr) p.sc, fun u => u.usedLeaf (some t.core) (s.asidOf t) ptr p)
        else .ok (s.loopOp l t (.scratch t.id) (32 * k.1) false, id)
      (s.readBy (l.agent t) l.uid (loopKey j (32 * k.1)) issue).map fun bs => m ++ [(k.1, bs)]) (.ok [])

/-! The arithmetic of a step (R157, R163, R164, R172, R173, R181). -/

/-- A block of a step as fetched: its format, and its bytes from the block's address. -/
structure Block where
  fmt  : Nat
  side : Nat
  get  : Nat → Byte

/-- The elements of a 128-byte row. -/
def rowElems (fmt : Nat) : Nat := let w := fmtWidth fmt; if w = 6 then 128 else 1024 / w

/-- The value of element k of a row (R163): an element of an all-zero block is +0. -/
def Block.value (b : Block) (row k : Nat) : FVal :=
  match fmtElem b.fmt with
  | none => .zero
  | some e =>
    let code := rowCode (fmtWidth b.fmt) k fun o => b.get (128 * row + o)
    if fmtScaled b.fmt then
      let s := signed 8 (b.get ((if b.side = 0 then 8192 else 4096) + 32 * row + k / fmtBlock b.fmt)).toNat
      if s = -128 then .zero else (e.decode code).scale s
    else e.decode code

/-- The band scale of a block (R164, R177). -/
def Block.band (b : Block) : Option FVal :=
  if !fmtBand b.fmt then none
  else
    let o := if b.side = 0 then 10240 else if b.side = 1 then 5120 else 4096
    some (FFmt.bf16.decode (leNat [b.get o, b.get (o + 1)]))

/-- A value as its exact truncation to a multiple of 2^e. -/
def FVal.toMultiple (v : FVal) (e : Int) : FVal :=
  match v with
  | .fin n _ _ => .ofScaled (v.truncTo e) e n
  | v => v

/-- Products of a dense step, truncated where a format is bf16, f16 or f32 (R172). -/
def alignProducts (trunc : Bool) (ps : List FVal) : List FVal :=
  if !trunc then ps
  else
    match topExp ps with
    | none => ps
    | some x => ps.map fun p => p.toMultiple (x - 53)

/-- The exact sum of products; a sum of zero is +0 (R164). -/
def dotSum (ps : List FVal) : FVal :=
  match FVal.sum false ps with
  | .fin n m e => if m = 0 then .zero else .fin n m e
  | v => v

/-- The formats whose products are truncated (R172). -/
def truncates (fmt : Nat) : Bool := fmt == 0x01 || fmt == 0x02 || fmt == 0x03

/-- The dot product of row m of A and row n of B in a dense or direct step. -/
def denseDot (a b : Block) (m n : Nat) : FVal :=
  dotSum (alignProducts (truncates a.fmt || truncates b.fmt) ((List.range (rowElems a.fmt)).map fun k => (a.value m k).mul (b.value n k)))

/-- Elements of a row of A in an SBP step, and as its records meet them (R181). -/
def sbpElems (fmt : Nat) : Nat := if fmtWidth fmt = 16 then 64 else 128
def sbpValue (a : Block) (m k : Nat) : FVal :=
  if fmtWidth a.fmt = 16 then
    let g := (List.range 32).map fun i => a.value m (k / 32 * 32 + i)
    (a.value m k).toMultiple (alignBase (if a.fmt == 0x03 then .f16x2 else .bf16x2) g)
  else a.value m k

/-- The contribution of record r of row n of B to the dot product with row m of A (R155 to R157, R165). -/
def recordDot (a b : Block) (m n r : Nat) : FVal :=
  let w := leNat ((List.range 32).map fun i => b.get (128 * n + 32 * r + i))
  let i4 := 0x1E ≤ b.fmt
  let s := recordShift w
  if s = -128 then .zero
  else
    let cs := recordCounts w
    if 32 < sumNat cs then .nan
    else
      let weights := ((ladder i4).zip (cs ++ [32 - sumNat cs])).flatMap fun p => List.replicate p.2 p.1
      let unit_ : Int := if i4 then 0 else -1
      dotSum (weights.zipIdx.map fun (v, k) => ((FVal.ofInt v).mul (sbpValue a m (32 * r + w / 2 ^ (5 * k) % 32))).scale (s + unit_))

/-- The dot product of row m of A and row n of B in an SBP step; any NaN or infinity among the activations gives NaN (R157, R173). -/
def sbpDot (a b : Block) (nb m n : Nat) : FVal :=
  let k := sbpElems a.fmt
  if (List.range k).any fun i => let v := a.value m i; v.isNan || v.isInf then .nan
  else if nb ≤ n then .zero
  else dotSum ((List.range (k / 32)).map fun r => recordDot a b m n r)

/-- The band scales multiply the exact dot product (R164). -/
def withBands (a b : Block) (d : FVal) : FVal := (a.band.toList ++ b.band.toList).foldl FVal.mul d

/-- The accumulator format of a loop (R181). -/
def Loop.accFmt (l : Loop) : FFmt := if l.shadow.length = 2 then .f64 else .f32

/-- C[m][n] after a step: rounded once, under the class of the accumulator; stochastic rounds to nearest even (R171). -/
def Loop.accumulate (l : Loop) (c : Nat) (d : FVal) : Nat :=
  let f := l.accFmt
  let r := rmodeRnd l.rmode f.cls
  let mode := if r = 5 then 0 else r
  f.round mode (rmodeSat l.rmode f.cls) 0 (FVal.sum (mode == 2) [d, f.decode c])

/-- The bytes of the rows in use of accumulator tile k of a loop after a step (R176, R181). -/
def Loop.newRows (l : Loop) (k : Nat) (tile : Memory) (dot : Nat → Nat → FVal) : List Byte :=
  let w := l.accFmt.width / 8
  let cols := if l.mode = 1 then 32 else l.nb
  (List.range l.ma).flatMap fun m => (List.range (128 / w)).flatMap fun j =>
    let old := leNat (tile.readN (128 * m + w * j) w)
    let n := j + 16 * k
    if n < cols then natLe w (l.accumulate old (dot m n)) else natLe w old

/-- The first bytes of a tile replaced. -/
def replaceRows (bs : List Byte) (m : Memory) : Memory :=
  ((bs.zipIdx.filter fun x => x.1 != 0).map fun x => (x.2, x.1)) ++ m.filter fun c => bs.length ≤ c.1

/-- The rows that a step stages, an FP6 row with its zeros (R177). -/
def Block.rows (b : Block) (n : Nat) : List Byte :=
  (List.range n).flatMap fun r => (List.range 128).map fun o => if fmtWidth b.fmt = 6 && 96 ≤ o then 0 else b.get (128 * r + o)

/-- The tiles after a step: C, and the staging tiles (R175, R180, R181). -/
def Team.afterStep (t : Team) (l : Loop) (a b : Block) : Team :=
  let dot (m n : Nat) : FVal := withBands a b (if l.mode = 1 then sbpDot a b l.nb m n else denseDot a b m n)
  { t with tiles := t.tiles.mapIdx fun i m =>
      if l.tc ≤ i && i < l.tc + l.shadow.length then
        let c := if l.z && l.next = 0 then replaceRows (List.replicate (128 * l.ma) 0) m else m
        replaceRows (l.newRows (i - l.tc) c dot) c
      else if i = l.ta then replaceRows (a.rows l.ma) m
      else if i = l.ta + 1 then replaceRows (b.rows l.nb) m
      else m }

/-! Steps. -/

/-- A fault of a step (R186): C is restored, the loop starts again from step 0, every operand fetched afresh, once the fault is
resolved. -/
def State.loopFault (s : State) (l : Loop) (t : Team) (g : Group) (f : AccessFault) (addr : DWord) : State :=
  let s := (s.modTeam t.id l.rollback).taken (l.agent t) l.uid
  let s : State := { s with loops := s.loops.map fun x => if x.id == l.id then { x with next := 0 } else x }
  s.takeFault (s.siteTrap t g (g.splitNumber l.uid) l.pc 3 f addr) t.id g.gid (.loop l.id)

/-- A loop is complete: its tiles are free and its token receives 0, in both copies of a redundant team (R180, R358). -/
def State.endLoop (s : State) (l : Loop) (t : Team) : State :=
  ((({ s with loops := s.loops.filter fun x => x.id != l.id } : State).taken (l.agent t) l.uid).writeToken l.team l.group l.uid l.tok l.id 0).completeCmd
    l.id 0

/-- A loop with its team and group, unless its team is off its core, its context halted, its second copy still to come or its fault held. -/
def State.runningLoop (s : State) (l : Loop) : Option (Team × Group) :=
  match s.team? l.team with
  | none => none
  | some t =>
    let mailed := s.teams.any fun t => match t.red with | some r => r.mail.contains l.id | none => false
    if t.state != .resident || s.halted.contains (s.asidOf t) || mailed || s.held.any (fun h => h.work == .loop l.id) then none
    else (t.group? l.group).map fun g => (t, g)

/-- The engine of a core serves its two loops alternately, one step each (R183). -/
def State.loopTurn (s : State) (l : Loop) (core : Nat) : Bool :=
  s.loops.all fun o => o.id == l.id || l.served < o.served || match s.runningLoop o with | some (t, _) => t.core != core | none => true

/-- The bytes of step j's blocks that are fetched first: their shift bytes and band scales (R177). -/
def Loop.scaleBytes (l : Loop) (t : Team) (j : Nat) : List Nat :=
  let side := if l.mode = 1 then 2 else 1
  let part (x fmt rows side : Nat) : List Nat :=
    ((blockParts fmt rows side).drop rows).flatMap fun p => (List.range p.2).map fun o => x + p.1 + o
  part (l.blockAddr l.a l.inca j) (tileFmt (t.cfg l.ta)) l.ma 0 ++ part (l.blockAddr l.b l.incb j) (tileFmt (t.cfg (l.ta + 1))) l.nb side

/-- The bytes of a row that are fetched, of which `zero` says which blocks are all zero: their element bytes are not (R163, R173). -/
def rowBytes (fmt : Nat) (zero : Nat → Bool) : List Nat :=
  let w := fmtWidth fmt
  if !fmtScaled fmt then List.range (if w = 6 then 96 else 128)
  else (List.range (rowElems fmt)).flatMap fun k => if zero (k / fmtBlock fmt) then [] else (elemPlaces w k).map (·.1)

/-- The bytes of step j's rows that are fetched, once its shift bytes are known. -/
def Loop.elementBytes (l : Loop) (t : Team) (j : Nat) (m : Sectors) : List Nat :=
  let part (x fmt rows shifts : Nat) : List Nat :=
    (List.range rows).flatMap fun r => (rowBytes fmt fun b => m.get (x + shifts + 32 * r + b) == 0x80).map fun o => x + 128 * r + o
  part (l.blockAddr l.a l.inca j) (tileFmt (t.cfg l.ta)) l.ma 8192 ++ part (l.blockAddr l.b l.incb j) (tileFmt (t.cfg (l.ta + 1))) l.nb 4096

/-- The operands of step j, sector by sector. -/
def State.stepFetch (s : State) (l : Loop) (t : Team) (j : Nat) : Except Halt Sectors :=
  match s.loopFetch l t j (l.scaleBytes t j) with
  | .error e => .error e
  | .ok m => (s.loopFetch l t j (l.elementBytes t j m)).map fun m' => m ++ m'

/-- What a loop does when a fetch does not go on. -/
def State.loopHalt (s : State) (l : Loop) (t : Team) (g : Group) : Halt → State
  | .wait => s
  | .issued s' => s'
  | .fault f a => s.loopFault l t g f a
  | .bad key o => (s.mismatch o).loopFault l t g (.uncorrectableScratch, 2) (BitVec.ofNat 64 key)

/-- A step of a loop with its operands: bytes that were not fetched are staged as free values. -/
def State.loopStep (s : State) (l : Loop) (t : Team) (m : Sectors) : State :=
  let byte (x o : Nat) : Byte := if m.any fun k => k.1 == (x + o) / 32 then m.get (x + o) else (Config.freeWord (s.choice + o)).truncate 8
  let a : Block := { fmt := tileFmt (t.cfg l.ta), side := 0, get := byte (l.blockAddr l.a l.inca l.next) }
  let b : Block := { fmt := tileFmt (t.cfg (l.ta + 1)), side := if l.mode = 1 then 2 else 1, get := byte (l.blockAddr l.b l.incb l.next) }
  let s := (s.modTeam t.id fun t => t.afterStep l a b).takenOf (l.agent t) l.uid fun k => k / 2 ^ 64 == l.next
  if l.next + 1 < l.steps then
    { s with fresh := s.fresh + 1
             loops := s.loops.map fun x => if x.id == l.id then { x with next := x.next + 1, served := s.fresh } else x }
  else s.endLoop l t

/-- A fetch for a later step, if the engine makes one now (R184). -/
def State.fetchAhead (s : State) (l : Loop) (t : Team) : Option Halt :=
  if l.steps ≤ l.next + 1 then none
  else
    let n := Config.fetchAhead s.choice
    if n = 0 || l.steps ≤ l.next + n then none
    else match s.stepFetch l t (l.next + n) with
      | .error .wait | .ok _ => none
      | .error h => some h

/-- MLOOP_STEP: a loop fetches a sector of its operands, for the step it is at or for a later one, or takes the step that it is at when that
is fetched and its turn has come (R180, R181, R183, R184). -/
def execMloopStep (loop : Nat) (s : State) : Out State :=
  match s.loops.find? fun l => l.id == loop with
  | none => .next s
  | some l =>
    match s.runningLoop l with
    | none => .next s
    | some (t, g) =>
      match s.fetchAhead l t with
      | some h => .next (s.loopHalt l t g h)
      | none =>
        match s.stepFetch l t l.next with
        | .error h => .next (s.loopHalt l t g h)
        | .ok m => if s.loopTurn l t.core then .next (s.loopStep l t m) else .next s

end Sys2Proof.Machine
end

