-- ==== Sys2Proof/Machine/Exit.lean ====
section
/-! DEFINITION. `exit` (R19, R28, R94, R117, R203). -/

namespace Sys2Proof.Machine

/-- The clauses that a split has run have issued their last instruction (R28). -/
def State.clausesDone (s : State) (c : Issuer) : Bool := !(c.split.set.ran.any s.clausePending)

/-- What those clauses tagged has completed, and so have the split's scalar stores, atomics and engine commands (R28, R117). -/
def State.workDone (s : State) (c : Issuer) : Bool :=
  let ran (k : Nat) : Bool := c.split.set.ran.contains k
  (s.ops.all fun o => o.done ||
    (match o.cid with
     | some k => !ran k
     | none => !(o.uid == c.uid && (o.isWrite || o.atomic) && (match o.agent with | .group _ _ _ => true | _ => false)))) &&
  (s.late.all fun l => !ran l.cid) && (s.cmds.all fun k => k.uid != c.uid) && (s.loops.all fun l => l.uid != c.uid)

/-- The lanes of a split retire (R19, R28): the top deferred entry of its stack resumes under its number; a group left with
nothing ends, a pass group to be judged. -/
def State.leave (s : State) (c : Issuer) : State :=
  match s.popEntry c.team c.group.gid c.split with
  | .error e => s.areaFault c.team c.group c.ref.split c.split 2 e
  | .ok e =>
    let own := c.split.set.own
    let next := e.map fun x => { x.2 with sid := s.fresh, set := x.1 }
    let pc := match e with | some x => x.1.pc | none => c.pc
    let s := ({ s with fresh := s.fresh + 1 } : State).modGroup c.team.id c.group.gid fun g =>
      { g.setSplit c.ref.split.val next with
        pass := g.pass.map fun p => { p with reached := p.reached ||| (own &&& ~~~p.undecided) } }
    let s := s.retire c.ref pc
    match s.group? c.team.id c.group.gid with
    | none => s
    | some g =>
      if !g.live.isEmpty then s
      else if g.inPass then s.passOver c.team.id c.group.gid
      else (s.closeGroup c.team.id c.group.gid).groupOver c.team.id

/-- EXIT (R28, R117): waits for the split's clauses and for its work, and retires every lane of OWN. -/
def execExit (s : State) : Out State :=
  scalarIssue .exit [] [] s fun c s =>
    if !s.clausesDone c then .next s
    else s.atClose c.team (.scalar c.ref) fun s => if s.workDone c then .next (s.leave c) else .next s

end Sys2Proof.Machine
end

