-- ==== Sys2Proof/Machine/Launching.lean ====
section
/-! DEFINITION. Launches: the record (R313 to R316), its checks (R12, R13, R200, R319, R320), acceptance, `lnch` (R327), dealing,
dispatch and stealing (R37, R38, R205, R206, R310, R328, R329). -/

namespace Sys2Proof.Machine

/-! The record. -/

/-- Bits [hi:lo] of sector k of a record (R313). -/
def recBits (v k hi lo : Nat) : Nat := bits v (256 * k + hi) (256 * k + lo)

def levelOf (v i : Nat) : Level :=
  let o := 64 * (i % 4)
  let k := 2 + i / 4
  { dom := recBits v k (o + 50) (o + 48), x := recBits v k (o + 47) (o + 32) + 1, y := recBits v k (o + 31) (o + 16) + 1
    z := recBits v k (o + 15) o + 1 }

def stageOf (v j : Nat) : StageRec :=
  let k := 5 + j
  { entry := BitVec.ofNat 64 (recBits v k 255 192), cntr := BitVec.ofNat 64 (recBits v k 191 128)
    qaddr := BitVec.ofNat 64 (recBits v k 127 64), thresh := recBits v k 63 32, teams := recBits v k 31 16 + 1
    prio := recBits v k 15 13, qlog := recBits v k 12 9 }

/-- The fields of a record of 512 bytes. -/
def launchRecOf (bs : List Byte) : LaunchRec :=
  let v := leNat bs
  let nlev := recBits v 1 46 44 + 1
  let nstage := recBits v 1 43 40
  { entry := BitVec.ofNat 64 (recBits v 0 255 192), lcode := BitVec.ofNat 64 (recBits v 0 191 128)
    seed := BitVec.ofNat 64 (recBits v 0 127 64), rmode := BitVec.ofNat 32 (recBits v 0 63 32), ftzm := BitVec.ofNat 32 (recBits v 0 13 0)
    omap := BitVec.ofNat 64 (recBits v 1 255 192), cpl := BitVec.ofNat 64 (recBits v 1 191 128)
    sys := (recBits v 1 95 80, recBits v 1 111 96, recBits v 1 127 112), vregs := recBits v 1 79 72, qbud := recBits v 1 71 64
    scratch := recBits v 1 63 55, tiles := recBits v 1 54 50, prio := recBits v 1 49 47, nlev := nlev, nstage := nstage
    policy := recBits v 1 39 38, redund := recBits v 1 37 37 == 1, idemp := recBits v 1 36 36 == 1, ordered := recBits v 1 35 35 == 1
    depth := recBits v 1 34 33, bpass := recBits v 1 32 32 == 1, wdlim := recBits v 1 31 0
    levels := (List.range nlev).map (levelOf v)
    args := Vector.ofFn fun k => BitVec.ofNat 64 (recBits v 4 (64 * k.val + 63) (64 * k.val))
    stages := (List.range nstage).map (stageOf v) }

/-! The checks (R319, R320). -/

/-- CHECK matches the first 510 bytes (R316). -/
def checkMatches (bs : List Byte) : Bool := crc16 (bs.take 510) == recBits (leNat bs) 15 255 240

/-- Every must-be-zero field is zero (R313 to R316). -/
def zeroFields (v : Nat) (r : LaunchRec) : Bool :=
  let level (i : Nat) : Nat := recBits v (2 + i / 4) (64 * (i % 4) + 63) (64 * (i % 4))
  recBits v 0 31 14 == 0 && r.lcode.toNat % 16 == 0 && (r.bpass || r.omap == 0) &&
  (r.levels.any (·.dom == 7) || r.sys == (0, 0, 0)) &&
  ((List.range 8).all fun i => if i < r.nlev then level i / 2 ^ 51 == 0 else level i == 0) &&
  ((List.range 8).all fun j => if j < r.nstage then recBits v (5 + j) 8 0 == 0 else recBits v (5 + j) 255 0 == 0) &&
  (r.stages.all fun j => j.qaddr != 0 || j.qlog == 0) && recBits v 13 255 0 == 0 && recBits v 14 255 0 == 0 && recBits v 15 207 0 == 0

/-- The domains of the levels never decrease, from level 3 up above team (R12). -/
def domainsOk (ls : List Level) : Bool :=
  match ls with
  | a :: b :: c :: rest =>
    a.dom == 0 && b.dom == 2 && c.dom == 3 && (rest.all fun l => 4 ≤ l.dom) && ((rest.zip (rest.drop 1)).all fun p => p.1.dom ≤ p.2.dom)
  | _ => false

/-- The hierarchy obeys R12 and R13. -/
def LaunchRec.hierarchyOk (r : LaunchRec) : Bool :=
  let d := r.totalDims
  domainsOk r.levels && (r.level 0).size ≤ 32 && (r.level 1).size ≤ 32 && d.1 ≤ 2 ^ 32 && d.2.1 ≤ 2 ^ 32 && d.2.2 ≤ 2 ^ 32

/-- A BPASS launch is accepted (R200). -/
def LaunchRec.passOk (r : LaunchRec) : Bool :=
  r.vregs ≤ 48 && (r.level 0).x % 2 ^ r.depth == 0 && (r.level 0).y % 2 ^ r.depth == 0 && r.omap != 0 && r.omap.toNat % 8 == 0

/-- The record's fields are accepted (R320). -/
def LaunchRec.fieldsOk (r : LaunchRec) (v : Nat) : Bool :=
  let single (l : Level) : Bool := l.x == 1 && l.y == 1 && l.z == 1
  zeroFields v r && r.nstage ≤ 8 && 3 ≤ r.nlev &&
  r.entry.toNat % 4 == 0 && (r.nstage == 0 || r.entry == 0) &&
  ((List.range 8).all fun c => rmodeRnd r.rmode c < 6) && r.policy != 3 && (r.levels.all fun l => l.dom != 1) && r.wdlim != 0 &&
  16 ≤ r.vregs && r.vregs ≤ 96 && r.vregs % 8 == 0 && r.qbud ≤ 128 && r.scratch ≤ 256 && r.tiles ≤ 16 && r.hierarchyOk &&
  (r.nstage == 0 || (r.nlev == 3 && single (r.level 2) && !r.ordered && !r.bpass)) &&
  (r.stages.all fun j => j.entry.toNat % 4 == 0 && (j.cntr == 0) == (j.thresh == 0) && j.cntr.toNat % 4 == 0 && j.qaddr.toNat % 64 == 0) &&
  (if r.bpass then r.passOk else r.depth == 0)

/-- A team fits on a core and in the context pool (R320, R350). -/
def LaunchRec.fits (r : LaunchRec) (cpsize : Nat) : Bool :=
  r.share ≤ 393216 && r.groups ≤ 64 && (r.areaSize + 65535) / 65536 * 65536 ≤ cpsize * 2 ^ 20

/-- The status with which a record is rejected, if it is (R319). -/
def State.rejection (s : State) (asid : Nat) (bs : List Byte) : Option Nat :=
  let r := launchRecOf bs
  if !checkMatches bs then some 2
  else if !r.fieldsOk (leNat bs) then some 1
  else if !r.fits (s.asid asid).cpsize.toNat then some 3
  else if 4096 ≤ s.launches.length then some 4
  else none

/-! Dealing (R328, R333). -/

/-- The outermost level above team that is bound to a domain: its instances hold those of the levels below it (R12, R13). -/
def LaunchRec.outer (r : LaunchRec) (dom : Nat) : Option Nat :=
  (List.range r.levels.length).reverse.find? fun i => 3 ≤ i && (r.level i).dom == dom

/-- The instance of a level that a team belongs to: its coordinates, as a number. -/
def LaunchRec.instOf (r : LaunchRec) (i index : Nat) : Nat :=
  let d := r.localDims
  let ext (f : Level → Nat) : Nat := ((r.levels.take i).drop 2).foldl (fun n l => n * f l) 1
  let ux := ext (·.x)
  let uy := ext (·.y)
  let uz := ext (·.z)
  index % d.1 / ux + d.1 / ux * (index / d.1 % d.2.1 / uy + d.2.1 / uy * (index / (d.1 * d.2.1) / uz))

/-- Where the instance of a domain that a team belongs to stands, if the launch binds a level to the domain and it has a place. -/
def Launch.placed (l : Launch) (dom index copy : Nat) : Option Nat :=
  (l.record.outer dom).bind fun i =>
    (l.places.find? fun p => p.dom == dom && p.inst == l.record.instOf i index && p.copy == copy).map (·.number)

/-- The instance receives its place. -/
def Launch.place (l : Launch) (dom index copy number : Nat) : Launch :=
  match l.record.outer dom, l.placed dom index copy with
  | some i, none => { l with places := l.places ++ [{ dom := dom, inst := l.record.instOf i index, copy := copy, number := number }] }
  | _, _ => l

/-- Groups of the teams that are resident on a core or queued to it. -/
def State.groupsOn (s : State) (core : Nat) : Nat :=
  (s.teams.filter fun t => t.core == core && (t.state == .resident || t.state == .queued)).foldl
    (fun n t => n + match s.launchOf t with | some l => l.record.groups | none => 0) 0

/-- Free group places of a cluster: 64 for each core, less the groups on it. -/
def State.freePlaces (s : State) (cluster : Nat) : Int :=
  ((List.range 8).map fun k => (64 : Int) - s.groupsOn (8 * cluster + k)).foldl (· + ·) 0

/-- The clusters of a die that have a core in service. -/
def State.clustersOf (s : State) (die : Nat) : List Nat :=
  ((List.range 12).map (12 * die + ·)).filter fun c => (List.range 8).any fun k => s.inService (.core (8 * c + k))

/-- The cluster with the most free places, the lowest on ties, none of those excluded. -/
def State.bestCluster (s : State) (die : Nat) (not_ : List Nat) : Option Nat :=
  match (s.clustersOf die).filter fun c => !not_.contains c with
  | [] => none
  | c :: cs => some (cs.foldl (fun b c => if s.freePlaces b < s.freePlaces c then c else b) c)

/-- The next core in turn among n from a base, in service and outside the excluded clusters. -/
def State.turnCore (s : State) (base n turn : Nat) (not_ : List Nat) : Option Nat :=
  ((List.range n).map fun k => base + (turn + k) % n).find? fun c => s.inService (.core c) && !not_.contains (clusterOf c)

/-- A cluster's turn. -/
def State.clusterTurnOf (s : State) (cluster : Nat) : Nat :=
  match s.clusterTurn.find? fun x => x.1 == cluster with
  | some x => x.2
  | none => 0

/-- The die of a team, both of whose copies go to one: its die-bound instance's, its cluster-bound instance's, else the next in turn. -/
def Launch.pickDie (l : Launch) (index : Nat) : Nat × Launch :=
  match l.placed 5 index 0, l.placed 4 index 0 with
  | some d, _ => (d, l)
  | none, some c => (c / 12, l.place 5 index 0 (c / 12))
  | none, none => (l.dealt % 4, { l with dealt := l.dealt + 1 }.place 5 index 0 (l.dealt % 4))

/-- A core of a die for a copy of a team, outside some clusters: with its cluster-bound instance, else in the die's turn; the turns
move on. -/
def State.pickCore (s : State) (l : Launch) (die index copy : Nat) (not_ : List Nat) : Option (Nat × State) :=
  match l.record.outer 4 with
  | some _ =>
    match (match l.placed 4 index copy with | some c => some c | none => s.bestCluster die not_) with
    | none => none
    | some cl =>
      match s.turnCore (8 * cl) 8 (s.clusterTurnOf cl) not_ with
      | none => none
      | some c => some (c, ({ s with clusterTurn := upsert (fun x => x.1 == cl) (cl, (c % 8 + 1) % 8) s.clusterTurn } : State).modLaunch l.id
          fun l => l.place 4 index copy cl)
  | none =>
    match s.turnCore (96 * die) 96 (vget s.dieTurn die 0) not_ with
    | none => none
    | some c => some (c, { s with dieTurn := vset s.dieTurn die ((c % 96 + 1) % 96) })

/-- A team as it is dealt to a core's queue. -/
def queuedTeam (id launch stage index core : Nat) (red : Option Redundant) : Team :=
  { id := id, launch := launch, stage := stage, index := index, core := core, state := .queued, groups := []
    gregs := Vector.replicate 8 GReg.initial, gpend := [], barGen := 0, arrived := [], scratch := [], tiles := []
    tcfg := Vector.replicate 16 0x3F01, area := none, since := 0, drain := none, saving := false, again := false, pass := none, red := red }

/-- A team enters a core's queue of 8 entries, if there is room; one that is dealt again goes ahead of the others (R333). -/
def State.pushQueue (s : State) (t : Team) : Option State :=
  let c := s.core t.core
  if 8 ≤ c.queue.length then none
  else some (({ s with teams := s.teams ++ [t] } : State).setCore { c with queue := if t.again then t.id :: c.queue else c.queue ++ [t.id] })

/-- One team of a stage dealt, both copies of it under REDUND, in different clusters of one die; none when its core's queue is full. -/
def State.dealTeam (s : State) (l : Launch) (stage index : Nat) (again : Bool) : Option State :=
  let (die, l') := l.pickDie index
  let s := s.modLaunch l.id fun _ => l'
  match s.pickCore l' die index 0 [] with
  | none => none
  | some (c0, s) =>
    let id := s.fresh
    let team (id core : Nat) (red : Option Redundant) : Team := { queuedTeam id l.id stage index core red with again := again }
    if !l.record.redund then ({ s with fresh := s.fresh + 1 } : State).pushQueue (team id c0 none)
    else
      let half (twin copy : Nat) : Redundant := { twin := twin, copy := copy, closing := none, granted := false, mail := [] }
      match ({ s with fresh := s.fresh + 2 } : State).pushQueue (team id c0 (some (half (id + 1) 0))) with
      | none => none
      | some s =>
        match s.pickCore l' die index 1 [clusterOf c0] with
        | none => none
        | some (c1, s) => s.pushQueue (team (id + 1) c1 (some (half id 1)))

/-- Splits of a team that wait in a `stepq`. -/
def State.waitingStepq (s : State) (t : Team) : Bool :=
  s.cmds.any fun c => c.team == t.id && match c.kind with | .stage false _ _ none => true | _ => false

/-- A queued stage may dispatch a team (R322): its queue holds more entries than its resident teams that wait in `stepq`, and the
next stage's queue is not full. A read that fails gives the state it leaves. -/
def State.stageOpen (s : State) (l : Launch) (stage queued : Nat) : Except State Bool :=
  match l.record.stages[stage]? with
  | none => .ok true
  | some st =>
    if st.qaddr = 0 then .ok true
    else if s.stageHeld l.id stage || s.stageHeld l.id (stage + 1) then .ok false
    else
      match s.schedulerRead l stage st.qaddr 8 with
      | .error s' => .error s'
      | .ok bs =>
        let n := ((headTail bs).2 + 2 ^ 32 - (headTail bs).1) % 2 ^ 32
        let waits := (s.teams.filter fun t => t.launch == l.id && t.stage == stage && t.state == .resident && s.waitingStepq t).length
        if n ≤ waits + queued then .ok false
        else
          match l.record.stages[stage + 1]? with
          | none => .ok true
          | some nx =>
            if nx.qaddr = 0 then .ok true
            else
              match s.schedulerRead l (stage + 1) nx.qaddr 8 with
              | .error s' => .error s'
              | .ok bs => .ok (((headTail bs).2 + 2 ^ 32 - (headTail bs).1) % 2 ^ 32 < 2 ^ nx.qlog)

/-- A stage's priority (R312). -/
def LaunchRec.prioOf (r : LaunchRec) (stage : Nat) : Nat := match r.stages[stage]? with | some j => j.prio | none => r.prio

/-- The stages of a launch that have teams to deal. -/
def Launch.dealable (l : Launch) : List Nat :=
  (List.range l.stages.length).filter fun j => (match l.stages[j]? with | some st => st.eligible | none => false) && l.undealt j != 0

/-- The next team of a stage, requeued ones first (R333), and whether it is one. -/
def Launch.nextTeam (l : Launch) (stage : Nat) : Nat × Bool :=
  match l.stages[stage]? with
  | some st => match st.requeued with | i :: _ => (i, true) | [] => (st.next, false)
  | none => (0, false)

/-- One more team of a stage of a launch dealt; or the state that a read of its queues leaves when it fails. -/
def State.dealOne (s : State) (l : Launch) (j : Nat) : Option State :=
  let queued := (s.teams.filter fun t => t.launch == l.id && t.stage == j && t.state == .queued && t.counts).length
  match s.stageOpen l j queued with
  | .error s' => some s'
  | .ok false => none
  | .ok true =>
    let (index, again) := l.nextTeam j
    (s.dealTeam l j index again).map fun s => s.modLaunch l.id fun l => { l with stages := l.stages.mapIdx fun i st =>
      if i == j then (match st.requeued with | [] => { st with next := st.next + 1 } | _ :: rest => { st with requeued := rest }) else st }

/-- Teams dealt while queues have room: of the launches' stages the one of the highest priority first, in the order of acceptance (R312). -/
def State.deal (s : State) : Nat → State
  | 0 => s
  | fuel + 1 =>
    let ready := (s.launches.filter fun l => l.final.isNone && l.cancel.isNone && !s.halted.contains l.asid).flatMap fun l =>
      l.dealable.map fun j => (l, j)
    match ((List.range 8).reverse.flatMap fun p => ready.filter fun x => x.1.record.prioOf x.2 == p).findSome? fun x => s.dealOne x.1 x.2 with
    | some s' => s'.deal fuel
    | none => s

/-- Enough to fill every queue. -/
def dealFuel : Nat := 3072

/-! Acceptance (R319, R327, R377). -/

/-- The identifier after one (R377). -/
def nextLaunchId (n : Nat) : Nat := if n = 0xFFFFFFFE then 1 else n + 1

/-- A checked record becomes a launch (R311), and its teams are dealt. -/
def State.accept (s : State) (asid : Nat) (r : LaunchRec) (parent : Option Nat) : State :=
  let stage (j : Nat) : StageState :=
    { eligible := match r.stages[j]? with | some st => st.cntr == 0 | none => true
      next := 0, requeued := [], ended := 0, durations := [], after := [] }
  let l : Launch := { id := s.nextLaunch, asid := asid, record := r, stages := (List.range (Nat.max 1 r.nstage)).map stage
                      dealt := 0, places := [], killed := none, cancel := none, parent := parent, final := none }
  let s : State := { s with launches := s.launches ++ [l], nextLaunch := nextLaunchId s.nextLaunch }
  ((s.closeStages l.id).checkLaunch l.id).deal dealFuel

/-- LNCH (R327): the command and its token; the device reads the record between its issue and its acceptance. Copy 1 of a redundant
team receives what copy 0's command does (R358). -/
def execLnch (sd sa : SReg) (atEnd : Bool) (s : State) : Out State :=
  commandIssue (.lnch sd sa atEnd) (regsFrom sa 2) sd s fun c s =>
    let ptr := c.pair sa
    if c.inPass then .next (s.passEffects c)
    else if ptr.toNat % 64 ≠ 0 then .next (s.scalarFault c (.alignment, 0) ptr)
    else
      s.atClose c.team (.scalar c.ref) fun s =>
        match s.enterCommand c (.lnch sd sa atEnd) sd 8 (.lnch ptr atEnd false) with
        | none => .next s
        | some s => .next (s.advance c)

/-- A record that an `lnch` has read whole: its launch is accepted, or its token receives the rejection (R319, R327). -/
def State.launchChild (s : State) (a : Active) (record : DWord) (atEnd : Bool) (bs : List Byte) : State :=
  match s.rejection a.cmd.asid bs with
  | some st => (if st = 2 then s else s.writeCpl a.cmd.asid (launchRecOf bs).cpl st 0).endCmd a.cmd.id st
  | none =>
    let s := (s.cmdTaken a.cmd.id).modCmd a.cmd.id fun c => { c with kind := .lnch record atEnd true }
    let s := s.accept a.cmd.asid (launchRecOf bs) (if atEnd then some a.cmd.id else none)
    if atEnd then s else s.endCmd a.cmd.id 8

/-- The device goes on with an `lnch`: its 16 sectors in ascending order, each read after the one before it has been satisfied; a fault
of a read raises no trap, and its cause goes to the token. -/
def State.performLaunch (s : State) (a : Active) (record : DWord) (atEnd : Bool) : State :=
  match s.cmdFetch a record 512 Leaf.plainFmt with
  | .error .wait => s
  | .error (.issued s') => s'
  | .error (.fault f _) => s.endCmd a.cmd.id (7 + 256 * f.1.code)
  | .error (.bad _ o) => (s.mismatch o).endCmd a.cmd.id (7 + 256 * Cause.uncorrectableReg.code)
  | .ok bs => s.launchChild a record atEnd bs

/-! Dispatch (R36, R38, R205, R206, R322, R328, R350). -/

/-- What resident teams of a core hold: groups, register file bytes, tiles, scratchpad KiB. -/
def State.usedOn (s : State) (core : Nat) : Nat × Nat × Nat × Nat :=
  (s.teams.filter fun t => t.core == core && t.state == .resident).foldl (fun u t =>
    match s.launchOf t with
    | some l => (u.1 + l.record.groups, u.2.1 + l.record.share, u.2.2.1 + l.record.tiles, u.2.2.2 + l.record.scratch)
    | none => u) (0, 0, 0, 0)

/-- A core has room for a team of a launch. -/
def State.roomOn (s : State) (core : Nat) (r : LaunchRec) : Bool :=
  let u := s.usedOn core
  u.1 + r.groups ≤ 64 && u.2.1 + r.share ≤ 393216 && u.2.2.1 + r.tiles ≤ 16 && u.2.2.2 + r.scratch ≤ 256

/-- A free slot of the ASID's context pool, as an offset (R350). -/
def State.freeSlot (s : State) (asid size : Nat) : Option Nat :=
  let held := s.teams.filterMap fun t => if s.asidOf t == asid then
    (match t.area, s.launchOf t with | some a, some l => some (a, l.record.areaSize) | _, _ => none) else none
  let n := (s.asid asid).cpsize.toNat * 16
  ((List.range n).map (65536 * ·)).find? fun a => a + size ≤ n * 65536 && held.all fun h => a + size ≤ h.1 || h.1 + h.2 ≤ a

/-- Every lower-indexed team of an ordered launch has been dispatched (R38). -/
def State.orderFree (s : State) (l : Launch) (t : Team) : Bool :=
  !l.record.ordered ||
  ((match l.stages[t.stage]? with | some st => t.index < st.next && st.requeued.all (t.index < ·) | none => true) &&
   s.teams.all fun u => !(u.launch == l.id && u.index < t.index && (u.state == .queued || u.state == .saved)))

/-- A core takes teams of an ASID: it is in service, no hold names its cluster (R379), none of the ASID's teams there drains (R331). -/
def State.coreOpen (s : State) (core asid : Nat) : Bool :=
  s.inService (.core core) && !((s.asid asid).holds.any fun h => bit h.mask (clusterOf core)) &&
  !(s.teams.any fun t => t.core == core && s.asidOf t == asid && t.drain.isSome && t.state == .resident)

/-- The slot that holds the fewest groups of a core, the lowest on ties (R328). -/
def fewestSlot (counts : List Nat) : Nat :=
  (List.range 4).foldl (fun b k => if counts.getD k 0 < counts.getD b 0 then k else b) 0

/-- A cluster-bound team stays within its cluster, a die-bound team within its die (R13). -/
def LaunchRec.staysNear (r : LaunchRec) (from_ core : Nat) : Bool :=
  ((r.outer 4).isNone || clusterOf from_ == clusterOf core) && ((r.outer 5).isNone || dieOf from_ == dieOf core)

/-- A saved team may be restored on a core (R115, R333): the core takes teams of its ASID and has room, a unit of a cluster or die
stays in its place (R328), the copies of a redundant team stay in different clusters. -/
def State.mayRestore (s : State) (t : Team) (core : Nat) : Bool :=
  match s.launchOf t with
  | none => false
  | some l =>
    core < 384 && !s.halted.contains l.asid && s.coreOpen core l.asid && s.roomOn core l.record &&
    l.record.staysNear t.core core &&
    (match t.red.bind fun r => s.team? r.twin with | some u => u.state != .resident || clusterOf u.core != clusterOf core | none => true)

/-- The stage whose queue a command names, with its record, if it is queued. -/
def Launch.queueOf (l : Launch) (t : Team) (push : Bool) : Option (Nat × StageRec) :=
  let j := if push then t.stage + 1 else t.stage
  match l.record.stages[j]? with
  | some st => if st.qaddr = 0 then none else some (j, st)
  | none => none

/-- Entries of a queue. -/
def entries (h : Nat × Nat) : Nat := (h.2 + 2 ^ 32 - h.1) % 2 ^ 32

/-- A stage command that waits and cannot proceed: its queue is empty and open, or full. -/
def State.stageBlocked (s : State) (a : Active) : Bool :=
  match a.cmd.kind with
  | .stage push false _ none =>
    a.cmd.ending.isNone &&
    (match a.launch.queueOf a.team push with
     | none => false
     | some (j, st) =>
       match s.deviceRead none a.launch.asid st.qaddr 8 Leaf.isRaw with
       | .error _ => false
       | .ok bs => if push then 2 ^ st.qlog ≤ entries (headTail bs) else entries (headTail bs) = 0 && !a.launch.closed j)
  | _ => false

/-- Every live split of the team waits for a stage command that cannot proceed. -/
def State.teamBlocked (s : State) (t : Team) : Bool :=
  t.groups.any (fun g => !g.ended) && t.groups.all fun g => g.live.all fun kp =>
    s.cmds.any fun c => c.team == t.id && c.group == g.gid && c.uid == kp.2.set.uid &&
      match s.owned? c.id with | some a => s.stageBlocked a | none => false

/-- A team of a launch whose wait at a stage queue, if it has one, could proceed now (R323). -/
def State.stageReady (s : State) (t : Team) (l : Launch) : Bool :=
  match l.record.stages[t.stage]? with
  | none => true
  | some st => st.qaddr = 0 || !(({ s with teams := [{ t with state := .resident }] } : State).teamBlocked { t with state := .resident })

/-- A saved team of a launch may come back to a core: it goes ahead of the undispatched teams (R333). -/
def State.savedFirst (s : State) (l : Launch) (core : Nat) : Bool :=
  !l.record.ordered && s.teams.any fun t => t.launch == l.id && t.state == .saved && s.mayRestore t core && s.stageReady t l

/-- A queued team could be dispatched to its core now. -/
def State.readyHere (s : State) (l : Launch) (t : Team) : Bool :=
  t.state == .queued && !s.halted.contains l.asid && s.coreOpen t.core l.asid && s.roomOn t.core l.record && s.orderFree l t &&
  !s.savedFirst l t.core

/-- Another team is to be chosen before a queued one: one of its launch that is dealt again (R333), one of a higher priority that is
ready for the same core (R312). -/
def State.goesFirst (s : State) (l : Launch) (t : Team) : Bool :=
  s.teams.any fun u =>
    u.id != t.id &&
    match s.launchOf u with
    | none => false
    | some k =>
      let higher := l.record.prioOf t.stage < k.record.prioOf u.stage
      (!l.record.ordered && !t.again && u.again && u.launch == t.launch && s.readyHere k u) ||
      (higher && u.core == t.core && s.readyHere k u) || (higher && u.state == .saved && s.mayRestore u t.core && s.stageReady u k)

/-- Groups bound to issue slots one after another (R328). -/
def bindSlots (counts : List Nat) : List Group → List Group
  | [] => []
  | g :: gs =>
    let k := fewestSlot counts
    { g with slot := Fin.ofNat 4 k } :: bindSlots (counts.mapIdx fun i n => if i == k then n + 1 else n) gs

/-- Groups in each issue slot of a core. -/
def State.slotCounts (s : State) (core : Nat) : List Nat :=
  let gs := (s.teams.filter fun t => t.core == core && t.state == .resident).flatMap (·.groups)
  (List.range 4).map fun k => (gs.filter fun g => !g.ended && g.slot.val == k).length

/-- The groups of a team placed on its core, behind the stage's counter read (R311). -/
def State.placeGroups (s : State) (t : Team) (l : Launch) (gs : List Group) : State :=
  let after := match l.stages[t.stage]? with | some st => st.after | none => []
  let gs := (bindSlots (s.slotCounts t.core) gs).map fun g =>
    { g with splits := g.splits.map fun p => p.map fun p => p.modSet fun e => { e with past := after } }
  { s with fresh := s.fresh + gs.length, teams := s.teams.map fun u => if u.id == t.id then { u with groups := gs } else u }

/-- Groups of a team at a first dispatch. -/
def firstGroups (r : LaunchRec) (t : Team) (uid : Nat) : List Group :=
  (List.range r.groups).map fun g => elementGroup r t g (uid + g) r.heldLanes

/-- A team becomes resident on its core: zeroed tiles, scratchpad and registers (R9, R47, R232), its slot of the pool, its groups or, under
BPASS, its passes. -/
def State.makeResident (s : State) (t : Team) (l : Launch) (area : Nat) : State :=
  let r := l.record
  let copy1 := match t.red with | some x => x.copy == 1 | none => false
  let pass : Option PassState := if !r.bpass then none else
    some { level := 0, todo := if copy1 then [] else (List.range r.groups).map r.tile0, judged := [], proofs := [], mapDone := false, mapOps := []
           released := false }
  let pass := match t.red.bind fun x => (s.team? x.twin).bind (·.pass) with | some p => if copy1 && r.bpass then some { p with todo := [], released := false } else pass | none => pass
  let t := { t with state := .resident, again := false, area := some area, tiles := List.replicate r.tiles [], since := s.cycleOf t.core, pass := pass }
  let core := s.core t.core
  let s := (({ s with teams := s.teams.map fun u => if u.id == t.id then t else u } : State).setCore
    { core with queue := core.queue.filter fun id => id != t.id })
  if r.bpass then s else s.placeGroups t l (firstGroups r t s.fresh)

/-- A team whose passes are over, with its map performed at device scope, dispatched with the groups that have something to run (R205). -/
def State.release (s : State) (t : Team) (l : Launch) (p : PassState) : State :=
  let r := l.record
  let gs := ((List.range r.groups).map fun g => releasedGroup r t p g (s.fresh + g)).filter fun g => !g.ended
  let s := (s.modTeam t.id fun t => { t with pass := t.pass.map fun p => { p with released := true } }).placeGroups t l gs
  { s with fresh := s.fresh + r.groups }

/-- TEAM_DISPATCH: a queued team becomes resident when its core has room for it, the order of R38 and the stage allow it and the context
pool has a slot; a team whose bounds pass is over receives its element groups. -/
def execTeamDispatch (team : Nat) (s : State) : Out State :=
  match s.team? team with
  | none => .next s
  | some t =>
    match s.launchOf t with
    | none => .next s
    | some l =>
      if s.halted.contains l.asid then .next s
      else
        match t.state, t.pass with
        | .queued, _ =>
          if !s.readyHere l t || s.goesFirst l t then .next s
          else
            match s.stageOpen l t.stage 0 with
            | .error s' => .next s'
            | .ok false => .next s
            | .ok true =>
              match s.freeSlot l.asid l.record.areaSize with
              | none => .next s
              | some area => .next ((s.makeResident t l area).deal dealFuel)
        | .resident, some p =>
          let done := p.mapOps.all fun id => match s.op? id with | some o => o.opPerformed .device | none => true
          if p.released || !p.mapDone || !done || t.saving then .next s else .next (s.release t l p)
        | _, _ => .next s

/-! Stealing (R329). -/

/-- A core idles: its queue is empty and it has room for a team, the smallest being one group of 16 vector registers (R320). -/
def State.idles (s : State) (core : Nat) : Bool :=
  (s.core core).queue.isEmpty && s.inService (.core core) && (s.usedOn core).1 < 64 && (s.usedOn core).2.1 + 16 * 128 ≤ 393216

/-- The die that a request goes to after so many failures. -/
def stealDie (core fails : Nat) : Nat := if fails < 8 then dieOf core else (dieOf core + 1 + (fails - 8) % 3) % 4

/-- STEAL_REQUEST: an idle core asks a victim, in its own die or after 8 failures in another. -/
def execStealRequest (thief victim : Nat) (s : State) : Out State :=
  let c := s.core thief
  if !s.idles thief || c.asked.isSome || thief = victim || 384 ≤ thief || 384 ≤ victim || !s.inService (.core victim) ||
      dieOf victim ≠ stealDie thief c.fails then .next s
  else .next (s.setCore { c with asked := some victim })

/-- A queued team may go to a thief. -/
def State.mayGive (s : State) (t : Team) (thief : Nat) : Bool :=
  match s.launchOf t with
  | none => false
  | some l =>
    s.roomOn thief l.record && s.coreOpen thief l.asid &&
    l.record.staysNear t.core thief &&
    (match t.red.bind fun r => s.team? r.twin with | some u => clusterOf u.core != clusterOf thief | none => true) &&
    s.orderFree l t

/-- STEAL_ANSWER: the victim gives its newest queued team that the thief may hold, or a failure. -/
def execStealAnswer (thief : Nat) (s : State) : Out State :=
  let c := s.core thief
  match c.asked with
  | none => .next s
  | some victim =>
    let v := s.core victim
    match v.queue.reverse.find? fun id => c.queue.length < 8 && match s.team? id with | some t => s.mayGive t thief | none => false with
    | none => .next (s.setCore { c with asked := none, fails := c.fails + 1 })
    | some id =>
      let s := (s.setCore { v with queue := v.queue.filter fun x => x != id }).setCore { c with asked := none, fails := 0, queue := c.queue ++ [id] }
      .next ((s.modTeam id fun t => { t with core := thief }).deal dealFuel)

end Sys2Proof.Machine
end

