-- ==== Sys2Proof/Machine/Stage.lean ====
section
/-! DEFINITION. Pipeline stages: `stepq` and `stepp` (R321, R325, R326), the stage counters (R311, R324, R396), and the saving of a
team that its queues block (R323). -/

namespace Sys2Proof.Machine

/-! Issue (R325, R326). -/

/-- What both commands share: the checks at issue, then the command and its token. -/
def stageIssue (i : Instr) (sd sb : SReg) (nb push : Bool) (s : State) : Out State :=
  commandIssue i [sb] sd s fun c s =>
    let off := (c.read sb).toNat
    if c.inPass then .next (s.passEffects c)
    else if off % 32 ≠ 0 then .next (s.scalarFault c (.alignment, 0) (BitVec.ofNat 64 off))
    else if 1024 * c.launch.record.scratch < off + 32 then .next (s.scalarFault c (.bounds, 0) (BitVec.ofNat 64 off))
    else
      s.atClose c.team (.scalar c.ref) fun s =>
        match s.enterCommand c i sd 8 (.stage push nb off none) with
        | none => .next s
        | some s => .next (s.advance c)

/-- STEPQ: take an entry of the queue of the team's stage. -/
def execStepq (sd sb : SReg) (nb : Bool) (s : State) : Out State := stageIssue (.stepq sd sb nb) sd sb nb false s
/-- STEPP: put an entry into the queue of the next stage. -/
def execStepp (sd sb : SReg) (nb : Bool) (s : State) : Out State := stageIssue (.stepp sd sb nb) sd sb nb true s

/-! The queue engine (R321, R326). -/

/-- The token of a stage command: the entry's number, the status, no cause. -/
def stageToken (k status : Nat) : Nat := k % 2 ^ 22 * 1024 + status * 256

/-- The address of entry k. -/
def StageRec.entryAddr (st : StageRec) (k : Nat) : DWord := st.qaddr + BitVec.ofNat 64 (64 + 32 * (k % 2 ^ st.qlog))

/-- A read of a stage command, satisfied at once or not yet: the queue engine performs a command indivisibly (R321). -/
def State.engineRead (s : State) (o : MemOp) : Except Halt (List Byte × State) :=
  if !s.canIssue [o] || !s.maySatisfy { o with stamp := s.fresh } then .error .wait
  else
    let (bs, rf) := s.loadValue o
    .ok (bs, s.pushOp { o.satisfied bs rf with done := true })

/-- A read at the home of a queue's bytes. -/
def State.queueRead (s : State) (a : Active) (ptr : DWord) (order : Order) : Except Halt (List Byte × State) :=
  match s.cmdCheck a ptr 32 .load Leaf.isRaw with
  | .error e => .error e
  | .ok l =>
    match s.engineRead { s.cmdOp a .wellLoad .mem (l.pa ptr) 32 l.sc with order := order } with
    | .error e => .error e
    | .ok (bs, s) => .ok (bs, s.usedLeaf (some a.team.core) a.cmd.asid ptr l)

/-- A write at the home of a queue's bytes. -/
def State.queueWrite (s : State) (a : Active) (ptr : DWord) (bs : List Byte) (order : Order) : Except Halt State :=
  match s.cmdCheck a ptr bs.length .store Leaf.isRaw with
  | .error e => .error e
  | .ok l =>
    let o := { s.cmdOp a .wellStore .mem (l.pa ptr) bs.length l.sc with order := order, data := plainData bs, done := true }
    if !s.canIssue [o] || !s.mayHome { o with stamp := s.fresh } then .error .wait
    else .ok (((s.pushOp o).homeOp { o with id := s.fresh, stamp := s.fresh } o.data).usedLeaf (some a.team.core) a.cmd.asid ptr l)

/-- An earlier command of the same kind waits at the same queue: entries move in the order of arrival. -/
def State.queueTurn (s : State) (a : Active) (push : Bool) : Bool :=
  s.cmds.all fun c =>
    match c.kind with
    | .stage p nb _ slot =>
      !(p == push && !nb && slot.isNone && c.ending.isNone && c.id < a.cmd.id &&
        match s.owned? c.id with | some b => b.launch.id == a.launch.id && b.team.stage == a.team.stage | none => false)
    | _ => true

/-- A `stepp` on the queue is on its way: the queue is served one command at a time, indivisibly, even while the team of that `stepp` is
saved with a fault of it held (R321, R344). -/
def State.queueLocked (s : State) (a : Active) (j : Nat) : Bool :=
  s.cmds.any fun c =>
    match c.kind with
    | .stage true _ _ (some _) => c.id != a.cmd.id && c.ending.isNone &&
      (match s.team? c.team with | some t => t.launch == a.launch.id && t.stage + 1 == j | none => false)
    | _ => false

/-- `stepq` at the queue engine. -/
def State.takeEntry (s : State) (a : Active) (j : Nat) (st : StageRec) (nb : Bool) (off : Nat) : Except Halt State :=
  match s.queueRead a st.qaddr .acquire with
  | .error e => .error e
  | .ok (bs, s1) =>
    let h := headTail bs
    if h.1 = h.2 then
      if a.launch.closed j then .ok (s1.endCmd a.cmd.id (stageToken 0 1))
      else if nb then .ok (s1.endCmd a.cmd.id (stageToken 0 2))
      else .error .wait
    else if !s.queueTurn a false then .error .wait
    else
      match s1.queueRead a (st.entryAddr h.1) .relaxed with
      | .error e => .error e
      | .ok (entry, s2) =>
        match s2.queueWrite a st.qaddr (natLe 4 (h.1 + 1)) .relaxed with
        | .error e => .error e
        | .ok s3 =>
          match s3.cmdWrite (s3.cmdOp a .store (.scratch a.team.id) off 32 false) (plainData entry) with
          | .error e => .error e
          | .ok s4 => .ok (((s4.endCmd a.cmd.id (stageToken h.1 0)).closeStages a.launch.id).checkLaunch a.launch.id)

/-- `stepp` at the queue engine: its entry first, then, once that is performed at device scope, TAIL. -/
def State.putEntry (s : State) (a : Active) (st : StageRec) (nb : Bool) (off : Nat) (slot : Option Nat) : Except Halt State :=
  match slot with
  | none =>
    match s.queueRead a st.qaddr .relaxed with
    | .error e => .error e
    | .ok (bs, s1) =>
      let h := headTail bs
      if 2 ^ st.qlog ≤ entries h then (if nb then .ok (s1.endCmd a.cmd.id (stageToken 0 2)) else .error .wait)
      else if !s.queueTurn a true then .error .wait
      else
        match s1.engineRead (s1.cmdOp a .load (.scratch a.team.id) off 32 false) with
        | .error e => .error e
        | .ok (entry, s2) =>
          match s2.queueWrite a (st.entryAddr h.2) entry .relaxed with
          | .error e => .error e
          | .ok s3 => .ok (s3.modCmd a.cmd.id fun c => { c with kind := .stage true nb off (some h.2) })
  | some k =>
    match s.queueWrite a (st.qaddr + 4) (natLe 4 (k + 1)) .release with
    | .error e => .error e
    | .ok s => .ok (s.endCmd a.cmd.id (stageToken k 0))

/-- A stage command at its queue engine, or an `lnch`, as far as it can proceed; a TRANSLATION stops a stage command and its split (R326,
R327, R344). -/
def State.performStage (s : State) (id : Nat) : State :=
  match s.owned? id with
  | none => s
  | some a =>
    match a.cmd.kind with
    | .stage push nb off slot =>
      if a.cmd.ending.isSome || s.cmdHeld id || s.halted.contains a.launch.asid then s
      else
        match a.launch.queueOf a.team push with
        | none => s.endCmd id (stageToken 0 3)
        | some (j, st) =>
          if s.queueLocked a j then s
          else
            match (if push then s.putEntry a st nb off slot else s.takeEntry a j st nb off) with
            | .ok s' => s'
            | .error h => s.cmdHalt a 5 h
    | .lnch record atEnd false => if a.cmd.ending.isSome || s.halted.contains a.launch.asid then s else s.performLaunch a record atEnd
    | _ => s

/-! Stage counters (R311, R324, R396). -/

/-- The scheduler reads a stage's counter: at its threshold the stage is eligible, and the read precedes its teams. -/
def State.readCounter (s : State) (launch stage : Nat) : State :=
  match s.launch? launch with
  | none => s
  | some l =>
    match l.stages[stage]?, l.record.stages[stage]? with
    | some x, some st =>
      if x.eligible || st.cntr = 0 || l.final.isSome || l.cancel.isSome || s.stageHeld launch stage then s
      else
        match s.schedulerRead l stage st.cntr 4 with
        | .error s' => s'
        | .ok bs =>
          if leNat bs < st.thresh then s
          else
            match s.walk none l.asid st.cntr with
            | .leaf p =>
              let (v, rf) := s.find none none seesAll (p.pa st.cntr) 4
              let o := { blankOp .device l.asid .wellLoad .mem (p.pa st.cntr) 4 with
                order := .acquire, result := some v, rf := rf, done := true }
              ((s.pushOp o).modLaunch launch fun l => { l with stages := l.stages.mapIdx fun i y =>
                if i == stage then { y with eligible := true, after := [s.fresh] } else y }).deal dealFuel
            | _ => s
    | _, _ => s

/-- STAGE_COUNTER_READ: after a write to the counter has been performed at device scope. -/
def execStageCounterRead (launch stage : Nat) (s : State) : Out State := .next (s.readCounter launch stage)
/-- STAGE_COUNTER_POLL: every counter that has not met its threshold is read at least once in 65,536 cycles. -/
def execStageCounterPoll (launch stage : Nat) (s : State) : Out State := .next (s.readCounter launch stage)

/-! STAGE_TEAM_SAVE (R323). -/

/-- A team of another eligible stage of the launch waits for a core: one that is not dispatched, or a saved one whose own wait could
proceed. -/
def State.stageWaits (s : State) (l : Launch) (stage : Nat) : Bool :=
  (l.dealable.any fun j => j != stage) ||
  s.teams.any fun t => t.launch == l.id && t.stage != stage && (t.state == .queued || (t.state == .saved && s.stageReady t l))

/-- STAGE_TEAM_SAVE: a team of a queued stage whose every split waits in a `stepq` or `stepp` that cannot proceed is to be saved. -/
def execStageTeamSave (team : Nat) (s : State) : Out State :=
  match s.team? team with
  | none => .next s
  | some t =>
    match s.launchOf t with
    | none => .next s
    | some l =>
      let queued := match l.record.stages[t.stage]? with | some st => st.qaddr != 0 | none => false
      if t.state != .resident || t.saving || !queued || !s.teamBlocked t || !s.stageWaits l t.stage then .next s
      else .next (s.modTeam team fun t => { t with saving := true })

end Sys2Proof.Machine
end

