-- ==== Sys2Proof/Machine/Ordering.lean ====
section
/-! DEFINITION. The steps of the reference ordering machine (R254 to R266): satisfying loads, moving and homing writes, applying
records, completing operations (R26, R29, R42, R62), and the comparison of epochs (R358, R359). -/

namespace Sys2Proof.Machine

/-! Loads and movement (R256, R257). -/

/-- LOAD_SATISFY: an issued load returns what it finds. -/
def execLoadSatisfy (op : Nat) (s : State) : Out State :=
  match s.op? op with
  | none => .next s
  | some o =>
    if !s.maySatisfy o then .next s
    else
      let (bs, rf) := s.loadValue o
      .next (s.setOp (o.satisfied bs rf))

/-- The place after one. -/
def Place.onward : Place → Place | .queue => .core | .core => .cluster | p => p

/-- WRITE_MOVE: a write moves to the next place of its path; the last step of a path is WRITE_HOME. -/
def execWriteMove (op : Nat) (s : State) : Out State :=
  match s.op? op with
  | none => .next s
  | some o =>
    if !s.mayMove o then .next s
    else .next { s.setOp { o with place := o.place.onward, stamp := s.fresh } with fresh := s.fresh + 1 }

/-! Read-modify-writes (R102, R103, R275 to R277). -/

/-- The sticky overflow mark of an xadd cell, as 128 bits. -/
def xaddMark : Nat := 2 ^ 127

/-- An f32 addend in units of 2^−64, truncated towards zero; none for Inf and NaN. -/
def xaddAddend (code : Nat) : Option Int :=
  match FFmt.f32.decode code with
  | .fin n m e =>
    let k := e + 64
    let mag : Nat := if 0 ≤ k then m * 2 ^ k.toNat else m / 2 ^ (-k).toNat
    some (if n then -(mag : Int) else mag)
  | _ => none

/-- The cell after an xadd. -/
def xadd (old : Nat) (addend : Option Int) : Nat :=
  match addend with
  | none => xaddMark
  | some d =>
    let v := signed 128 old + d
    if old % 2 ^ 128 = xaddMark then xaddMark
    else if v ≤ -(2 ^ 127 : Nat) || (2 ^ 127 : Nat) ≤ v then xaddMark else wrap 128 v

/-- The value that a read-modify-write of n bytes leaves. -/
def Rmw.new (r : Rmw) (n old : Nat) : Nat :=
  let w := 8 * n
  match r.aop with
  | .load => old
  | .store | .swap => r.b
  | .cas => if old % 2 ^ w = r.c % 2 ^ w then r.b else old
  | .add => old + r.b
  | .and => old &&& r.b
  | .or => old ||| r.b
  | .xor => old ^^^ r.b
  | .min => if signed w r.b < signed w old then r.b else old
  | .max => if signed w old < signed w r.b then r.b else old
  | .minu => if r.b % 2 ^ w < old then r.b else old
  | .maxu => if old < r.b % 2 ^ w then r.b else old
  | .binc => if old < r.c % 2 ^ w then old + 1 else old
  | .fadd => faddF32 r.rnd r.sat old (r.b % 2 ^ 32)
  | .xadd =>
    if r.f32 then xadd old (xaddAddend (r.b % 2 ^ 32))
    else xadd old (if r.b % 2 ^ 128 = xaddMark then none else some (signed 128 r.b))

/-! Homing (R258, R298, R303). -/

/-- What an operation's bytes hold at their home, and the writes they come from. -/
def State.atHome (s : State) (o : MemOp) : List Byte × List Nat :=
  match o.space with
  | .mem => s.find none none seesAll o.addr o.size
  | .scratch t => ((s.scratchOf t).readN o.addr o.size, (s.findScratch none seesAll t o.addr o.size).2)
  | .remote _ => ([], [])

/-- A sector of a copy that names a barrier object counts its bytes there once it is written (R286, R287, R294): an operation of
the engine on the object, behind the sector. -/
def State.pumpBar (s : State) (o : MemOp) : State :=
  match o.agent, o.space with
  | .engine _ _ _ id, .scratch t =>
    match s.cmd? id with
    | some { kind := .copy { bar := some a, .. }, .. } =>
      let x := (o.data.filter fun d => d.2 != 0).length
      let b := ((barObj ((s.scratchOf t).readN a 16)).pump x).bytes
      let p := { blankOp o.agent o.asid (.rmw { aop := .swap, b := 0, c := 0, rnd := 0, sat := false, f32 := false }) (.scratch t) a 16 with
        uid := o.uid, scope := .team, past := unite o.past [o.id], data := plainData b, place := .homed, result := some []
        rf := s.barSources t (some a), done := true }
      (s.setScratch t ((s.scratchOf t).writeN a b)).pushOp p
    | _ => s
  | _, _ => s

/-- A command whose block cannot be rewritten ends with FORMAT_ACCESS (R303). -/
def State.blockFault (s : State) (o : MemOp) : State :=
  match o.agent with
  | .engine _ _ _ id =>
    match s.owned? id with
    | some a =>
      let dst := match a.cmd.kind with | .copy { shape := some p, .. } => p.dst | _ => 0
      s.cmdFault a (.formatAccess, 0) dst 4
    | none => s
  | _ => s

/-- New bytes of a compressed block merged into what it holds, and the block compressed anew, with its header (R303). -/
def State.homeBlock (s : State) (o : MemOp) (hdr : Nat) (data : List (Byte × Byte)) : State :=
  match decompress (s.mem.read hdr).toNat (s.mem.readN o.addr 256) fun k => (Config.freeWord (o.addr + k)).truncate 8 with
  | none => ((s.setOp { o with data := [] }).homeOp { o with data := [] } []).blockFault o
  | some old =>
    let new := (old.zip data).map fun p => Memory.merge p.1 p.2.1 p.2.2
    let (h, slot) := compress new
    let s := s.homeOp { o with size := slot.length } (plainData slot)
    s.homeNew { blankOp o.agent o.asid .store .mem hdr 1 with
      uid := o.uid, past := unite o.past [o.id], data := plainData [BitVec.ofNat 8 h], site := o.site }

/-! Check words (R251, R347). -/

/-- The register field code that a result goes to (R83, R338). -/
def Dest.code : Dest → BitVec 7
  | .vregs r _ _ => BitVec.ofNat 7 r
  | .entry q _ _ => BitVec.ofNat 7 (96 + q)
  | .sregs reg _ _ => if 16 ≤ reg.toNat then BitVec.ofNat 7 (96 + reg.toNat) else 0
  | .block _ _ _ _ code _ => BitVec.ofNat 7 code
  | _ => 0

/-- The fault of a sector that has failed its check word: of the group that issued the load or the store, of the command that moved it,
of the remote command that sent it here, or of nobody when the host did. -/
def State.sectorFault (s : State) (o : MemOp) : State :=
  match o.agent with
  | .group t g _ =>
    match s.team? t with
    | none => s
    | some team =>
      match team.group? g with
      | none => s
      | some group =>
        if group.ended || team.state != .resident then s
        else
          let src := if o.cid.isSome then 1 else 0
          let trap := s.siteTrap team group (group.splitNumber o.uid) o.site.spc src (.uncorrectableReg, 2) o.site.ptr
          s.takeFault { trap with lpc := o.site.lpc, lane := o.site.lane, reg := o.dest.code } t g
            (.split { team := t, group := g, split := 0 } 0)
  | .engine _ _ _ id => (match s.owned? id with | some a => s.cmdFault a (.uncorrectableScratch, 2) 0 4 | none => s)
  | .fabric node => { s with sent := s.sent ++ [.answer node false [] Cause.uncorrectableScratch.code] }
  | _ => s

/-- A write whose sector has failed its check word is not written. -/
def State.dropSpoiled (s : State) (o : MemOp) : State :=
  ({ s.mismatch o with ops := s.ops.filter fun x => x.id != o.id } : State).sectorFault o

/-- A write performed at its home once its check word is verified, an atomic with the value that it returns. -/
def State.home (s : State) (o : MemOp) : State :=
  if !o.intact then s.dropSpoiled o
  else
    let data := o.carried
    let o := { o with flips := [], suspect := none }
    match o.kind with
    | .rmw r =>
      let (bs, rf) := s.atHome o
      let r : Rmw := { r with b := leNat (data.map fun d => d.1) }
      s.homeOp (o.satisfied bs rf) (plainData (natLe o.size (r.new o.size (leNat bs))))
    | .block hdr => s.homeBlock o hdr data
    | _ => (s.homeOp o data).pumpBar { o with data := data }

/-- WRITE_HOME: a write or a read-modify-write is homed. -/
def execWriteHome (op : Nat) (s : State) : Out State :=
  match s.op? op with
  | none => .next s
  | some o => if s.mayHome o then .next (s.home o) else .next s

/-! Records (R259). -/

/-- An applied vector's counter. -/
def State.applied (s : State) (die e : Nat) : Nat := vget (vget s.vectors die (Vector.replicate 5 0)) e 0

/-- The record that a die may next apply from a home. -/
def State.nextRecord (s : State) (die h : Nat) : Option MemOp :=
  s.ops.find? fun o =>
    o.isWrite && o.space == .mem && o.isHomed && o.home == h && !o.applied.contains die &&
    vget o.vc h 0 == (s.applied die h + 1) % 2 ^ 24 && (List.range 5).all fun e => e == h || 0 ≤ ahead (s.applied die e) (vget o.vc e 0)

/-- RECORD_APPLY: a die applies the next record of a home. -/
def execRecordApply (die home : Nat) (s : State) : Out State :=
  if 5 ≤ die || 5 ≤ home || die = home then .next s
  else
    match s.nextRecord die home with
    | none => .next s
    | some o =>
      let s := s.setOp { o with applied := o.applied ++ [die] }
      .next ({ s with
        views := vmod s.views die fun m => m.writeMasked o.addr o.data
        vectors := vmod s.vectors die fun v => vmod v home fun n => (n + 1) % 2 ^ 24 } : State).prune

/-- HOST_COMPLETION (R266): the host's completion for a write reaches the IOD. -/
def execHostCompletion (op : Nat) (s : State) : Out State :=
  match s.op? op with
  | none => .next s
  | some o => .next (s.setOp { o with hostPend := false }).prune

/-! Completion (R26, R29, R42, R61, R62, R91). -/

/-- Physical lane p of a vector register. -/
def Group.putPhys (g : Group) (r : Nat) (p : Fin 32) (w : Word) : Group :=
  { g with v := g.v.mapIdx fun j x => if j = r then { x with phys := x.phys.set p w } else x }

/-- Words of a result in vector registers from r; in a pass group both registers of a pair (R210). -/
def Group.putResult (g : Group) (r n : Nat) (p : Fin 32) (v : Nat) : Group :=
  (List.range n).foldl (fun g k =>
    if g.inPass then (g.putPhys (2 * (r + k)) p (wordAt v k)).putPhys (2 * (r + k) + 1) p (wordAt v k)
    else g.putPhys (r + k) p (wordAt v k)) g

/-- A lane of a reserved entry, with so many of its results now there. -/
def Group.putEntry (g : Group) (q eid : Nat) (arrived : Nat) (f : Fin 32 → Option Word) : Group :=
  { g with q := vmod g.q q fun x => { x with entries := x.entries.map fun e =>
      if e.eid = eid then { e with data := Lanes.gen fun i => (f i).getD e.data[i], waiting := e.waiting - arrived } else e } }

/-- Scalar registers from a completing operation: one that waits for it, or, for a lane instruction, the live register (R42, R91). -/
def Group.putScalars (g : Group) (o : MemOp) (reg : SReg) (n bank v : Nat) : Group :=
  (List.range n).foldl (fun g k =>
    let r := reg + BitVec.ofNat 5 k
    match o.cid with
    | some _ => g.writeSid bank r (wordAt v k)
    | none =>
      match g.busy.find? fun b => b.owner == o.id && b.reg == r with
      | none => g
      | some b =>
        { g.writeUid (b.uid.getD bank) r (wordAt v k) with
          busy := g.busy.filter fun x => x != b
          tokens := g.tokens.filter fun t => !(t.reg == r && t.uid == b.uid) }) g

/-- The rows of an `ldt`, once all have been read. -/
def State.blockRowsOf (s : State) (key : Nat) : Option (List (List Byte)) :=
  (List.range 16).mapM fun r => s.ops.findSome? fun o =>
    match o.dest with | .block k _ row _ _ _ => if k == key && row == r then o.result.map fun _ => o.carried.map (·.1) else none | _ => none

/-- What an `ldt` delivers when its rows are there (R197). -/
def Group.putBlock (g : Group) (key w code sid : Nat) (em : Mask) (rows : List (List Byte)) : Group :=
  if code < 96 then (List.finRange 32).foldl (fun g i => if em.has i then g.putPhys code i (blockWord w rows i) else g) g
  else if code < 112 then g.putEntry (code - 96) key 16 fun i => if em.has i then some (blockWord w rows i) else none
  else match em.lowest with
    | some i => g.writeSid sid (BitVec.ofNat 5 (code - 96)) (blockWord w rows i)
    | none => g

/-- The result of an operation reaches its destination; its group's watchdog starts again when it waits for that one (R354). -/
def State.deliver (s : State) (o : MemOp) (bs : List Byte) : State :=
  match o.group? with
  | none => s
  | some (t, g) =>
    let v := convertResult o.convert bs
    let waits := s.awaits t g o.id
    let put (f : Group → Group) : State := (s.modGroup t g fun x => (f x).awaited waits).setOp { o with dest := .none }
    match o.dest with
    | .none | .vector _ | .ack _ | .engine _ => s
    | .sregs reg n bank => put (·.putScalars o reg n bank v)
    | .vregs r n p => put (·.putResult r n p v)
    | .entry q eid i => put (·.putEntry q eid 1 fun j => if j = i then some (wordAt v 0) else none)
    | .block key w _ em code sid =>
      match s.blockRowsOf key with
      | none => s
      | some rows =>
        let s := s.modGroup t g fun x => (x.putBlock key w code sid em rows).awaited waits
        { s with ops := s.ops.map fun x => match x.dest with | .block k _ _ _ _ _ => if k == key then { x with dest := .none } else x | _ => x }

/-- A result that has come to its destination, once its check word is compared (R251, R347): a fetched sector that fails is fetched once
more. -/
def State.land (s : State) (o : MemOp) : State :=
  if o.result.isNone || o.dest == .none || o.reading then s
  else if o.intact then s.deliver o (o.carried.map (·.1))
  else if o.again || o.isRmw then ((s.mismatch o).setOp { o with flips := [], dest := .none }).sectorFault o
  else s.refetch o

/-- The result that copy 1 receives from copy 0's operation, once that is performed (R358). -/
def State.echoed (s : State) (o : MemOp) : State :=
  match o.kind with
  | .echo of_ =>
    match s.op? of_ with
    | some x => if o.result.isNone && x.opPerformed x.effScope then s.setOp (o.satisfied (x.result.getD []) []) else s
    | none => s
  | _ => s

/-- A flag of a group when one of its operations completes, and its watchdog when it waits for that one (R26, R354). -/
def State.completed (s : State) (team gid : Nat) (flag : Option (Fin 12)) (waits : Bool) : State :=
  s.modGroup team gid fun g => (match flag with | some f => g.releaseFlag f | none => g).awaited waits

/-- A delivered operation that is performed at its scope has completed: its flag, its group's watchdog when the group waits for it, its
command, and the vector or the remote requester that waits for it (R26, R294, R340, R368). -/
def State.complete (s : State) (o : MemOp) : State :=
  let ready := match o.dest with | .none | .vector _ | .ack _ => true | _ => false
  let waits := match o.group? with | some (t, g) => s.awaits t g o.id | none => false
  if o.done || o.isFence || !ready || !o.opPerformed o.effScope then s
  else
    let s := s.setOp { o with done := true, dest := .none }
    let s := match o.dest with
      | .vector asid => s.fireVector asid
      | .ack node => { s with sent := s.sent ++ [.answer node false [] 0] }
      | _ => s
    let s := match o.group? with | some (t, g) => s.completed t g o.flag waits | none => s
    match o.agent with
    | .engine _ _ _ id => s.finishCmd id
    | _ => s

/-- A long-latency write outside memory takes place (R25, R29, R42). -/
def Group.putLate (g : Group) (l : LateWrite) : Group :=
  match l.effect with
  | .sreg reg v => g.writeSid l.sid reg v
  | .wide w lanes => { g with w := vmod g.w w.val fun r => { r with phys := lanes.foldl (fun a x => a.set x.1 x.2) r.phys } }

/-- OPERATION_COMPLETE: a result reaches its destination, and an operation performed at its scope is complete; a stage command at its
queue engine goes as far as it can (R325, R326). -/
def execOperationComplete (op : Nat) (s : State) : Out State :=
  match s.late.find? fun l => l.id == op with
  | some l =>
    let waits := s.awaits l.team l.group op
    let s := s.modGroup l.team l.group fun g => g.putLate l
    .next (({ s with late := s.late.filter fun x => x.id != op } : State).completed l.team l.group (some l.flag) waits)
  | none =>
    match s.op? op with
    | none => .next (s.performStage op)
    | some o =>
      let s := s.echoed o
      let s := match s.op? op with
        | some o => s.land o
        | none => s
      let s := match s.op? op with | some o => s.complete o | none => s
      .next s.prune

/-! Epochs (R358, R359). -/

/-- A sector that an epoch holds: its bytes with whether each is written, later writes over earlier ones. -/
def sectorBytes (ops : List MemOp) (sec : Nat) : List (Option Byte) :=
  (List.range 32).map fun j => ops.foldl (fun acc o =>
    match o.at? (32 * sec + j) with
    | some (v, k) => some (Memory.merge (acc.getD 0) v k)
    | none => acc) none

/-- The part of a signature that a sector gives: its address, its byte mask, its bytes (R359). -/
def sectorCrc (pa : Nat) (bs : List (Option Byte)) : Nat :=
  let mask := bs.zipIdx.foldl (fun m x => if x.1.isSome then m + 2 ^ x.2 else m) 0
  crc64 (natLe 6 pa ++ natLe 4 mask ++ bs.map (·.getD 0))

/-- The signature of held writes (R359). A tag enters under its granule's address, with no data byte in the mask and itself in the first. -/
def signature (ops : List MemOp) : Nat :=
  let data := ops.filter fun o => o.addr < 2 ^ 48
  let secs := (data.flatMap fun o => (List.range ((o.addr % 32 + o.size + 31) / 32)).map (o.addr / 32 + ·)).eraseDups
  let tags := ((ops.filter fun o => 2 ^ 48 ≤ o.addr).map (·.addr)).eraseDups
  let tag (k : Nat) : Byte := ops.foldl (fun acc o => match o.at? k with | some (v, m) => Memory.merge acc v m | none => acc) 0
  ((secs.foldl (fun acc k => acc + sectorCrc (32 * k) (sectorBytes data k)) 0) +
    tags.foldl (fun acc k => acc + crc64 (natLe 6 (32 * (k - 2 ^ 48)) ++ natLe 4 0 ++ (tag k :: List.replicate 31 0))) 0) % 2 ^ 64

/-- Copy 0's held writes proceed, copy 1's are discarded, those of the next epoch are now the open one's; both copies may perform their
closing instruction. -/
def State.closeEpoch (s : State) (t0 t1 : Nat) : State :=
  let gone := s.epochOps t1
  let s := gone.foldl (fun s o => match o.group? with | some (t, g) => s.completed t g o.flag (s.awaits t g o.id) | none => s) s
  let mine (o : MemOp) : Bool := match o.group? with | some (t, _) => t == t0 || t == t1 | none => false
  let s : State := { s with
    ops := (s.ops.filter fun o => !(gone.any fun x => x.id == o.id)).map fun o => if mine o then { o with epoch := o.epoch - 1 } else o }
  [t0, t1].foldl (fun s t => s.modTeam t fun x => { x with red := x.red.map fun r => { r with granted := true } }) s

/-- EPOCH_COMPARE: both copies have come to the close of an epoch; unequal signatures end both with UNCORRECTABLE_SCRATCH, SUB 3. -/
def execEpochCompare (team : Nat) (s : State) : Out State :=
  match s.team? team with
  | none => .next s
  | some t =>
    match t.red with
    | none => .next s
    | some r =>
      match s.team? r.twin with
      | none => .next s
      | some u =>
        let same := match r.closing, u.red.bind (·.closing) with
          | some a, some b => b == a.inTeam u.id
          | _, _ => false
        let open_ (x : Team) : Bool := match x.red with | some y => !y.granted | none => false
        if !same || !open_ t || !open_ u then .next s
        else
          let (t0, t1) := if r.copy = 0 then (t, u) else (u, t)
          if signature (s.epochOps t0.id) = signature (s.epochOps t1.id) then .next (s.closeEpoch t0.id t1.id)
          else
            match t0.groups.find? fun g => !g.ended with
            | some g =>
              let ref := match r.closing with | some (.scalar x) | some (.lane x) => x | _ => { team := t0.id, group := g.gid, split := 0 }
              let g := (t0.group? ref.group).getD g
              let pc := match g.split? ref.split with | some p => p.set.pc | none => 0
              -- a lane instruction's close names its `run` and its lane PC
              let (spc, lpc) := match r.closing, (vget g.clauses ref.split.val []).head? with
                | some (.lane _), some q => (q.runPc, q.addr + BitVec.ofNat 64 (12 + 12 * q.next))
                | _, _ => (pc, 0)
              let trap := { s.siteTrap t0 g ref.split.val spc 6 (.uncorrectableScratch, 3) 0 with lpc := lpc }
              .next (s.takeFault trap t0.id g.gid (.outcomeMap t0.id))
            | none => .next s

end Sys2Proof.Machine
end

