-- ==== Sys2Proof/Machine/Area.lean ====
section
/-! DEFINITION. The context area (R350 to R353): the bytes that a save writes for a team and its groups, and what a restore reads
back. The spec does not place the fields within IDENT, the control field, a split's state word, a loop record and a queue entry
beyond their order: the places below are the model's. -/

namespace Sys2Proof.Machine

/-! Bytes. -/

/-- A region of n bytes, zero but for its fields, each with its offset. -/
def layout (n : Nat) (parts : List (Nat × List Byte)) : List Byte :=
  (List.range n).map fun k =>
    (parts.findSome? fun p => if p.1 ≤ k && k < p.1 + p.2.length then p.2[k - p.1]? else none).getD 0

def wordBytes (ws : List Word) : List Byte := ws.flatMap fun w => natLe 4 w.toNat

/-- n bytes at an offset as a number. -/
def field (bs : List Byte) (o n : Nat) : Nat := leNat ((bs.drop o).take n)
/-- A word at an offset. -/
def fieldWord (bs : List Byte) (o : Nat) : Word := BitVec.ofNat 32 (field bs o 4)

/-- A lane map in 24 bytes: 32 five-bit entries, and the identity flag (R352). -/
def LMap.bytes (m : LMap) : List Byte :=
  natLe 24 ((List.finRange 32).foldl (fun acc i => acc + m[i].val * 2 ^ (5 * i.val)) (if m = LMap.id then 2 ^ 160 else 0))
def LMap.ofBytes (bs : List Byte) : LMap :=
  let v := leNat bs
  if bit v 160 then LMap.id else Lanes.gen fun i => Fin.ofNat 32 (bits v (5 * i.val + 4) (5 * i.val))

/-- A lane of a wide register in 24 bytes: F, E, the flags (R352). -/
def WLane.bytes (l : WLane) : List Byte :=
  natLe 16 l.f.toNat ++ natLe 2 l.e.toNat ++ natLe 1 ((if l.nonfin then 1 else 0) + (if l.loss then 2 else 0)) ++ natLe 5 0
def WLane.ofBytes (bs : List Byte) : WLane :=
  { f := BitVec.ofNat 128 (field bs 0 16), e := BitVec.ofNat 10 (field bs 16 2), nonfin := bit (field bs 18 1) 0, loss := bit (field bs 18 1) 1 }

/-- A shape record's 64 bytes (R295). -/
def Shape.bytes (p : Shape) : List Byte :=
  natLe 64 (p.src.toNat + p.dst.toNat * 2 ^ 64 + p.op * 2 ^ 128 + p.skind * 2 ^ 132 + p.dkind * 2 ^ 136 + p.efmt * 2 ^ 140 +
    (if p.banda then 2 ^ 146 else 0) + p.node * 2 ^ 160 + p.shift.toNat * 2 ^ 178 + p.const.toNat * 2 ^ 192 + p.band.toNat * 2 ^ 224 +
    p.scoff * 2 ^ 240 + p.e0 * 2 ^ 256 + p.e1 * 2 ^ 288 + p.e2 * 2 ^ 320 + p.v0 * 2 ^ 352 + p.v1 * 2 ^ 368 + p.s1 * 2 ^ 384 +
    p.s2 * 2 ^ 416 + p.d1 * 2 ^ 448 + p.d2 * 2 ^ 480)

/-- A collective record's 64 bytes (R369). -/
def Coll.bytes (c : Coll) : List Byte :=
  natLe 64 (c.members.toNat * 2 ^ 448 + c.stat.toNat * 2 ^ 384 + c.flag.toNat * 2 ^ 320 + c.buf.toNat * 2 ^ 256 + c.flagv * 2 ^ 224 +
    c.count * 2 ^ 192 + c.n * 2 ^ 160 + c.efmt * 2 ^ 10 + c.op * 2 ^ 4 + c.kind)

/-! Groups (R352). -/

/-- A split's state word: live, its waiting kind, a held fault's mark, the generation and the status register of its wait, and the
number of its deferred entries. Kind 1 waits in a `bar`, kind 2 in an arrive-wait; a split that waits for anything else stands on its
instruction, which is executed again after the restore. -/
def splitState (p : Option Split) (held : Bool) : Nat :=
  match p with
  | none => 0
  | some p =>
    let wait := match p.status with
      | .running => 0
      | .barWait w => (if w.join then 4 else 2) + w.gen.toNat * 2 ^ 4 + w.sd.toNat * 2 ^ 16
    1 + wait + (if held then 8 else 0) + p.deferred.length * 2 ^ 8

/-- The deferred entries that a state word counts. -/
def stateEntries (w : Nat) : Nat := bits w 13 8

/-- A state word within its range. -/
def stateOk (w : Nat) : Bool := w == 0 || (bit w 0 && bits w 2 1 ≤ 2 && bits w 15 14 == 0 && bits w 31 21 == 0 && stateEntries w ≤ 32)

/-- The wait that a state word names; the object is the one of the device's record. -/
def stateStatus (w : Nat) (p : Option Split) : SplitStatus :=
  if bits w 2 1 = 0 then .running
  else
    let obj := match p with
      | some p => match p.status with | .barWait b => b.obj | .running => none
      | none => none
    .barWait { obj := obj, gen := BitVec.ofNat 4 (bits w 7 4), join := bits w 2 1 == 2, sd := BitVec.ofNat 5 (bits w 20 16) }

/-- A split's 64 bytes. -/
def splitBytes (p : Option Split) (held : Bool) : List Byte :=
  match p with
  | none => List.replicate 64 0
  | some q => q.set.bytes ++ natLe 4 (splitState p held) ++ natLe 8 q.set.pc.toNat ++ natLe 4 0

/-- A waiting clause's 96 bytes. -/
def Clause.bytes (q : Clause) : List Byte :=
  natLe 8 q.addr.toNat ++ natLe 4 q.mask.toNat ++ natLe 4 q.next ++ wordBytes q.caps.toList ++ natLe 4 q.rmode.toNat ++
    natLe 4 q.ftzm.toNat ++ natLe 8 0

/-- An engine command's 128 bytes: its record, or while that is not read its address, its word, its token's number, its sector progress,
the join marks ahead of it. -/
def Cmd.bytes (c : Cmd) (marks : Nat) : List Byte :=
  let record : List Byte := match c.kind with
    | .copy { shape := some p, .. } => p.bytes
    | .coll _ _ (some st) => st.coll.bytes
    | .copy { record := r, .. } | .coll r _ none | .lnch r _ _ => natLe 8 r.toNat
    | _ => []
  let progress : Nat := match c.kind with
    | .copy { shape := some p, todo := todo, .. } => p.sectors.length - todo.length
    | .coll _ _ (some st) => st.step
    | _ => 0
  layout 128 [(0, record), (64, natLe 4 c.word.toNat), (68, natLe 1 c.tok.toNat), (69, natLe 8 progress), (77, natLe 8 marks)]

/-- The commands of an engine queue, oldest first, each with the join marks ahead of it. -/
def State.queueBytes (s : State) (items : List QItem) : List Byte :=
  (items.foldl (fun (acc : List Byte × Nat) x =>
    match x with
    | .mark _ => (acc.1, acc.2 + 1)
    | .cmd id => match s.cmd? id with
      | some c => (acc.1 ++ c.bytes acc.2, acc.2)
      | none => acc) ([], 0)).1

/-- Every deferred entry of a group, by split number, in stack order (R352). -/
def Group.entries (g : Group) : List LaneSet := g.live.flatMap fun kp => kp.2.deferred

/-- RMODE to the descriptor valid mask. -/
def Group.controlBytes (g : Group) : List Byte :=
  let depths := g.q.toList.zipIdx.foldl (fun acc x => acc + x.1.depth * 16 ^ x.2) 0
  let valid := g.bd.toList.zipIdx.foldl (fun acc x => if x.1.isSome then acc + 2 ^ x.2 else acc) 0
  wordBytes [g.rmode, g.ftzm, g.lbase] ++ natLe 8 depths ++ wordBytes (g.p.toList.drop 1) ++ wordBytes [g.bpmode, g.bplevel] ++
    natLe 8 g.watch ++ natLe 4 valid

/-- A group block (R352). -/
def State.groupBytes (s : State) (t : Team) (r : LaunchRec) (g : Group) : List Byte :=
  let held (k : Fin 4) : Bool := match g.split? k with | some p => s.splitHeld { team := t.id, group := g.gid, split := k } p | none => false
  let splits := (List.finRange 4).flatMap fun k => splitBytes (g.split? k) (held k)
  let clauses := (List.range 4).map fun k => (0x300 + 288 * k, (vget g.clauses k []).flatMap Clause.bytes)
  let queues := (List.range 8).map fun k => (0x3040 + 2048 * k, s.queueBytes (vget g.engines k []))
  layout r.blockSize ([(0, splits), (0x100, wordBytes (g.s.toList.drop 1)), (0x180, g.controlBytes),
      (0x200, g.bd.toList.flatMap fun d => natLe 16 (d.getD 0).toNat)] ++ clauses ++
    [(0x780, g.gen.toList.flatMap fun x => natLe 8 x.toNat), (0x880, g.v.flatMap fun v => LMap.bytes v.map),
     (0x1180, g.w.toList.flatMap fun w => LMap.bytes w.map), (0x1240, g.entries.flatMap LaneSet.bytes),
     (0x1840, g.w.toList.flatMap fun w => w.phys.toList.flatMap WLane.bytes)] ++ queues ++
    [(0x8000, g.v.flatMap fun v => wordBytes v.phys.toList),
     (0x8000 + 128 * r.vregs, g.q.toList.flatMap fun q => q.entries.flatMap fun e => wordBytes e.data.toList)])

/-- A saved group of the model's record: overflow entries at their places in the block, clauses to be fetched afresh. -/
def Group.saved (g : Group) : Group :=
  let splits := (List.finRange 4).foldl (fun (acc : List (Option Split) × Nat) k =>
    match g.split? k with
    | none => (acc.1 ++ [none], acc.2)
    | some p =>
      let n := acc.2 + p.stack.length
      (acc.1 ++ [some { p with overflow := p.overflow.mapIdx fun i o => (n + i, o.2) }], n + p.overflow.length)) ([], 0)
  { g with
    splits := Vector.ofFn fun k => (splits.1[k.val]?).getD none
    clauses := g.clauses.map fun q => q.map fun c => { c with fetched := none } }

/-! Teams (R351). -/

/-- A loop record: its descriptor, base, tiles and mode (R187). -/
def Loop.bytes (l : Loop) : List Byte :=
  natLe 4 l.a.toNat ++ natLe 4 l.b.toNat ++ natLe 2 l.inca.toNat ++ natLe 2 l.incb.toNat ++ natLe 4 l.steps ++ natLe 8 l.base.toNat ++
    natLe 1 l.tc ++ natLe 1 l.ta ++ natLe 1 l.mode ++ natLe 1 (if l.z then 1 else 0)

/-- The loops of a team. -/
def State.loopsOf (s : State) (team : Nat) : List Loop := s.loops.filter fun l => l.team == team

/-- An entry of a proof set in 32 bytes (R351). -/
def Proof.bytes (p : Proof) : List Byte := natLe 8 p.lpc.toNat ++ natLe 1 p.bd ++ natLe 7 0 ++ natLe 16 p.desc.toNat
def Proof.ofBytes (bs : List Byte) : Proof :=
  { lpc := BitVec.ofNat 64 (field bs 0 8), bd := field bs 8 1, desc := BitVec.ofNat 128 (field bs 16 16) }

/-- The proof sets of a team, in the order in which the area holds them: ascending group and sub-tile. -/
def PassState.proofSets (p : PassState) : List (Nat × Nat × Nat × List Proof) :=
  let key (x : Nat × Nat × Nat × List Proof) : Nat × Nat := (x.1, x.2.2.1)
  p.proofs.foldl (fun acc x =>
    let before := acc.filter fun y => (key y).1 < (key x).1 || ((key y).1 = (key x).1 && (key y).2 ≤ (key x).2)
    let after := acc.filter fun y => !((key y).1 < (key x).1 || ((key y).1 = (key x).1 && (key y).2 ≤ (key x).2))
    before ++ [x] ++ after) []

/-- The parts of a team's area, each with its offset (R351). -/
def State.areaParts (s : State) (t : Team) (l : Launch) : List (Nat × List Byte) :=
  let r := l.record
  let c := r.coord t.index
  let mask := t.groups.foldl (fun acc g => acc + 2 ^ g.gid) 0
  let head := layout 4096 [
    (0, natLe 4 l.id ++ natLe 4 t.stage ++ natLe 4 c.1 ++ natLe 4 c.2.1 ++ natLe 4 c.2.2 ++ natLe 4 mask ++ natLe 4 r.blockSize ++ natLe 4 r.proofSize),
    (0x40, wordBytes (t.settled.gregs.toList.map (·.cur))), (0x60, natLe 4 t.barGen.toNat), (0x80, wordBytes t.tcfg.toList),
    (0x100, (s.loopsOf t.id).flatMap fun l => layout 64 [(0, l.bytes)])]
  let blocks := (t.groups.filter fun g => !g.ended).map fun g => (4096 + g.gid * r.blockSize, s.groupBytes t r g)
  let tiles := 4096 + 32 * r.blockSize
  let scratch := tiles + 8192 * r.tiles
  let proofs := match t.pass with | some p => p.proofSets.flatMap fun x => x.2.2.2.flatMap Proof.bytes | none => []
  [(0, head)] ++ blocks ++ (t.tiles.mapIdx fun i m => (tiles + 8192 * i, Memory.readN m 0 8192)) ++
    [(scratch, t.scratch.readN 0 (1024 * r.scratch)), (scratch + 1024 * r.scratch, layout r.proofSize [(0, proofs)])]

/-- The area written, part by part; the first byte that cannot be (R337, R350). -/
def State.writeArea (s : State) (t : Team) (l : Launch) : Except DWord State :=
  (s.areaParts t l).foldl (fun acc p =>
    match acc with
    | .error e => .error e
    | .ok s =>
      match s.deviceWrite l.asid (s.areaAddr t p.1) p.2 Leaf.isPool with
      | .ok s => .ok s
      | .error e => .error e.2) (.ok s)

/-! What a restore reads back (R353). -/

/-- A lane set without a record of its own: what the area adds to a group. -/
def blankSet (uid : Nat) : LaneSet :=
  { uid := uid, pc := 0, own := 0, exec := 0, bank := Vector.replicate 8 0, past := [], ran := [], order := [], after := [], widen := [] }

/-- A split from its 64 bytes and its deferred entries, the first of which stands at a place of the group's; `uid` names what the
device has no record of. -/
def splitRestore (p : Option Split) (uid : Nat) (bs ents : List Byte) (from_ : Nat) : Option Split :=
  let w := field bs 48 4
  if w = 0 then none
  else
    let known := match p with | some p => p.deferred | none => []
    let es := (List.range (stateEntries w)).map fun i =>
      (known.getD i (blankSet (uid + 1 + from_ + i))).ofBytes ((ents.drop (48 * (from_ + i))).take 48)
    some {
      sid := match p with | some p => p.sid | none => uid
      set := (match p with | some p => p.set | none => blankSet uid).ofBytes (bs.take 48)
      stack := es.take 4, overflow := (es.drop 4).mapIdx fun i e => (from_ + 4 + i, e), status := stateStatus w p }

/-- A clause's captures, mask and place. -/
def Clause.restore (c : Clause) (bs : List Byte) : Clause :=
  { c with addr := BitVec.ofNat 64 (field bs 0 8), mask := fieldWord bs 8, next := field bs 12 4
           caps := Vector.ofFn fun i => fieldWord bs (16 + 4 * i.val), rmode := fieldWord bs 80, ftzm := fieldWord bs 84 }

/-- A group from its block; none when a count, a depth, a state word, BPMODE or BPLEVEL is outside its range. Identities from `uid` on name what the
device has no record of. -/
def Group.restore (g : Group) (r : LaunchRec) (uid : Nat) (bs : List Byte) : Option Group :=
  let state (k : Nat) : Nat := field bs (64 * k + 48) 4
  let depth (q : Nat) : Nat := field bs (0x18C + q / 2) 1 / 16 ^ (q % 2) % 16
  let valid := field bs 0x1C0 4
  let nexts := (List.finRange 4).flatMap fun k => (vget g.clauses k.val []).mapIdx fun i _ => field bs (0x300 + 288 * k.val + 96 * i + 12) 4
  let count (n : Nat) : Nat := (List.range n).foldl (fun acc k => acc + if state k = 0 then 0 else stateEntries (state k)) 0
  let statesOk := (List.range 4).all (fun k => stateOk (state k)) && count 4 ≤ 32
  let depthsOk := ((List.finRange 16).all fun q => depth q.val ≤ 8 && g.q[q].entries.length ≤ depth q.val) &&
    (List.range 16).foldl (fun acc q => acc + depth q) 0 ≤ g.qbud
  let level := field bs 0x1B4 4
  if !statesOk || !depthsOk || (nexts.any fun n => 128 ≤ n) || 2 ^ 15 ≤ valid || field bs 0x1B0 4 ≠ 0 || 12 ≤ level then none
  else
    let ents := (bs.drop 0x1240)
    let first (q : Nat) : Nat := (g.q.toList.take q).foldl (fun n x => n + x.entries.length) 0
    some { g with
      splits := Vector.ofFn fun k => splitRestore (g.split? k) (uid + 40 * k.val) ((bs.drop (64 * k.val)).take 64) ents (count k.val)
      s := Vector.ofFn fun i => if i.val = 0 then 0 else fieldWord bs (0x100 + 4 * (i.val - 1))
      rmode := rmodeWrite (fieldWord bs 0x180), ftzm := fieldWord bs 0x184 &&& 0x3FFF, lbase := fieldWord bs 0x188 &&& 0xFFFFFFF0
      p := Vector.ofFn fun i => if i.val = 0 then g.p[i] else fieldWord bs (0x194 + 4 * (i.val - 1))
      watch := field bs 0x1B8 8, outcome := level / 4, level := level % 4
      bd := Vector.ofFn fun i => if bit valid i.val then some (BitVec.ofNat 128 (field bs (0x200 + 16 * i.val) 16)) else none
      clauses := Vector.ofFn fun k => g.clauses[k].mapIdx fun i c => c.restore (bs.drop (0x300 + 288 * k.val + 96 * i))
      gen := Lanes.gen fun i => BitVec.ofNat 64 (field bs (0x780 + 8 * i.val) 8)
      v := g.v.mapIdx fun j _ =>
        { phys := Lanes.gen fun i => fieldWord bs (0x8000 + 128 * j + 4 * i.val), map := LMap.ofBytes ((bs.drop (0x880 + 24 * j)).take 24) }
      w := Vector.ofFn fun j =>
        { phys := Lanes.gen fun i => WLane.ofBytes ((bs.drop (0x1840 + 768 * j.val + 24 * i.val)).take 24)
          map := LMap.ofBytes ((bs.drop (0x1180 + 24 * j.val)).take 24) }
      q := Vector.ofFn fun k =>
        { depth := depth k.val
          entries := g.q[k].entries.mapIdx fun i e =>
            { e with data := Lanes.gen fun x => fieldWord bs (0x8000 + 128 * (r.vregs + first k.val + i) + 4 * x.val) } } }

/-- A command from its queue entry; none when its token's number, its record or its progress is outside its range. What it was about to
ask for is asked for afresh. -/
def Cmd.restore (c : Cmd) (tiles : Nat) (bs : List Byte) : Option Cmd :=
  let n := field bs 69 8
  let addr : DWord := BitVec.ofNat 64 (field bs 0 8)
  let c' : Cmd := { c with word := fieldWord bs 64, tok := BitVec.ofNat 5 (field bs 68 1) }
  if 32 ≤ field bs 68 1 then none
  else
    match c.kind with
    | .copy k =>
      match k.shape with
      | none => some { c' with kind := .copy { k with record := addr, half := none, asked := none } }
      | some _ =>
        let p := shapeOf (bs.take 64)
        if !p.valid k.bar.isSome tiles || p.sectors.length < n then none
        else some { c' with kind := .copy { k with shape := some p, todo := p.sectors.drop n, asked := none } }
    | .coll _ _ none => some { c' with kind := .coll addr none none }
    | .coll r h (some st) =>
      let p := collOf (bs.take 64)
      if !p.ok || p.n ≠ st.ring.length || p.steps < n then none
      else some { c' with kind := .coll r h (some { st with coll := p, step := n }) }
    | .lnch _ e taken => some { c' with kind := .lnch addr e taken }
    | .stage .. | .echo _ => some c'

/-- A loop from its record. -/
def Loop.restore (l : Loop) (bs : List Byte) : Option Loop :=
  if field bs 24 1 ≠ l.tc || field bs 25 1 ≠ l.ta || field bs 26 1 ≠ l.mode || field bs 12 4 = 0 then none
  else some { l with
    a := fieldWord bs 0, b := fieldWord bs 4, inca := BitVec.ofNat 16 (field bs 8 2), incb := BitVec.ofNat 16 (field bs 10 2)
    steps := field bs 12 4, base := BitVec.ofNat 64 (field bs 16 8), z := bit (field bs 27 1) 0, next := 0 }

/-- The commands of a group's queues restored. -/
def State.restoreCmds (s : State) (tiles : Nat) (g : Group) (bs : List Byte) : Option State :=
  (List.range 8).foldl (fun acc q =>
    let ids := (vget g.engines q []).filterMap fun x => match x with | .cmd id => some id | .mark _ => none
    ids.zipIdx.foldl (fun acc x => acc.bind fun s =>
      match s.cmd? x.1 with
      | none => some s
      | some c => (c.restore tiles (bs.drop (0x3040 + 2048 * q + 128 * x.2))).map fun c' => s.modCmd x.1 fun _ => c') acc) (some s)

/-- The proof sets with their entries as the area holds them. -/
def PassState.restoreProofs (p : PassState) (bs : List Byte) : PassState :=
  let sets := p.proofSets
  let first (i : Nat) : Nat := (sets.take i).foldl (fun n x => n + x.2.2.2.length) 0
  { p with proofs := sets.mapIdx fun i x =>
      (x.1, x.2.1, x.2.2.1, x.2.2.2.mapIdx fun j _ => Proof.ofBytes ((bs.drop (32 * (first i + j))).take 32)) }

/-- A team read back from its area: none when the area is malformed (R353). -/
def State.readArea (s : State) (t : Team) (l : Launch) (bs : List Byte) : Option State :=
  let r := l.record
  let tiles := 4096 + 32 * r.blockSize
  let scratch := tiles + 8192 * r.tiles
  let block (g : Group) : List Byte := (bs.drop (4096 + g.gid * r.blockSize)).take r.blockSize
  let groups := t.groups.mapM fun g => if g.ended then some g else g.restore r (s.fresh + 160 * g.gid) (block g)
  let loops := (s.loopsOf t.id).zipIdx.mapM fun x => x.1.restore ((bs.drop (0x100 + 64 * x.2)).take 64)
  match groups, loops with
  | some groups, some loops =>
    let t' := { t with
      groups := groups
      gregs := Vector.ofFn fun i => { cur := fieldWord bs (0x40 + 4 * i.val), cycle := 0, gid := 32 }
      gpend := []
      barGen := BitVec.ofNat 4 (field bs 0x60 1)
      tcfg := Vector.ofFn fun i => fieldWord bs (0x80 + 4 * i.val) &&& 0x3F1F
      tiles := t.tiles.mapIdx fun i _ => Memory.writeN [] 0 ((bs.drop (tiles + 8192 * i)).take 8192)
      scratch := Memory.writeN [] 0 ((bs.drop scratch).take (1024 * r.scratch))
      pass := t.pass.map fun p => p.restoreProofs (bs.drop (scratch + 1024 * r.scratch)) }
    let loops := loops.map fun l => { l with shadow := l.shadow.mapIdx fun i _ => (t'.tiles[l.tc + i]?).getD [] }
    let s : State := { s with
      fresh := s.fresh + 160 * 32
      teams := s.teams.map fun u => if u.id == t.id then t' else u
      loops := s.loops.map fun l => (loops.find? fun x => x.id == l.id).getD l }
    t.groups.foldl (fun acc g => if g.ended then acc else acc.bind fun s => s.restoreCmds r.tiles g (block g)) (some s)
  | _, _ => none

end Sys2Proof.Machine
end

