-- ==== Sys2Proof/Machine/Context.lean ====
section
/-! DEFINITION. Pre-emption and saving: the estimates and the choice of a means (R331 to R333), CONTEXT_SAVE (R66, R187, R208, R331,
R334), CONTEXT_RESTORE (R333, R353), DRAIN_OVERRUN, and the commands of the host that reach teams and launches (R335, R345, R379). -/

namespace Sys2Proof.Machine

/-! Saving (R331, R334). -/

/-- Everything that the team's instructions issued has completed: its operations, but for writes that an open epoch holds and results
that an engine has yet to take, its long-latency writes, and a `stepp` that has written its entry, unless its fault is held (R66, R321,
R334). -/
def State.quiet (s : State) (t : Team) : Bool :=
  (s.ops.all fun o => o.group?.map (·.1) != some t.id || o.done || o.epoch != 0 || o.isFence || (o.reading && o.result.isSome)) &&
  (s.late.all fun l => l.team != t.id) &&
  s.cmds.all fun c => c.team != t.id || c.ending.isSome || s.cmdHeld c.id || match c.kind with | .stage true _ _ (some _) => false | _ => true

/-- What the team's engines and instructions have read and not yet taken is read afresh after the restore. -/
def State.forgetReads (s : State) (team : Nat) : State :=
  { s with ops := s.ops.map fun o => if o.group?.map (·.1) == some team && o.reading then { o with dest := .none, done := true } else o }

/-- A matrix loop in flight is taken back, to be replayed from step 0 (R187). -/
def State.recallLoops (s : State) (team : Nat) : State :=
  let s := (s.loopsOf team).foldl (fun s l => s.modTeam team l.rollback) s
  { s with loops := s.loops.map fun l => if l.team == team then { l with next := 0 } else l }

/-- A bounds pass is discarded; the restore runs the passes again from level 0 (R208). -/
def State.discardPass (s : State) (t : Team) (l : Launch) : State :=
  if !t.inPasses || (match t.pass with | some p => p.mapDone | none => true) then s
  else
    let s := t.groups.foldl (fun s g => s.closeGroup t.id g.gid) s
    let s : State := { s with held := s.held.filter fun h => h.work != .outcomeMap t.id }
    let owns := match t.red with | some r => r.copy == 0 | none => true
    s.modTeam t.id fun t => { t with
      groups := []
      pass := t.pass.map fun p => { p with
        level := 0, todo := if owns then (List.range l.record.groups).map l.record.tile0 else [], judged := [], proofs := [], mapDone := false, mapOps := [] } }

/-- A CONTEXT_AREA fault of a whole team with the first faulting byte, under its launch's policy (R334, R337, R350). -/
def State.teamAreaFault (s : State) (t : Team) (sub : Nat) (addr : DWord) : State :=
  match t.groups.find? fun g => !g.ended with
  | none => s.takeFault (s.teamTrap t (.contextArea, sub) addr 6) t.id 0 (.outcomeMap t.id)
  | some g =>
    let k := (g.live.head?.map (·.1)).getD 0
    let pc := match g.split? k with | some p => p.set.pc | none => 0
    s.takeFault (s.siteTrap t g k.val pc 6 (.contextArea, sub) addr) t.id g.gid (.split { team := t.id, group := g.gid, split := k } 0)

/-- A team saved into its area: it leaves its core (R331). -/
def State.saveTeam (s : State) (t : Team) (l : Launch) : State :=
  let s := ((s.recallLoops t.id).forgetReads t.id).discardPass t l
  match s.team? t.id with
  | none => s
  | some t =>
    match s.writeArea t l with
    | .error addr => (s.teamAreaFault t 1 addr).modTeam t.id fun t => { t with saving := false }
    | .ok s =>
      s.modTeam t.id fun t => { t with state := .saved, saving := false, drain := none, groups := t.groups.map Group.saved }

/-- The teams for which one choice is made, and that are saved together: the resident set of an ordered launch, both copies of a
redundant team (R37, R38, R332). -/
def State.saveSet (s : State) (t : Team) (l : Launch) : List Team :=
  if l.record.ordered then (s.teamsOf l.id).filter fun u => u.state == .resident else (s.copies t.id).filter fun u => u.state == .resident

/-- A pre-empt command's teams that are still on their cores (R379). -/
def State.awaited (s : State) (ids : List Nat) : Bool := s.teams.any fun t => ids.contains t.id && t.state == .resident

/-- CONTEXT_SAVE: a team that is to be saved is written to its area once everything that it issued has completed and the homes can take
the area (R259). -/
def execContextSave (team : Nat) (s : State) : Out State :=
  match s.team? team with
  | none => .next s
  | some t =>
    match s.launchOf t with
    | none => .next s
    | some l =>
      let set := s.saveSet t l
      let sectors := set.length * (l.record.areaSize / 32 + 256)
      if t.state != .resident || !t.saving || !set.all s.quiet || !s.homesFree (Nat.min sectors (2 ^ 22)) then .next s
      else .next (set.foldl (fun s u => s.saveTeam u l) s)

/-! Restoring (R333, R353). -/

/-- A saved team back on a core: its area read and checked, its groups bound to issue slots, answers that came meanwhile still to be
given. -/
def State.restoreTeam (s : State) (t : Team) (l : Launch) (core : Nat) : State :=
  match s.deviceRead none l.asid (s.areaAddr t 0) l.record.areaSize Leaf.isPool with
  | .error e => s.teamAreaFault t 2 e.2
  | .ok bs =>
    match s.readArea t l bs with
    | none => s.teamAreaFault t 2 (s.areaAddr t 0)
    | some s' =>
      let counts := s'.slotCounts core
      let s' := s'.modTeam t.id fun t => { t with
        state := .resident, core := core, since := s'.cycleOf core
        groups := bindSlots counts t.groups }
      (s'.cmds.filter fun c => c.team == t.id && c.ending.isSome).foldl (fun s c => s.finishCmd c.id) s'

/-- The first core on which a saved team may be restored. -/
def State.restoreCore (s : State) (t : Team) : Option Nat := (List.range 384).find? fun c => s.mayRestore t c

/-- The teams restored together, the first one on a named core: the saved set of an ordered launch, both copies of a redundant team
(R332, R333); none while they do not all fit. -/
def State.placeSet (s : State) (core : Nat) : List Team → Option (List (Team × Nat))
  | [] => some []
  | t :: ts =>
    let c := if s.mayRestore t core then some core else s.restoreCore t
    match c with
    | none => none
    | some c =>
      let s' := s.modTeam t.id fun u => { u with state := .resident, core := c }
      (s'.placeSet 384 ts).map fun r => (t, c) :: r

/-- The saved teams that come back with a team. -/
def State.restoreSet (s : State) (t : Team) (l : Launch) : List Team :=
  let with_ (u : Team) : Bool := u.state == .saved && u.launch == l.id && u.id != t.id &&
    (l.record.ordered || (match t.red with | some r => r.twin == u.id | none => false))
  t :: s.teams.filter with_

/-- An answer that was given to a held fault of a saved team (R344). -/
def State.answers (s : State) (team : Nat) : List HeldFault :=
  s.held.filter fun h => h.answer.isSome && match h.work with
    | .split r _ | .clause r _ => r.team == team
    | .loop id => s.loops.any fun l => l.id == id && l.team == team
    | .cmd id => s.cmds.any fun c => c.id == id && c.team == team
    | .outcomeMap t => t == team
    | _ => false

/-! Held faults answered (R343, R344). -/

/-- Resume (R343, R344): the fault is no longer held; a TRANSLATION replays, a USER_TRAP goes on after its instruction. -/
def State.resumeFault (s : State) (h : HeldFault) : State :=
  let s : State := { s with held := s.held.filter fun x => !(x.asid == h.asid && x.seq == h.seq) }
  match h.work, h.trap.cause with
  | .split _ _, .userTrap | .clause _ _, .userTrap => s.passTrap h.work
  | .outcomeMap team, _ => s.writeMap team
  | .stageCounter launch _, _ => (s.closeStages launch).checkLaunch launch
  | _, _ => s

/-- Where a split that raised a held fault stands now; the fault's own group otherwise. -/
def HeldFault.site (h : HeldFault) : Option (Nat × Nat) :=
  match h.work with
  | .split r _ | .clause r _ => some (r.team, r.group)
  | _ => none

/-- Abandon (R344): the policy acts as though the cause had been raised now, without another record. -/
def State.abandonFault (s : State) (h : HeldFault) : State :=
  let s : State := { s with held := s.held.filter fun x => !(x.asid == h.asid && x.seq == h.seq) }
  match h.work with
  | .split r _ | .clause r _ =>
    let s := s.contain h.trap.cause r.team r.group
    if h.trap.cause == .userTrap then s.passTrap h.work else s
  | .loop id =>
    match s.loops.find? fun l => l.id == id with
    | some l => s.contain h.trap.cause l.team l.group
    | none => s
  | .cmd id =>
    match s.cmd? id with
    | some c => s.abortCmd c h.trap.cause
    | none => s
  | .stageCounter launch _ => s.cancelLaunch launch (some h.trap.cause.code)
  | .outcomeMap team => s.contain h.trap.cause team 0
  | .remote (.read node _ _ _) | .remote (.write node _ _ _ _) =>
    { s with sent := s.sent ++ [.answer node false [] h.trap.cause.code] }

/-- CONTEXT_RESTORE: a saved team returns to a core that has room for it. -/
def execContextRestore (team core : Nat) (s : State) : Out State :=
  match s.team? team with
  | none => .next s
  | some t =>
    match s.launchOf t with
    | none => .next s
    | some l =>
      if t.state != .saved || !s.mayRestore t core || !s.stageReady t l ||
          !(s.restoreSet t l).all (fun u => s.reachable none l.asid (s.areaAddr u 0) l.record.areaSize) then .next s
      else
        match s.placeSet core (s.restoreSet t l) with
        | none => .next s
        | some places =>
          let s := places.foldl (fun s p => s.restoreTeam p.1 l p.2) s
          let back := (places.map fun p => p.1.id).filter fun id => match s.team? id with | some u => u.state == .resident | none => false
          let given := back.flatMap s.answers
          .next (given.foldl (fun s h => if h.answer == some true then s.resumeFault h else s.abandonFault h) s)

/-! The means (R331, R332). -/

/-- A team's three costs: draining, when it is known, saving, and flushing, when it is allowed. -/
structure Costs where
  drain : Option Nat
  save  : Nat
  flush : Option Nat
  deriving DecidableEq, Repr

/-- The larger of two estimates, unknown when one is. -/
def maxKnown (a b : Option Nat) : Option Nat := match a, b with | some x, some y => some (Nat.max x y) | _, _ => none

def Costs.join (a b : Costs) : Costs := { drain := maxKnown a.drain b.drain, save := Nat.max a.save b.save, flush := maxKnown a.flush b.flush }

/-- The estimates of R331. -/
def State.costs (s : State) (t : Team) (l : Launch) : Costs :=
  let r := l.record
  let ds := match l.stages[t.stage]? with | some st => st.durations | none => []
  let c := r.groups * ((r.vregs + r.qbud) * 128 + 4096) + 8192 * r.tiles + 1024 * r.scratch
  { drain := if ds.isEmpty then none else some (ds.foldl (· + ·) 0 / ds.length - (s.cycleOf t.core - t.since))
    save := 256 + (c + 63) / 64
    flush := if r.idemp then some 64 else none }

/-- A way to take a team off its core. -/
inductive Means where
  | drain | save | flush
  deriving DecidableEq, Repr

/-- The choice of R332, and whether the bound is missed. -/
def Costs.choose (c : Costs) (bound : Nat) : Means × Bool :=
  let within (x : Option Nat) : Bool := match x with | some n => n ≤ bound | none => false
  if within c.drain then (.drain, false)
  else if c.save ≤ bound then (.save, false)
  else if within c.flush then (.flush, false)
  else
    let f : Means × Nat := match c.flush with | some n => if n < c.save then (.flush, n) else (.save, c.save) | none => (.save, c.save)
    match c.drain with
    | some n => (if n ≤ f.2 then .drain else f.1, true)
    | none => (f.1, true)

/-- A team discarded and requeued from its start (R332, R333). -/
def State.flushTeam (s : State) (team : Nat) : State :=
  match s.team? team with
  | none => s
  | some t =>
    ((s.copies team).foldl (fun s t => s.dropTeam t) s).modLaunch t.launch fun l => { l with stages := l.stages.mapIdx fun i st =>
      if i == t.stage then { st with requeued := st.requeued ++ [t.index] } else st }

/-- A means applied to a team. -/
def State.applyMeans (s : State) (t : Team) (m : Means) (estimate bound : Nat) : State :=
  match m with
  | .drain => s.modTeam t.id fun t => { t with drain := some (s.cycleOf t.core + estimate + bound) }
  | .save => s.modTeam t.id fun t => { t with saving := true }
  | .flush => s.flushTeam t.id

/-- Teams taken off their cores within a bound; whether the bound was missed for one of them. -/
def State.takeOff (s : State) (teams : List Team) (bound : Nat) : State × Bool :=
  teams.foldl (fun acc t =>
    let s := acc.1
    match s.team? t.id with
    | none => acc
    | some t =>
      match s.launchOf t with
      | none => acc
      | some l =>
        if t.state != .resident || t.saving || t.drain.isSome then acc
        else
          let set := s.saveSet t l
          let costs := set.foldl (fun c u => c.join (s.costs u l)) (s.costs t l)
          let (m, missed) := costs.choose bound
          (set.foldl (fun s u => s.applyMeans u m (costs.drain.getD 0) bound) s, acc.2 || missed)) (s, false)

/-- DRAIN_OVERRUN: a drained team that has not ended L cycles past its estimate is to be saved (R332). -/
def execDrainOverrun (team : Nat) (s : State) : Out State :=
  match s.team? team with
  | none => .next s
  | some t =>
    match t.drain with
    | none => .next s
    | some n =>
      match s.launchOf t with
      | none => .next s
      | some l =>
        if t.state != .resident || s.cycleOf t.core < n then .next s
        else .next ((s.saveSet t l).foldl (fun s u => s.modTeam u.id fun t => { t with saving := true, drain := none }) s)

end Sys2Proof.Machine
end

