-- ==== Sys2Proof/Machine/Host.lean ====
section
/-! DEFINITION. The host's side: the fault ring (R337 to R341), the registers of BAR0 (R376), kicks (R377), host commands (R379, R248,
R332, R335, R344, R345), and accesses over PCIe (R266). -/

namespace Sys2Proof.Machine

/-! Trap records (R337, R338, R340, R395). -/

/-- The 64 bytes of a trap record. -/
def Trap.bytes (t : Trap) (seq : Nat) : List Byte :=
  let c := t.team
  let s0 := t.addr.toNat * 2 ^ 192 + t.spc.toNat * 2 ^ 128 + t.lpc.toNat * 2 ^ 64 + t.launch % 2 ^ 32 * 2 ^ 32 + t.cause.code * 2 ^ 24 +
    t.sub % 2 ^ 8 * 2 ^ 16 + t.ucode % 2 ^ 16
  let lane := match t.lane with | some l => 2 ^ 99 + l % 32 * 2 ^ 94 | none => 0
  let s1 := seq % 2 ^ 32 * 2 ^ 224 + c.2.2 % 2 ^ 32 * 2 ^ 192 + c.2.1 % 2 ^ 32 * 2 ^ 160 + c.1 % 2 ^ 32 * 2 ^ 128 + t.asid % 512 * 2 ^ 110 +
    t.stage % 8 * 2 ^ 107 + t.group % 32 * 2 ^ 102 + t.split % 4 * 2 ^ 100 + lane + (if t.bpm then 2 ^ 93 else 0) +
    (if t.held then 2 ^ 92 else 0) + t.src % 8 * 2 ^ 89 + t.node % 2 ^ 18 * 2 ^ 71 + t.reg.toNat * 2 ^ 64
  natLe 32 s0 ++ natLe 32 s1

/-- The operations that a record waits for have delivered (R93). -/
def State.delivered (s : State) (ids : List Nat) : Bool :=
  ids.all fun id => match s.op? id with | some o => o.done || (o.result.isSome && o.dest == .none) | none => true

/-- The ring is full (R376). -/
def Asid.ringFull (a : Asid) : Bool := (BitVec.ofNat 32 a.written - a.frhead) == a.frsize

/-- TRAP_RECORD_WRITE: the oldest record is written into the ring once there is room; one that cannot be written sets STAT[5], and its
held fault is handled as abandoned. -/
def execTrapRecordWrite (asid : Nat) (s : State) : Out State :=
  let a := s.asid asid
  match a.traps with
  | [] => .next s
  | (seq, t) :: rest =>
    if a.frsize = 0 || a.ringFull || !s.delivered t.behind then .next s
    else
      let ptr := a.frbase + BitVec.ofNat 64 (64 * ((seq - 1) % a.frsize.toNat))
      let s1 := s.setAsid { a with traps := rest, written := seq }
      match s1.deviceSend asid ptr (t.bytes seq) .relaxed [] with
      | some s2 => .next s2.flushFinals
      | none =>
        let s2 := (s1.setStat asid 5).fireVector asid
        match s2.held.find? fun h => h.asid == asid && h.seq == seq with
        | some h => .next (s2.abandonFault h).flushFinals
        | none => .next s2.flushFinals

/-! Commands (R379). -/

/-- The fields of a command sector. -/
structure Order4 where
  kind : Nat
  arg1 : Nat
  arg2 : Nat
  done : DWord
  zero : Bool
  deriving DecidableEq, Repr

def commandOf (bs : List Byte) : Order4 :=
  let v := leNat bs
  { kind := bits v 7 0, zero := bits v 63 8 == 0, arg1 := bits v 127 64, arg2 := bits v 191 128, done := BitVec.ofNat 64 (bits v 255 192) }

/-- A command is accepted: a known KIND with its reserved bits zero. -/
def Order4.ok (c : Order4) : Bool :=
  c.zero && match c.kind with
  | 1 => true
  | 2 => c.arg1 < 2 ^ 48
  | 3 => c.arg1 < 2 ^ 32 && c.arg2 == 0
  | 4 => c.arg1 == 0 && c.arg2 == 0
  | 5 => c.arg1 < 2 ^ 33 && c.arg2 == 0
  | _ => false

/-- A completion word, a release at system scope (R379). -/
def State.commandDone (s : State) (asid : Nat) (done : DWord) (result : Nat) (missed : Bool) (count : Nat) : State :=
  s.deviceWord asid done (natLe 4 (result + if missed then 256 else 0) ++ natLe 4 count) .release
    ((s.ops.filter fun o => o.asid == asid).map (·.id)) 7

/-- The command at the head of an ASID's queue has its sector read; one that is refused is answered, and the next one read. -/
def State.readCommands (s : State) (asid : Nat) : Nat → State
  | 0 => s
  | fuel + 1 =>
    let a := s.asid asid
    match a.cmds with
    | [] => s
    | c :: rest =>
      if c.sector.isSome || !s.reachable none asid c.addr 32 then s
      else
        match s.deviceRead none asid c.addr 32 Leaf.plainFmt with
        | .error _ => (((s.setAsid { a with cmds := rest }).setStat asid 1).fireVector asid).readCommands asid fuel
        | .ok bs =>
          let k := commandOf bs
          if k.ok then s.setAsid { a with cmds := { c with sector := some bs } :: rest }
          else (((s.setAsid { a with cmds := rest }).setStat asid 1).commandDone asid k.done 1 false c.count).readCommands asid fuel

/-- The command whose turn it is, if it has a KIND. -/
def State.headCommand (s : State) (asid kind : Nat) : Option (HostCmd × Order4) :=
  match (s.asid asid).cmds with
  | c :: _ =>
    match c.sector with
    | some bs => let k := commandOf bs; if k.kind = kind then some (c, k) else none
    | none => none
  | [] => none

/-- The command at the head is over: its completion word, and the next command's sector. -/
def State.endCommand (s : State) (asid : Nat) (c : HostCmd) (k : Order4) : State :=
  let a := s.asid asid
  ((s.setAsid { a with cmds := a.cmds.drop 1 }).commandDone asid k.done 0 c.missed c.count).readCommands asid (a.cmds.length + 1)

/-- Change the command at the head. -/
def State.modHead (s : State) (asid : Nat) (f : HostCmd → HostCmd) : State :=
  let a := s.asid asid
  match a.cmds with
  | c :: rest => s.setAsid { a with cmds := f c :: rest }
  | [] => s

/-! Invalidation (R248). -/

/-- Kept leaves of an ASID that meet a virtual range are dropped. -/
def State.dropLeaves (s : State) (asid base len : Nat) : State :=
  { s with cores := s.cores.map fun c => { c with tlb := c.tlb.filter fun t => !(t.asid == asid && t.va < base + len && base < t.va + t.size) } }

/-- INVALIDATE: the covered leaves are dropped. -/
def execInvalidate (asid : Nat) (s : State) : Out State :=
  match s.headCommand asid 1 with
  | none => .next s
  | some (c, k) =>
    if c.begun.isSome then .next s
    else .next ((s.dropLeaves asid k.arg1 k.arg2).modHead asid fun c => { c with begun := some [] })

/-- Every write that a home has homed is applied at every die: every walk finds what memory holds (R247, R259). -/
def State.level (s : State) : Bool :=
  (List.range 5).all fun h => (List.range 5).all fun d =>
    vget (vget s.vectors d (Vector.replicate 5 0)) h 0 == vget (vget s.vectors h (Vector.replicate 5 0)) h 0

/-- INVALIDATE_COMPLETION: once no TLB holds a covered leaf, the accesses of the ASID are performed at system scope, and what memory
holds stands at every die, so that later walks use it (R248). -/
def execInvalidateCompletion (asid : Nat) (s : State) : Out State :=
  match s.headCommand asid 1 with
  | none => .next s
  | some (c, k) =>
    if c.begun.isNone || !s.level || !(s.ops.all fun o => o.asid != asid || o.isFence || o.opPerformed .system) then .next s
    else .next ((s.dropLeaves asid k.arg1 k.arg2).endCommand asid c k)

/-! Pre-emption (R331, R332, R379). -/

/-- PRE_EMPT: the resident teams of the ASID on the named clusters are taken off, and none is dispatched there during the hold; the
command is done once they have left their cores. -/
def execPreEmpt (asid : Nat) (s : State) : Out State :=
  match s.headCommand asid 2 with
  | none => .next s
  | some (c, k) =>
    match c.begun with
    | some ids => if s.awaited ids then .next s else .next (s.endCommand asid c k)
    | none =>
      let teams := s.teams.filter fun t => s.asidOf t == asid && t.state == .resident && bit k.arg1 (clusterOf t.core)
      let bound := k.arg2 % 2 ^ 32
      let hold := k.arg2 / 2 ^ 32
      let a := s.asid asid
      let s := if hold = 0 then s else s.setAsid { a with holds := a.holds ++ [{ id := c.count, mask := k.arg1, left := 1024 * hold }] }
      let (s, missed) := s.takeOff teams bound
      let c' := { c with begun := some (teams.map (·.id)), missed := missed }
      let s := s.modHead asid fun _ => c'
      if s.awaited (teams.map (·.id)) then .next s else .next (s.endCommand asid c' k)

/-- PRE_EMPT_HOLD_END: the holds of the ASID that have run out end. -/
def execPreEmptHoldEnd (asid : Nat) (s : State) : Out State :=
  let a := s.asid asid
  .next ((s.setAsid { a with holds := a.holds.filter fun h => h.left != 0 }).deal dealFuel)

/-! Cancelling and resuming (R335, R345). -/

/-- The context is no longer halted: STAT[2] follows it, and its teams go on (R345, R376). -/
def State.unhalt (s : State) (asid : Nat) : State :=
  let a := s.asid asid
  let s : State := { s.setAsid { a with stat := a.stat &&& ~~~4 } with halted := s.halted.filter fun x => x != asid }
  ({ s with teams := s.teams.map fun t => if s.asidOf t == asid && t.state == .resident then { t with saving := false } else t } : State).deal dealFuel

/-- CANCEL: a launch, or every launch of the ASID, is cancelled; a context whose launches are all gone is no longer halted. An identifier
that is not live does nothing. -/
def execCancel (asid : Nat) (s : State) : Out State :=
  match s.headCommand asid 3 with
  | none => .next s
  | some (c, k) =>
    let ids := (s.launches.filter fun l => l.asid == asid && (k.arg1 = 0xFFFFFFFF || l.id == k.arg1)).map (·.id)
    let s := ids.foldl (fun s id => s.cancelLaunch id none) s
    let live := s.launches.any fun l => l.asid == asid && l.cancel.isNone && l.final.isNone
    let s := if s.halted.contains asid && !live && (!ids.isEmpty || k.arg1 = 0xFFFFFFFF) then s.unhalt asid else s
    .next ((s.endCommand asid c k).deal dealFuel)

/-- RESUME_CONTEXT: a halted context goes on. -/
def execResumeContext (asid : Nat) (s : State) : Out State :=
  match s.headCommand asid 4 with
  | none => .next s
  | some (c, k) => .next ((if s.halted.contains asid then s.unhalt asid else s).endCommand asid c k)

/-! Answers to held faults (R344). -/

/-- The work of a held fault belongs to a saved team, whose answer takes effect at its restore. -/
def State.savedWork (s : State) (h : HeldFault) : Bool :=
  s.teams.any fun t => t.state == .saved && match h.work with
    | .split r _ | .clause r _ => r.team == t.id
    | .loop id => s.loops.any fun l => l.id == id && l.team == t.id
    | .cmd id => s.cmds.any fun c => c.id == id && c.team == t.id
    | .outcomeMap team => team == t.id
    | _ => false

/-- An answer: given to a held fault, ignored when there is none. -/
def State.answer (s : State) (asid : Nat) (abandon : Bool) (again : FabricRequest → State → State) : State :=
  match s.headCommand asid 5 with
  | none => s
  | some (c, k) =>
    if (k.arg1 / 2 ^ 32 == 1) != abandon then s
    else
      let s' := match s.held.find? fun h => h.asid == asid && h.seq % 2 ^ 32 == k.arg1 % 2 ^ 32 with
        | none => s
        | some h =>
          if s.savedWork h then
            ({ s with held := s.held.map fun (x : HeldFault) => if x.asid == asid && x.seq == h.seq then { x with answer := some (!abandon) } else x } : State)
          else if abandon then s.abandonFault h
          else
            match h.work with
            | .remote req => again req (s.resumeFault h)
            | _ => s.resumeFault h
      s'.endCommand asid c k

/-! Accesses over PCIe (R266). -/

/-- Operations of a requester outside the cores, in their order. -/
def State.opsOf (s : State) (agent : Agent) : List Nat := (s.ops.filter fun o => o.agent == agent).map (·.id)

/-- Every earlier write of a requester is homed: its next read comes to the homes behind them. -/
def State.arrived (s : State) (agent : Agent) : Bool := s.ops.all fun o => o.agent != agent || !o.isWrite || o.isHomed

/-- The operations that precede a requester's next one (R266): what the host does with its own memory is ordered beyond the IOD only. -/
def State.requesterPast (s : State) (agent : Agent) : List Nat :=
  (s.ops.filter fun o => o.agent == agent && !(agent == .host && regionOf o.addr 1 == some 3)).map (·.id)

/-- Bytes written by a requester, one operation for each sector, behind its earlier ones; on an SC page as seq_cst (R263). -/
def State.requesterWrite (s : State) (agent : Agent) (asid pa : Nat) (sc : Bool) (data : List (Byte × Byte)) : State :=
  (sectorPieces pa data.length data.length).foldl (fun s p =>
    s.pushOp { blankOp agent asid .store .mem (pa + p.1) p.2 with
      data := (data.drop p.1).take p.2, sc := sc, past := s.requesterPast agent, done := true }) s

/-- Bytes read by a requester at the homes, one operation for each sector, behind its earlier ones: the writes that they come from
precede the requester's later writes (R257). -/
def State.requesterRead (s : State) (agent : Agent) (asid pa n : Nat) : List Byte × State :=
  (sectorPieces pa n n).foldl (fun acc p =>
    let f := acc.2.find none none seesAll (pa + p.1) p.2
    let o := { blankOp agent asid .load .mem (pa + p.1) p.2 with past := acc.2.requesterPast agent, done := true }
    (acc.1 ++ f.1, acc.2.pushOp (o.satisfied f.1 f.2))) ([], s)

/-- The host changes its own memory: a write at the IOD's home, in no order with its others (R266, R377). -/
def State.ownWrite (s : State) (pa : Nat) (bs : List Byte) : State :=
  (sectorPieces pa bs.length bs.length).foldl (fun s p =>
    s.pushOp { blankOp .host 0 .store .mem (pa + p.1) p.2 with data := plainData ((bs.drop p.1).take p.2), done := true }) s

/-- HOST_MEMORY_ACCESS: a host read or write of GDDR7 data through the window at WINBASE, or of its own memory; a read waits until the
host's earlier writes are homed. -/
def execHostMemoryAccess (acc : HostAccess) (s : State) : Out State :=
  let inWindow (off n : Nat) : Bool := off + n ≤ 2 ^ 36 && regionOf (s.winbase.toNat + off) n == some 0
  match acc with
  | .write off data =>
    if inWindow off data.length then .next (s.requesterWrite .host 0 (s.winbase.toNat + off) false (plainData data)) else .next s
  | .read off len =>
    if inWindow off len && s.arrived .host then
      let r := s.requesterRead .host 0 (s.winbase.toNat + off) len
      .next { r.2 with hostReads := r.2.hostReads ++ [r.1] }
    else .next s
  | .own pa data => if regionOf pa data.length == some 3 then .next (s.ownWrite pa data) else .next s

/-! Registers of BAR0 (R376). -/

/-- The ASID has a live launch. -/
def State.liveLaunch (s : State) (asid : Nat) : Bool := s.launches.any fun l => l.asid == asid

/-- A power of two, or 0, up to 2^20. -/
def ringSize (v : Nat) : Bool := v = 0 || ((List.range 21).any fun k => v = 2 ^ k)

/-- A write of a register that takes effect only without a live launch and only under its constraint; else STAT[0] (R376). -/
def State.quietWrite (s : State) (asid : Nat) (ok : Bool) (f : Asid → Asid) : State :=
  if ok && !s.liveLaunch asid then s.setAsid (f (s.asid asid)) else s.setStat asid 0

/-- CMD: the command takes the next count and its place behind the others. -/
def State.writeCmd (s : State) (asid : Nat) (addr : DWord) : State :=
  let a := s.asid asid
  (s.setAsid { a with cmdCount := a.cmdCount + 1
                      cmds := a.cmds ++ [{ addr := addr, count := a.cmdCount + 1, sector := none, begun := none, missed := false }] }).readCommands
    asid (a.cmds.length + 1)

/-! Kicks (R377). -/

/-- A refused kick: KERR, STAT[4] and the vector. -/
def State.refuseKick (s : State) (asid : Nat) (k : Kick) : State :=
  let a := s.asid asid
  ((s.setAsid { a with kerr := BitVec.ofNat 64 (k.seq.toNat + k.slot * 2 ^ 32 + 2 * 2 ^ 44) }).setStat asid 4).fireVector asid

/-- The kick at the head is consumed. -/
def State.consumeKick (s : State) (k : Kick) : State :=
  let a := s.asid k.asid
  { s.setAsid { a with acpt := a.acpt + 1 } with kicks := s.kicks.drop 1 }

/-- The kick at the head goes on as it now stands. -/
def State.setKick (s : State) (k : Kick) : State := { s with kicks := k :: s.kicks.drop 1 }

/-- A kick whose record has been read whole is judged. -/
def State.judgeKick (s : State) (k : Kick) (bs : List Byte) : State :=
  match s.rejection k.asid bs with
  | some 2 => (s.refuseKick k.asid k).consumeKick k
  | some st => (s.writeCpl k.asid (launchRecOf bs).cpl st 0).consumeKick k
  | none => (s.accept k.asid (launchRecOf bs) none).consumeKick k

/-- The front end serves the kick at the head, by one read of its slot: sector 15 until it holds the SEQ, then sectors 0 to 14 in
ascending order. -/
def State.serveKick (s : State) : State :=
  match s.kicks with
  | [] => s
  | k :: _ =>
    let a := s.asid k.asid
    let at_ (n : Nat) : DWord := a.subbase + BitVec.ofNat 64 (512 * k.slot + 32 * n)
    let next := match k.found with | none => 15 | some _ => k.got.length / 32
    if !s.accepting then s
    else if k.bad || a.subn.toNat ≤ k.slot then (s.refuseKick k.asid k).consumeKick k
    else if !s.reachable none k.asid (at_ next) 32 then s
    else
      match k.found, s.deviceRead none k.asid (at_ next) 32 Leaf.plainFmt with
      | none, .ok bs =>
        if bits (leNat bs) 239 208 == k.seq.toNat then s.setKick { k with found := some bs }
        else if 2 ^ 16 ≤ k.reads + 1 then (s.refuseKick k.asid k).consumeKick k
        else s.setKick { k with reads := k.reads + 1 }
      | none, .error _ =>
        if 2 ^ 16 ≤ k.reads + 1 then (s.refuseKick k.asid k).consumeKick k else s.setKick { k with reads := k.reads + 1 }
      | some last, .ok bs => if next = 14 then s.judgeKick k (k.got ++ bs ++ last) else s.setKick { k with got := k.got ++ bs }
      | some _, .error _ => (s.refuseKick k.asid k).consumeKick k

/-- A write of KICK: the kick takes its place behind the others; one that has nothing before it has its first read. -/
def State.writeKick (s : State) (asid : Nat) (v : DWord) : State :=
  let k : Kick := { asid := asid, seq := v.truncate 32, slot := bits v.toNat 43 32, bad := bits v.toNat 63 44 != 0, reads := 0
                    found := none, got := [] }
  let t : State := { s with kicks := s.kicks ++ [k] }
  if s.kicks.isEmpty then t.serveKick else t

/-- BAR0's ASID pages are open (R383). -/
def State.barOpen (s : State) : Bool := bits s.boot.toNat 7 0 == 6

/-- KICK: a host write of an ASID's KICK register. -/
def execKick (asid : Nat) (value : DWord) (s : State) : Out State :=
  if 512 ≤ asid || !s.barOpen then .next s else .next (s.writeKick asid value)

/-- SUBMISSION_SEQ_REREAD: the front end goes on with the kick at the head, when it is one of the ASID. -/
def execSubmissionSeqReread (asid : Nat) (s : State) : Out State :=
  match s.kicks with
  | k :: _ => if k.asid = asid then .next s.serveKick else .next s
  | [] => .next s

/-- A write of a register of an ASID's page. -/
def State.writeAsid (s : State) (asid off : Nat) (v : DWord) : State :=
  let n := v.toNat
  let w : Word := v.truncate 32
  let a := s.asid asid
  match off with
  | 0x000 => s.quietWrite asid true fun a => { a with ident := v }
  | 0x008 => s.quietWrite asid (n % 512 = 0) fun a => { a with subbase := v }
  | 0x010 => s.quietWrite asid (w.toNat ≤ 4096) fun a => { a with subn := w }
  | 0x018 => s.writeKick asid v
  | 0x028 => s.quietWrite asid (n % 64 = 0) fun a => { a with frbase := v }
  | 0x030 => s.quietWrite asid (ringSize w.toNat) fun a => { a with frsize := w }
  | 0x034 => s.setAsid { a with frhead := w }
  | 0x038 => s.quietWrite asid (n % 65536 = 0) fun a => { a with cpbase := v }
  | 0x040 => s.quietWrite asid true fun a => { a with cpsize := w }
  | 0x048 => s.writeCmd asid v
  | 0x050 => if bits w.toNat 30 16 = 0 then s.setAsid { a with vec := w } else s.setStat asid 0
  | 0x054 => s.setAsid { a with stat := a.stat &&& ~~~(w &&& 0xFB) }
  | _ => s

/-- HOST_REGISTER_WRITE: read-only and reserved offsets are ignored. -/
def execHostRegisterWrite (offset : Nat) (value : DWord) (s : State) : Out State :=
  if offset < 0x10000 then
    if bits s.boot.toNat 7 0 < 2 then .next s
    else if offset = 0x018 then .next { s with peersel := value.truncate 32 &&& 0x3FFFF }
    else if offset = 0x020 then .next { s with winbase := value &&& ~~~0xFFFFFFFFF }
    else .next s
  else
    let asid := (offset - 0x10000) / 4096
    if 512 ≤ asid || !s.barOpen then .next s else .next (s.writeAsid asid ((offset - 0x10000) % 4096) value)

/-- What a read of the global page's PEER gives (R376). -/
def State.peerRead (s : State) : Word :=
  match s.peer? s.peersel.toNat with
  | some .up => 0 | some .recovering => 1 | some .lost => 2 | none => 3

/-- What a host read of a BAR0 register returns (R376). -/
def State.registerRead (s : State) (offset : Nat) : DWord :=
  if offset < 0x10000 then
    match offset with
    | 0x000 => 0x5A4B0192
    | 0x008 => s.node.zeroExtend 64
    | 0x010 => s.boot.zeroExtend 64
    | 0x018 => s.peersel.zeroExtend 64
    | 0x01C => s.peerRead.zeroExtend 64
    | 0x020 => s.winbase
    | _ => 0
  else
    let a := s.asid ((offset - 0x10000) / 4096)
    match (offset - 0x10000) % 4096 with
    | 0x000 => a.ident
    | 0x008 => a.subbase
    | 0x010 => a.subn.zeroExtend 64
    | 0x020 => a.acpt.zeroExtend 64
    | 0x028 => a.frbase
    | 0x030 => a.frsize.zeroExtend 64
    | 0x034 => a.frhead.zeroExtend 64
    | 0x038 => a.cpbase
    | 0x040 => a.cpsize.zeroExtend 64
    | 0x050 => a.vec.zeroExtend 64
    | 0x054 => a.stat.zeroExtend 64
    | 0x058 => a.kerr
    | _ => 0

end Sys2Proof.Machine
end

