-- ==== Sys2Proof/Machine/Fabric.lean ====
section
/-! DEFINITION. The fabric: requests of other devices (R368), peers and links (R367), REMOTE_LOST (R355); the watchdog (R354); and the
answers to held faults (R344). -/

namespace Sys2Proof.Machine

/-! Requests of other devices (R266, R299, R303, R368). -/

/-- The blocks of a block-scaled page that begin in a sector, as the offsets of their bytes in it. -/
def Leaf.blockStarts (l : Leaf) (ptr : DWord) : List Nat :=
  if !fmtScaled l.fmt then []
  else
    let w := fmtWidth l.fmt
    (List.range 32).flatMap fun o =>
      ((rowParts w (bits ptr.toNat 56 0 % l.size + o)).filter fun q =>
        q.elem % l.row % fmtBlock l.fmt == 0 && (if w = 6 then q.code == 2 else q.code == 0)).map fun _ => o

/-- The sector of a pointer. -/
def sectorPtr (addr : DWord) : DWord := addr &&& ~~~31

/-- A fault of a remote request (R368): recorded here with the node that asked; a TRANSLATION is held, any other cause is answered. An
ASID that is not valid here has no record. -/
def State.remoteFault (s : State) (node asid : Nat) (f : AccessFault) (addr : DWord) (req : FabricRequest) : State :=
  let a := s.asid asid
  let reply (s : State) : State := { s with sent := s.sent ++ [.answer node false [] f.1.code] }
  let t : Trap := { asid := asid, launch := 0, cause := f.1, sub := f.2, ucode := 0, addr := addr, spc := 0, lpc := 0, team := (0, 0, 0)
                    stage := 0, group := 0, split := 0, lane := none, bpm := false, held := false, src := 4, node := node, reg := 0
                    behind := [] }
  if !identValid a.ident then reply s
  else if f.1.isHeld && a.frsize ≠ 0 then
    let t := { t with held := true }
    let s' := s.record t
    { s' with held := s'.held ++ [{ asid := asid, seq := a.seq + 1, trap := t, work := .remote req, answer := none }] }
  else reply (s.record t)

/-- The bytes that a remote reader receives: its sector, of a 2:4 page as it is stored, then the shift bytes of the blocks that begin
there. Each is read at its home as an operation of the requester (R266). -/
def State.remoteBytes (s : State) (node asid : Nat) (l : Leaf) (ptr : DWord) : Option (List Byte) × State :=
  let pa := l.pa ptr
  let agent : Agent := .fabric node
  if l.cmp then
    let base := pa - pa % 256
    let h := s.requesterRead agent asid (l.header base) 1
    let b := h.2.requesterRead agent asid base 256
    ((decompress (leNat h.1) b.1 fun o => (Config.freeWord (base + o)).truncate 8).map fun bs => (bs.drop (pa % 256)).take 32, b.2)
  else
    let r := s.requesterRead agent asid pa 32
    let q := (l.blockStarts ptr).foldl (fun (acc : List Byte × State) o =>
      let x := acc.2.requesterRead agent asid (l.scaleAddr (ptr + BitVec.ofNat 64 o)) 1
      (acc.1 ++ x.1, x.2)) (r.1, r.2)
    (some q.1, q.2)

/-- The last operation of a requester answers it when it is performed (R368, R378). -/
def State.answerLast (s : State) (node : Nat) : State :=
  { s with ops := s.ops.map fun o =>
      if o.id + 1 == s.fresh && o.agent == .fabric node then { o with dest := .ack node, scope := .system, done := false } else o }

/-- The bytes that a remote writer sends, with the shift bytes of the blocks whose first bytes they are; the writer is answered once they
are performed at system scope. -/
def State.remoteWrite (s : State) (node asid : Nat) (l : Leaf) (ptr : DWord) (data : List (Option Byte)) : State :=
  let masked (x : Option Byte) : Byte × Byte := match x with | some b => (b, 0xFF) | none => (0, 0)
  let bytes := (data.take 32).map masked
  let pa := l.pa ptr
  let agent : Agent := .fabric node
  if l.cmp then
    let base := pa - pa % 256
    let at_ (k : Nat) : Byte × Byte := if base + k < pa then (0, 0) else bytes.getD (base + k - pa) (0, 0)
    (s.pushOp { blankOp agent asid (.block (l.header base)) .mem base 256 with
      data := (List.range 256).map at_, sc := l.sc, past := s.requesterPast agent, done := true }).answerLast node
  else
    let s := s.requesterWrite agent asid pa l.sc bytes
    let starts := (l.blockStarts ptr).filter fun o => ((data[o]?).getD none).isSome
    ((starts.zip (data.drop 32)).foldl (fun s x =>
      match x.2 with
      | some b => s.requesterWrite agent asid (l.scaleAddr (ptr + BitVec.ofNat 64 x.1)) l.sc [(b, 0xFF)]
      | none => s) s).answerLast node

/-- A remote device's request under the tables of this one; a read waits until the requester's earlier writes are homed, and for a
drained well (R356). -/
def State.serveRemote (req : FabricRequest) (s : State) : State :=
  match req with
  | .read node asid addr efmt =>
    let ptr := sectorPtr addr
    if !s.arrived (.fabric node) || !s.reachable none asid ptr 32 then s
    else
      match s.checkAccess none asid ptr 32 .load fun l => pageAgrees efmt true false l.fmt || pageAgrees efmt true true l.fmt with
      | .error f => s.remoteFault node asid f addr req
      | .ok l =>
        match s.remoteBytes node asid l ptr with
        | (none, s) => s.remoteFault node asid (.formatAccess, 0) addr req
        | (some bs, s) => { s with sent := s.sent ++ [.answer node (!pageAgrees efmt true false l.fmt) bs 0] }
  | .write node asid addr efmt data =>
    let ptr := sectorPtr addr
    match s.checkAccess none asid ptr 32 .store fun l => pageAgrees efmt false false l.fmt with
    | .error f => s.remoteFault node asid f addr req
    | .ok l =>
      if l.cmp && 4 ≤ (s.mem.read (l.header (l.pa ptr))).toNat then s.remoteFault node asid (.formatAccess, 0) addr req
      else s.remoteWrite node asid l ptr data

/-- FABRIC_REQUEST: a remote device's request arrives. -/
def execFabricRequest (req : FabricRequest) (s : State) : Out State := .next (s.serveRemote req)

/-- FAULT_RESUME: the host answers a held fault with resume. -/
def execFaultResume (asid : Nat) (s : State) : Out State := .next (s.answer asid false State.serveRemote)
/-- FAULT_ABANDON: the host answers a held fault with abandon. -/
def execFaultAbandon (asid : Nat) (s : State) : Out State := .next (s.answer asid true State.serveRemote)

/-! Peers (R367). -/

/-- A peer's state changed when it stands in one of some states. -/
def State.movePeer (s : State) (node : Nat) (from_ : List PeerState) (into : PeerState) : State :=
  { s with peers := s.peers.map fun p => if p.node == node && from_.contains p.state then { p with state := into } else p }

/-- The links that the routing table names for a node (R366), as bits. -/
def State.linksOf (s : State) (node : Nat) : Word :=
  match s.peers.find? fun p => p.node == node with
  | some p => BitVec.ofNat 32 (p.links.foldl (fun acc k => acc ||| 2 ^ k) 0)
  | none => 0

/-- A link of the peer's set works. -/
def State.routed (s : State) (p : Peer) : Bool := s.linksOf p.node &&& s.links != 0

/-- LINK_FAILURE: the last link of a node's route fails, and so does the route of every peer whose links have all failed. -/
def execLinkFailure (node : Nat) (s : State) : Out State :=
  let t : State := { s with links := s.links &&& ~~~s.linksOf node }
  .next { t with peers := t.peers.map fun p => if p.state == .up && !t.routed p then { p with state := .recovering } else p }

/-- LINK_RECOVERY: a working route to a node returns, and to every peer that shares its links. -/
def execLinkRecovery (node : Nat) (s : State) : Out State :=
  let t : State := { s with links := s.links ||| s.linksOf node }
  .next ({ t with peers := t.peers.map fun p => if p.state == .recovering && t.routed p then { p with state := .up } else p } : State).learnLosses
/-- FABRIC_RECOVERY_LIMIT: RECOVERING has lasted past the limit. -/
def execFabricRecoveryLimit (node : Nat) (s : State) : Out State := .next (s.movePeer node [.recovering] .lost).learnLosses
/-- PEER_LOSS_NOTICE: a device that shares the route, or management, declares the node lost. -/
def execPeerLossNotice (node : Nat) (s : State) : Out State := .next (s.movePeer node [.up, .recovering] .lost).learnLosses

/-! Waiting on peers (R355). -/

/-- A command is a remote copy to a node: its remote address. -/
def Cmd.remoteTo (c : Cmd) (node : Nat) : Option DWord :=
  match c.kind with
  | .copy { shape := some p, .. } =>
    if p.node ≠ node then none else if p.skind = 3 then some p.src else if p.dkind = 3 then some p.dst else none
  | _ => none

/-- The remote copies of a group to a node, not yet ended. -/
def State.remoteCopies (s : State) (team gid node : Nat) : List (Cmd × DWord) :=
  s.cmds.filterMap fun c => if c.team == team && c.group == gid && c.ending.isNone then (c.remoteTo node).map fun a => (c, a) else none

/-- REMOTE_LOST: the group's waiting on a node ends by the node's loss or by the deadline; its remote copies to the node end with 0x10
and each issuing split raises the fault. -/
def execRemoteLost (team group : Nat) (node : Nat) (s : State) : Out State :=
  match s.team? team with
  | none => .next s
  | some t =>
    let sub := match s.peer? node with | some .lost => 2 | some .recovering => 1 | _ => 0
    let copies := s.remoteCopies team group node
    if sub = 0 || copies.isEmpty || t.state != .resident then .next s
    else
      let s := copies.foldl (fun s x => s.endCmd x.1.id 16) s
      let uids := (copies.map fun x => x.1.uid).eraseDups
      .next (uids.foldl (fun s uid =>
        match s.team? team, copies.find? fun x => x.1.uid == uid with
        | some t, some (c, addr) =>
          match t.group? group with
          | some g =>
            if g.ended then s
            else
              let trap := { s.siteTrap t g (g.splitNumber uid) c.pc 4 (.remoteLost, sub) addr with node := node }
              s.takeFault trap team group (.cmd c.id)
          | none => s
        | _, _ => s) s)

/-! The watchdog (R354). -/

/-- Everything that the group waits on is a remote copy to a peer in RECOVERING (R355); a split that waits in a `bar` waits on no copy. -/
def State.remoteWait (s : State) (t : Team) (g : Group) : Bool :=
  let recovering (id : Nat) : Bool :=
    s.peers.any fun p => p.state == .recovering && s.cmds.any fun c => c.id == id && (c.remoteTo p.node).isSome
  s.peers.any (·.state == .recovering) && g.live.all (fun kp => kp.2.status == .running) &&
  !(s.groupAwaits t g).isEmpty && (s.groupAwaits t g).all recovering

/-- The count of a group pauses: a fault of it is held, its team is not resident, or it waits on a recovering peer. -/
def State.watchPaused (s : State) (t : Team) (g : Group) : Bool :=
  t.state != .resident || g.ended || (s.held.any fun h => s.workIn h.work t.id g.gid) || s.remoteWait t g

/-- WATCHDOG: the count has reached WDLIM × 1,024. -/
def execWatchdog (team group : Nat) (s : State) : Out State :=
  match s.team? team with
  | none => .next s
  | some t =>
    match t.group? group, s.launchOf t with
    | some g, some l =>
      if g.watch < 1024 * l.record.wdlim || s.watchPaused t g then .next s
      else
        match g.live with
        | [] => .next s
        | (k, p) :: _ =>
          let s := s.modGroup team group fun g => { g with watch := 0 }
          .next (s.takeFault (s.siteTrap t g k.val p.set.pc 6 (.watchdog, 0) 0) team group (.split { team := team, group := group, split := k } p.set.uid))
    | _, _ => .next s

end Sys2Proof.Machine
end

