-- ==== Sys2Proof/Machine/Fetch.lean ====
section
/-! DEFINITION. Fetch and decode: scalar words (R68, R70), clauses (R69 to R73, R82, R90), and the beginning of a clause (R23). -/

namespace Sys2Proof.Machine

/-! Sectors of code (R71). -/

/-- A sector fetched ahead for a launch. -/
def State.fetchedAhead? (s : State) (launch sector : Nat) : Option Prefetch :=
  s.fetches.find? fun e => e.launch == launch && e.sector == sector

/-- Bytes of code within a sector: as a load of the core finds them, or as the sector was fetched ahead. -/
def State.codeBytes (s : State) (core launch : Nat) (l : Leaf) (ptr : DWord) (n : Nat) : List Byte :=
  let found := (s.find none (some core) seesAll (l.pa ptr) n).1
  match s.fetchedAhead? launch (ptr.toNat / 32) with
  | some e => if Config.fetchedAhead s.choice e.sector then (e.bytes.drop (ptr.toNat % 32)).take n else found
  | none => found

/-- With a step a core may fetch a sector of a live launch's code ahead; what was fetched for a launch goes with it. -/
def State.prefetch (s : State) : State :=
  let live := s.fetches.filter fun e => s.launches.any fun l => l.id == e.launch
  match Config.prefetch s.choice with
  | none => { s with fetches := live }
  | some (k, core, sector) =>
    match s.launches[k]? with
    | none => { s with fetches := live }
    | some l =>
      let ptr := BitVec.ofNat 64 (32 * sector)
      match s.translate (some (core % 384)) l.asid ptr with
      | .leaf p =>
        let e : Prefetch := { launch := l.id, sector := ptr.toNat / 32, bytes := (s.find none (some (core % 384)) seesAll (p.pa ptr) 32).1 }
        { s with fetches := upsert (fun x => x.launch == e.launch && x.sector == e.sector) e live }
      | _ => { s with fetches := live }

/-! Scalar fetch. -/

/-- The scalar word at a PC and the leaf of its page, or why it cannot be fetched (R70). -/
def State.fetchScalar (s : State) (core launch asid : Nat) (pc : DWord) : Except FetchFault (Word × Leaf) :=
  match s.translate (some core) asid pc with
  | .notPresent => .error .notPresent
  | .malformed => .error .malformed
  | .leaf l =>
    if l.xn then .error .xn
    else .ok (BitVec.ofNat 32 (leNat (s.codeBytes core launch l pc 4)), l)

/-- The cause of a failed fetch (R70, R339, R347). -/
def fetchCause : FetchFault → AccessFault
  | .xn => (.xnFetch, 0)
  | .notPresent => (.translation, 1)
  | .malformed => (.translation, 2)
  | .checkWord => (.uncorrectableReg, 2)

/-- SCALAR_FETCH (R70, R73): the fetch of the issuing split's word fails; the fault is taken at that instruction. -/
def execScalarFetch (why : FetchFault) (s : State) : Out State :=
  match s.issuer? with
  | none => .fault .noIssuer
  | some c => if s.stopped c then .next s else .next (s.scalarFault c (fetchCause why) c.pc)

/-- ILLEGAL_ENCODING (R77, R80): a word that no entry accepts, at the issuing split's PC. -/
def execIllegalEncoding (w : Word) (s : State) : Out State :=
  match s.issuer? with
  | none => .fault .noIssuer
  | some c =>
    if s.stopped c || (decodeScalar w).isOk then .next s else .next (s.scalarFault c (.illegalEncoding, 0) 0)

/-! Clause fetch and decode. -/

/-- Bytes of a clause as its core fetches them, sector by sector; the first failure with its address (R69, R70). -/
def State.fetchBytes (s : State) (core launch asid : Nat) (ptr : DWord) (n : Nat) : Except (FetchFault × DWord) (List Byte × State) :=
  (sectorPieces ptr.toNat n n).foldl (fun acc p =>
    match acc with
    | .error e => .error e
    | .ok (bs, s) =>
      let a := ptr + BitVec.ofNat 64 p.1
      match s.translate (some core) asid a with
      | .notPresent => .error (.notPresent, a)
      | .malformed => .error (.malformed, a)
      | .leaf l =>
        if l.xn then .error (.xn, a)
        else .ok (bs ++ s.codeBytes core launch l a p.2, s.usedLeaf (some core) asid a l)) (.ok ([], s))

/-- Why a decoded clause word is refused (R72), in the order of the checks: its encoding, the flag it selects, the registers
that its group has. -/
def clauseWordFault (hdr : Header) (nv : Nat) (pass : Bool) (w : BitVec 96) : Except Cause Instr :=
  match decodeLane w with
  | .error .headerMark => .error .illegalClause
  | .error _ => .error .illegalEncoding
  | .ok i =>
    let head := i.head?
    let fs := match head with | some h => h.fs | none => false
    let guard := match head with | some h => h.guard.toNat | none => 0
    let regs := i.laneFields.filterMap fun k => k.1.vregs k.2
    let general := i.laneFields.filter fun k => match k.1 with | .src _ | .srcNoQ _ | .dst _ | .vec _ => true | _ => false
    let preds := i.laneFields.filter fun k => k.1 == .pred
    if !i.laneWf then .error .illegalEncoding
    else if i.isLong && !flagEnabled hdr fs then .error .illegalClause
    else if !pass then
      if regs.any fun r => nv < r.1 + r.2 then .error .illegalEncoding else .ok i
    else if (general.any fun k => 48 ≤ k.2.toNat && k.2.toNat < 112) || (regs.any fun r => nv < r.1 + r.2 || 48 < r.1 + r.2) ||
        (preds.any fun k => 4 ≤ k.2.toNat) || 4 ≤ guard || (i.laneFields.any fun k => k.1 == .queue) then .error .intervalMode
    else .ok i

/-- The body of a clause decoded in address order: the instructions, or the first failure with its word's number (R72). -/
def decodeBody (hdr : Header) (nv : Nat) (pass : Bool) (bytes : List Byte) : Except (Cause × Nat) (List Instr) :=
  (List.range hdr.n.toNat).foldl (fun acc k =>
    match acc with
    | .error e => .error e
    | .ok is =>
      match clauseWordFault hdr nv pass (BitVec.ofNat 96 (leNat ((bytes.drop (12 * k)).take 12))) with
      | .error c => .error (c, k + 1)
      | .ok i => .ok (is ++ [i])) (.ok [])

/-- A decoded clause, or the cause and the address of what failed, and whether it is a fetch that failed. -/
def State.readClause (s : State) (t : Team) (g : Group) (l : Launch) (q : Clause) :
    Except (AccessFault × DWord) (Header × List Instr × State) :=
  match s.fetchBytes t.core l.id l.asid q.addr 12 with
  | .error (f, a) => .error (fetchCause f, a)
  | .ok (bs, s) =>
    match decodeHeader (BitVec.ofNat 96 (leNat bs)) with
    | none => .error ((.illegalClause, 0), q.addr)
    | some h =>
      match s.fetchBytes t.core l.id l.asid (q.addr + 12) (12 * h.n.toNat) with
      | .error (f, a) => .error (fetchCause f, a)
      | .ok (bs, s) =>
        match decodeBody h l.record.vregs g.inPass bs with
        | .error (c, k) => .error ((c, 0), q.addr + BitVec.ofNat 64 (12 * k))
        | .ok is => .ok (h, is, s)

/-- The bytes that a clause takes, by its header as it is fetched; the header alone when that fails. -/
def State.clauseSize (s : State) (t : Team) (l : Launch) (q : Clause) : Nat :=
  match s.fetchBytes t.core l.id l.asid q.addr 12 with
  | .ok (bs, _) => (match decodeHeader (BitVec.ofNat 96 (leNat bs)) with | some h => 12 + 12 * h.n.toNat | none => 12)
  | .error _ => 12

/-- The clause at the head of a split number's queue, with what it belongs to. -/
def State.headClause (s : State) (r : SplitRef) : Option (Team × Group × Launch × Clause) :=
  match s.team? r.team with
  | none => none
  | some t =>
    match t.group? r.group, s.launchOf t with
    | some g, some l =>
      match (vget g.clauses r.split.val []).head? with
      | some q => if t.state == .resident && !g.ended then some (t, g, l, q) else none
      | none => none
    | _, _ => none

/-- A clause that cannot be fetched or decoded (R72, R73): TRANSLATION holds it in its queue; any other cause discards it and the
clauses behind it. The record of a pass group names the lowest lane of the clause's mask (R209). -/
def State.clauseFault (s : State) (r : SplitRef) (t : Team) (g : Group) (q : Clause) (f : AccessFault) (a : DWord) : State :=
  let lpc := a - BitVec.ofNat 64 ((a - q.addr).toNat % 12)
  let trap := { s.siteTrap t g r.split.val q.runPc 2 f a with lpc := lpc, lane := if g.inPass then q.mask.lowest.map (·.val) else none }
  let s := if f.1.isHeld then s
    else s.modGroup t.id g.gid fun g => { g with clauses := vset g.clauses r.split.val [] }
  s.takeFault trap t.id g.gid (.clause r q.cid)

/-- CLAUSE_FETCH (R69 to R73): the clause at the head of a queue is fetched and decoded, none of it from a drained well (R356). -/
def execClauseFetch (r : SplitRef) (s : State) : Out State :=
  match s.headClause r with
  | none => .next s
  | some (t, g, l, q) =>
    if q.fetched.isSome || g.spent || s.teamStopped t l.asid (.event (.clauseFetch r)) || s.clauseHeld r q.cid ||
        !s.reachable (some t.core) l.asid q.addr (s.clauseSize t l q) then .next s
    else
      match s.readClause t g l q with
      | .error (f, a) => .next (s.clauseFault r t g q f a)
      | .ok (h, is, s) =>
        -- a clause that was saved after its last instruction has nothing left to issue
        .next (s.modGroup t.id g.gid fun g => { g with clauses := vmod g.clauses r.split.val fun qs =>
          match qs with | [] => [] | x :: xs => if h.n.toNat ≤ x.next then xs else { x with fetched := some (h, is) } :: xs })

/-- CLAUSE_ISSUE (R23, R27, R31): a fetched clause begins once the flags of its wait mask are idle and the clauses that come
before it have issued. -/
def execClauseIssue (r : SplitRef) (s : State) : Out State :=
  match s.headClause r with
  | none => .next s
  | some (t, g, l, q) =>
    match q.fetched with
    | none => .next s
    | some (h, _) =>
      if q.issuing || g.spent || s.teamStopped t l.asid (.event (.clauseIssue r)) || s.clauseHeld r q.cid || !g.idle h.wait || q.after.any s.clausePending then .next s
      else
        .next (s.modGroup t.id g.gid fun g => { g with clauses := vmod g.clauses r.split.val fun qs =>
          match qs with | [] => [] | x :: xs => { x with issuing := true } :: xs })

end Sys2Proof.Machine
end

