-- ==== Sys2Proof/Machine/Management.lean ====
section
/-! DEFINITION. Errors and units (R347 to R349, R356, R357), reset, firmware and bring-up (R380 to R383), power and temperature (R384). -/

namespace Sys2Proof.Machine

/-! Suspicion (R356, R357). -/

/-- A unit whose score reaches 64 is drained; a core's resident teams are taken off with L = 2^22. -/
def State.drainUnit (s : State) (u : HwUnit) : State :=
  let r := s.unitRec u
  if r.state != .service || r.score < 64 then s
  else
    let s := s.setUnit { r with state := .drained }
    match u with
    | .core n => (s.takeOff (s.teams.filter fun t => t.core == n && t.state == .resident) (2 ^ 22)).1
    | _ => s

/-- A score raised, and the unit drained when it is due. -/
def State.suspect (s : State) (u : HwUnit) (n : Nat) : State := if unitExists u then (s.charge u n).drainUnit u else s

/-- Every unit that a check word has been charged to is drained when it is due. -/
def State.drainDue (s : State) : State := (s.units.map (·.unit)).foldl (fun s u => s.drainUnit u) s

/-- A bit of an operation's sector is corrupted in transit; the unit is the one that held it (R251). -/
def MemOp.flip (o : MemOp) (u : HwUnit) (bit : Nat) : MemOp :=
  if o.check.isEmpty || 8 * o.carried.length ≤ bit then o
  else { o with flips := if o.flips.contains bit then o.flips.filter (· != bit) else o.flips ++ [bit], suspect := some u }

/-- The check-word fault of a split's next scalar word (R70). -/
def State.wordStruck (s : State) (r : SplitRef) : State :=
  match s.issuerOf r with
  | some c => if s.stopped c then s else s.scalarFault c (fetchCause .checkWord) c.pc
  | none => s

/-- The check-word fault of a clause that is to be fetched (R70, R73): it ends as a decode failure does. -/
def State.clauseStruck (s : State) (r : SplitRef) : State :=
  match s.headClause r with
  | some (t, g, _, q) => if q.fetched.isSome then s else s.clauseFault r t g q (fetchCause .checkWord) q.addr
  | none => s

/-- The fault of an error that could not be corrected (R67, R70, R186, R232, R347 to R349). -/
def State.strike (s : State) (t : SoftTarget) : State :=
  let raise (team gid : Nat) (cause : Cause) (reg : BitVec 7) : State :=
    match s.team? team with
    | none => s
    | some t =>
      match t.group? gid with
      | none => s
      | some g =>
        if g.ended || t.state != .resident then s
        else
          let k := (g.live.head?.map (·.1)).getD 0
          let pc := match g.split? k with | some p => p.set.pc | none => 0
          s.takeFault { s.siteTrap t g k.val pc 6 (cause, 1) 0 with reg := reg } team gid (.split { team := team, group := gid, split := k } 0)
  match t with
  | .none => s
  | .reg team gid code => raise team gid .uncorrectableReg code
  | .scratch team gid => raise team gid .uncorrectableScratch 0
  | .loop id addr =>
    match s.loops.find? fun l => l.id == id with
    | some l => (match s.runningLoop l with | some (t, g) => s.loopFault l t g (.uncorrectableScratch, 1) addr | none => s)
    | none => s
  | .sector op =>
    match s.op? op with
    | some o =>
      if o.check.isEmpty then s
      else if o.isWrite && !o.isRead then ({ s with ops := s.ops.filter fun x => x.id != o.id } : State).sectorFault o
      else (s.setOp { o with flips := [], dest := .none }).sectorFault o
    | none => s
  | .word r => s.wordStruck r
  | .clause r => s.clauseStruck r

/-- SOFT_ERROR: the score of the unit, and what the error struck: a corrupted bit is found where the check word is compared; a fetched
sector that has failed twice counts twice. -/
def execSoftError (err : SoftErr) (s : State) : Out State :=
  match err with
  | .corrected u => .next (s.suspect u 1)
  | .flip u op bit => .next (match s.op? op with | some o => s.setOp (o.flip u bit) | none => s)
  | .badWord u r => .next ((s.suspect u 32).wordStruck r)
  | .badClause u r => .next ((s.suspect u 32).clauseStruck r)
  | .uncorrectable u t => .next ((s.suspect u 64).strike t)

/-- SUSPICION_DECAY: after 2^28 cycles of the unit. -/
def execSuspicionDecay (u : HwUnit) (s : State) : Out State :=
  if !unitExists u then .next s
  else
    let r := s.unitRec u
    if r.score = 0 then .next s else .next ((s.setUnit { r with score := r.score - 1 }).drainUnit u)

/-- WELL_DRAIN_TIMEOUT: the requests that a drained well holds have waited 2^20 cycles. -/
def execWellDrainTimeout (u : HwUnit) (s : State) : Out State :=
  match u with
  | .well _ =>
    let r := s.unitRec u
    if r.state != .drained then .next s else .next (s.setUnit { r with state := .overdue })
  | _ => .next s

/-- Codes of `State.reports`: a unit's test, the firmware's error, the thermal halt. -/
def reportTest (pass : Bool) : Nat := if pass then 0x100 else 0x101
def reportFirmware (code : Nat) : Nat := 0x200 + code
def reportHeat : Nat := 0x300

/-- UNIT_TEST: a drained unit returns to service or is removed; the teams queued at a removed core are dealt anew; a failing well ends every
launch, and none is accepted until reset. -/
def execUnitTest (u : HwUnit) (pass : Bool) (s : State) : Out State :=
  let r := s.unitRec u
  if r.state != .drained && r.state != .overdue then .next s
  else
    let s : State := { s with reports := s.reports ++ [reportTest pass] }
    if pass then .next ((s.setUnit { r with score := 0, state := .service }).deal dealFuel)
    else
      let s := s.setUnit { r with state := .removed }
      match u with
      | .well _ => .next ((s.launches.map (·.id)).foldl (fun s id => s.cancelLaunch id none) { s with accepting := false })
      | .core n => .next (((s.core n).queue.foldl (fun s id => s.flushTeam id) s).deal dealFuel)
      | .pump _ => .next s

/-! Reset and bring-up (R376, R380 to R383). -/

/-- BOOT: a stage and an error. -/
def bootWord (stage error : Nat) : Word := BitVec.ofNat 32 (stage + 256 * error)

/-- Memory without what lies below an address, or at the tags. -/
def Memory.hostOnly (m : Memory) : Memory := m.filter fun c => 2 ^ 47 ≤ c.1 && c.1 < 2 ^ 48

/-- RESET: every register at its reset value, nothing resident, the boot ROM running; memories keep their bytes, and what the device
has sent, and the fused minimum, stand. -/
def execReset (s : State) : Out State :=
  .next { State.reset with
    agenda := s.agenda, fresh := s.fresh, choice := s.choice, mem := s.mem, views := Vector.replicate 5 s.mem, sent := s.sent, msix := s.msix
    hostReads := s.hostReads, reports := s.reports, rollback := s.rollback, boot := bootWord 1 0 }

/-- The header of a firmware image (R381). -/
structure Firmware where
  header    : List Byte
  magic     : Bool
  rollback  : Nat
  length    : Nat
  zero      : Bool
  digest    : List Byte
  modulus   : List Byte
  exponent  : List Byte
  signature : List Byte
  body      : List Byte
  deriving DecidableEq, Repr

def firmwareOf (image : List Byte) : Firmware :=
  let at_ (o n : Nat) : List Byte := (image.drop o).take n
  { header := image.take 1024, magic := at_ 0 8 == [0x5A, 0x4B, 0x54, 0x52, 0x49, 0x4D, 0x47, 0x31], rollback := leNat (at_ 12 4)
    length := leNat (at_ 16 8), zero := leNat (at_ 24 8) == 0 && leNat (at_ 612 412) == 0, digest := at_ 32 64, modulus := at_ 96 512
    exponent := at_ 608 4, signature := at_ 1024 512, body := image.drop 1536 }

/-- The fused minimum rollback index, as firmware may have raised it (R382). -/
def State.minRollback (s : State) : Nat := Nat.max Config.fusedRollback s.rollback

/-- The error of an image that is refused (R382, R383): 1 unreadable, 2 signature or key, 3 rollback. -/
def State.firmwareError (s : State) (image : List Byte) : Option Nat :=
  let f := firmwareOf image
  if image.length < 1536 || !f.magic || !f.zero || f.length != f.body.length then some 1
  else if leNat f.exponent != 65537 || sha512 (f.modulus ++ f.exponent) != Config.rootKey || !pssVerify f.modulus f.signature f.header ||
      sha512 f.body != f.digest then some 2
  else if f.rollback < s.minRollback then some 3
  else none

/-- Verified firmware may raise the fused minimum to its own index (R382). -/
def State.raiseRollback (s : State) (image : List Byte) : State :=
  { s with choice := s.choice + 1
           rollback := if Config.raisesRollback s.choice then Nat.max s.rollback (firmwareOf image).rollback else s.rollback }

/-- FIRMWARE_VERIFY: the ROM, which runs while BOOT has not gone past stage 1, brings up the fabric links, reads the image from the storage
endpoint at BOOTNODE, and accepts it and runs it, or stays with the error in BOOT and on the management port. An image that firmware
fetches later is checked by the same rule, and a refused one is reported (R380 to R383). -/
def execFirmwareVerify (image : List Byte) (s : State) : Out State :=
  if 2 ≤ bits s.boot.toNat 7 0 then
    match s.firmwareError image with
    | some e => .next { s with reports := s.reports ++ [reportFirmware e] }
    | none => .next (s.raiseRollback image)
  else
    let s : State := { s with links := 0xFFFFFFFF, sent := s.sent ++ [.image Config.bootNode.toNat] }
    match s.firmwareError image with
    | some e => .next { s with boot := bootWord 1 e, reports := s.reports ++ [reportFirmware e] }
    | none => .next { s.raiseRollback image with boot := bootWord 2 0 }

/-- A node that a routing table names with its set of up to four of the 32 links, when it is not the device itself (R366, R367). -/
def peerOf (node : Nat) (p : Nat × List Nat) : Option Peer :=
  let links := ((p.2.filter (· < 32)).eraseDups).take 4
  if p.1 = node || 2 ^ 18 ≤ p.1 || links.isEmpty then none else some { node := p.1, links := links, state := .up }

/-- BRING_UP: the next stage of the firmware's work (R383): memory trained and zeroed with its tags; the fabric's configuration; the
self-test, with every score 0; the ASID pages open. -/
def execBringUp (cfg : BringUpInput) (s : State) : Out State :=
  let stop (stage e : Nat) : State := { s with boot := bootWord stage e, reports := s.reports ++ [reportFirmware e] }
  if s.boot = bootWord 2 0 then
    if !cfg.memoryOk then .next (stop 3 4)
    else .next { s with mem := Memory.hostOnly s.mem, views := s.views.map Memory.hostOnly, ops := [], boot := bootWord 3 0 }
  else if s.boot = bootWord 3 0 then
    let node := cfg.node % 2 ^ 18
    .next { s with node := BitVec.ofNat 32 node, peers := cfg.peers.filterMap (peerOf node), recovery := cfg.recovery, boot := bootWord 4 0 }
  else if s.boot = bootWord 4 0 then
    if !cfg.testOk then .next (stop 5 5) else .next { s with units := [], boot := bootWord 5 0 }
  else if s.boot = bootWord 5 0 then .next { s with boot := bootWord 6 0, asids := [], accepting := true }
  else .next s

/-! Power and temperature (R384). -/

/-- POWER_CAP: from 900 W to 1,750 W in steps of 25 W. -/
def execPowerCap (watts : Nat) (s : State) : Out State :=
  if 900 ≤ watts && watts ≤ 1750 && watts % 25 = 0 then .next { s with cap := watts } else .next s

/-- THERMAL_THROTTLE: the core clock one step of 50 MHz down, or up again. -/
def execThermalThrottle (up : Bool) (s : State) : Out State :=
  if up then .next { s with slower := s.slower - 1 }
  else if s.slower < 24 then .next { s with slower := s.slower + 1 } else .next s

/-- THERMAL_HALT: every context is halted; BOOT's error holds what the spec does not state. -/
def execThermalHalt (s : State) : Out State :=
  let asids := unite (s.asids.map (·.id)) (s.launches.map (·.asid)).eraseDups
  let s := asids.foldl (fun s a => s.halt a) s
  .next { s with reports := s.reports ++ [reportHeat], choice := s.choice + 1
                 boot := (s.boot &&& 0xFF) ||| (Config.freeWord s.choice &&& 0xFF00) }

end Sys2Proof.Machine
end

