-- ==== Sys2Proof/Machine/Scalar.lean ====
section
/-! DEFINITION. Scalar register and immediate arithmetic (R96 to R98). A is the content of sa, B that of sb, I the extended
immediate; every form is performed in a pass group as in element mode (R94). -/

namespace Sys2Proof.Machine

/-- A shift count: bits [4:0] (R97). -/
def shiftCount (b : Word) : Nat := b.toNat % 32

/-- A condition as 1 or 0. -/
def boolWord (b : Bool) : Word := if b then 1 else 0

/-- A form of two source registers (R91, R97). -/
def alu2 (i : Instr) (sd sa sb : SReg) (f : Word → Word → Word) (s : State) : Out State :=
  scalarIssue i [sa, sb] [sd] s fun c s => .next (s.writeRetire c sd (f (c.read sa) (c.read sb)))

/-- A form of one source register (R91, R97, R98). -/
def alu1 (i : Instr) (sd sa : SReg) (f : Word → Word) (s : State) : Out State :=
  scalarIssue i [sa] [sd] s fun c s => .next (s.writeRetire c sd (f (c.read sa)))

/-- ADD (R97): sd receives A + B. -/
def execAdd (sd sa sb : SReg) (s : State) : Out State := alu2 (.add sd sa sb) sd sa sb (fun a b => a + b) s

/-- SUB (R97): sd receives A − B. -/
def execSub (sd sa sb : SReg) (s : State) : Out State := alu2 (.sub sd sa sb) sd sa sb (fun a b => a - b) s

/-- MUL (R97): sd receives the low 32 bits of A × B. -/
def execMul (sd sa sb : SReg) (s : State) : Out State := alu2 (.mul sd sa sb) sd sa sb (fun a b => a * b) s

/-- MULHI (R97): sd receives bits [63:32] of the signed product. -/
def execMulhi (sd sa sb : SReg) (s : State) : Out State := alu2 (.mulhi sd sa sb) sd sa sb (fun a b => (a.signExtend 64 * b.signExtend 64).extractLsb' 32 32) s

/-- MULHU (R97): sd receives bits [63:32] of the unsigned product. -/
def execMulhu (sd sa sb : SReg) (s : State) : Out State := alu2 (.mulhu sd sa sb) sd sa sb (fun a b => (a.zeroExtend 64 * b.zeroExtend 64).extractLsb' 32 32) s

/-- AND (R97): sd receives A AND B. -/
def execAnd (sd sa sb : SReg) (s : State) : Out State := alu2 (.and sd sa sb) sd sa sb (fun a b => a &&& b) s

/-- OR (R97): sd receives A OR B. -/
def execOr (sd sa sb : SReg) (s : State) : Out State := alu2 (.or sd sa sb) sd sa sb (fun a b => a ||| b) s

/-- XOR (R97): sd receives A XOR B. -/
def execXor (sd sa sb : SReg) (s : State) : Out State := alu2 (.xor sd sa sb) sd sa sb (fun a b => a ^^^ b) s

/-- SHL (R97): sd receives A << B[4:0]. -/
def execShl (sd sa sb : SReg) (s : State) : Out State := alu2 (.shl sd sa sb) sd sa sb (fun a b => a <<< shiftCount b) s

/-- SHR (R97): sd receives A >> B[4:0], filling with zeros. -/
def execShr (sd sa sb : SReg) (s : State) : Out State := alu2 (.shr sd sa sb) sd sa sb (fun a b => a >>> shiftCount b) s

/-- SRA (R97): sd receives A >> B[4:0], filling with A[31]. -/
def execSra (sd sa sb : SReg) (s : State) : Out State := alu2 (.sra sd sa sb) sd sa sb (fun a b => a.sshiftRight (shiftCount b)) s

/-- MIN (R97): sd receives the smaller as signed values. -/
def execMin (sd sa sb : SReg) (s : State) : Out State := alu2 (.min sd sa sb) sd sa sb (fun a b => if a.slt b then a else b) s

/-- MAX (R97): sd receives the larger as signed values. -/
def execMax (sd sa sb : SReg) (s : State) : Out State := alu2 (.max sd sa sb) sd sa sb (fun a b => if a.slt b then b else a) s

/-- MINU (R97): sd receives the smaller as unsigned values. -/
def execMinu (sd sa sb : SReg) (s : State) : Out State := alu2 (.minu sd sa sb) sd sa sb (fun a b => if a.ult b then a else b) s

/-- MAXU (R97): sd receives the larger as unsigned values. -/
def execMaxu (sd sa sb : SReg) (s : State) : Out State := alu2 (.maxu sd sa sb) sd sa sb (fun a b => if a.ult b then b else a) s

/-- SLT (R97): sd receives 1 if A < B as signed values, else 0. -/
def execSlt (sd sa sb : SReg) (s : State) : Out State := alu2 (.slt sd sa sb) sd sa sb (fun a b => boolWord (a.slt b)) s

/-- SLTU (R97): sd receives 1 if A < B as unsigned values, else 0. -/
def execSltu (sd sa sb : SReg) (s : State) : Out State := alu2 (.sltu sd sa sb) sd sa sb (fun a b => boolWord (a.ult b)) s

/-- SEQ (R97): sd receives 1 if A = B, else 0. -/
def execSeq (sd sa sb : SReg) (s : State) : Out State := alu2 (.seq sd sa sb) sd sa sb (fun a b => boolWord (a == b)) s

/-- DIVU (R97): sd receives the unsigned quotient, all ones when B = 0. -/
def execDivu (sd sa sb : SReg) (s : State) : Out State := alu2 (.divu sd sa sb) sd sa sb (fun a b => if b = 0 then BitVec.allOnes 32 else a / b) s

/-- REMU (R97): sd receives the unsigned remainder, A when B = 0. -/
def execRemu (sd sa sb : SReg) (s : State) : Out State := alu2 (.remu sd sa sb) sd sa sb (fun a b => if b = 0 then a else a % b) s

/-- POPC (R97): sd receives the number of ones in A. -/
def execPopc (sd sa : SReg) (s : State) : Out State := alu1 (.popc sd sa) sd sa (fun a => BitVec.ofNat 32 (popcount 32 a.toNat)) s

/-- CLZ (R97): sd receives the leading zeros of A. -/
def execClz (sd sa : SReg) (s : State) : Out State := alu1 (.clz sd sa) sd sa (fun a => BitVec.ofNat 32 (clz 32 a.toNat)) s

/-- CTZ (R97): sd receives the trailing zeros of A. -/
def execCtz (sd sa : SReg) (s : State) : Out State := alu1 (.ctz sd sa) sd sa (fun a => BitVec.ofNat 32 (ctz 32 a.toNat)) s

/-- BREV (R97): sd receives A with bit j moved to bit 31 − j. -/
def execBrev (sd sa : SReg) (s : State) : Out State := alu1 (.brev sd sa) sd sa (fun a => BitVec.ofNat 32 (brev 32 a.toNat)) s

/-- ADDI (R98): sd receives A + I. -/
def execAddi (sd sa : SReg) (imm : BitVec 16) (s : State) : Out State := alu1 (.addi sd sa imm) sd sa (fun a => a + sext16 imm) s

/-- ANDI (R98): sd receives A AND I, zero-extended. -/
def execAndi (sd sa : SReg) (imm : BitVec 16) (s : State) : Out State := alu1 (.andi sd sa imm) sd sa (fun a => a &&& zext16 imm) s

/-- ORI (R98): sd receives A OR I, zero-extended. -/
def execOri (sd sa : SReg) (imm : BitVec 16) (s : State) : Out State := alu1 (.ori sd sa imm) sd sa (fun a => a ||| zext16 imm) s

/-- XORI (R98): sd receives A XOR I, zero-extended. -/
def execXori (sd sa : SReg) (imm : BitVec 16) (s : State) : Out State := alu1 (.xori sd sa imm) sd sa (fun a => a ^^^ zext16 imm) s

/-- SLTI (R98): sd receives 1 if A < I as signed values, else 0. -/
def execSlti (sd sa : SReg) (imm : BitVec 16) (s : State) : Out State := alu1 (.slti sd sa imm) sd sa (fun a => boolWord (a.slt (sext16 imm))) s

/-- MULI (R98): sd receives the low 32 bits of A × I. -/
def execMuli (sd sa : SReg) (imm : BitVec 16) (s : State) : Out State := alu1 (.muli sd sa imm) sd sa (fun a => a * sext16 imm) s

/-- SHLI (R98): sd receives A << imm. -/
def execShli (sd sa : SReg) (sh : BitVec 5) (s : State) : Out State := alu1 (.shli sd sa sh) sd sa (fun a => a <<< sh.toNat) s

/-- SHRI (R98): sd receives A >> imm, filling with zeros. -/
def execShri (sd sa : SReg) (sh : BitVec 5) (s : State) : Out State := alu1 (.shri sd sa sh) sd sa (fun a => a >>> sh.toNat) s

/-- SRAI (R98): sd receives A >> imm, filling with A[31]. -/
def execSrai (sd sa : SReg) (sh : BitVec 5) (s : State) : Out State := alu1 (.srai sd sa sh) sd sa (fun a => a.sshiftRight sh.toNat) s

/-- LUI (R98): sd receives imm16 << 16. -/
def execLui (sd : SReg) (imm : BitVec 16) (s : State) : Out State :=
  scalarIssue (.lui sd imm) [] [sd] s fun c s => .next (s.writeRetire c sd (imm ++ (0 : BitVec 16)))

end Sys2Proof.Machine
end

