-- ==== Sys2Proof/Machine/Dispatch.lean ====
section
/-! DEFINITION. One arm per constructor of Instr: a direct call of its meaning. -/

namespace Sys2Proof.Machine

/-- The effect of an instruction or event at a state. -/
def exec (i : Instr) (s : State) : Host.Outcome State Fault Refusal :=
  match i with
  | .add sd sa sb => Sys2Proof.Machine.execAdd sd sa sb s
  | .sub sd sa sb => Sys2Proof.Machine.execSub sd sa sb s
  | .mul sd sa sb => Sys2Proof.Machine.execMul sd sa sb s
  | .mulhi sd sa sb => Sys2Proof.Machine.execMulhi sd sa sb s
  | .mulhu sd sa sb => Sys2Proof.Machine.execMulhu sd sa sb s
  | .and sd sa sb => Sys2Proof.Machine.execAnd sd sa sb s
  | .or sd sa sb => Sys2Proof.Machine.execOr sd sa sb s
  | .xor sd sa sb => Sys2Proof.Machine.execXor sd sa sb s
  | .shl sd sa sb => Sys2Proof.Machine.execShl sd sa sb s
  | .shr sd sa sb => Sys2Proof.Machine.execShr sd sa sb s
  | .sra sd sa sb => Sys2Proof.Machine.execSra sd sa sb s
  | .min sd sa sb => Sys2Proof.Machine.execMin sd sa sb s
  | .max sd sa sb => Sys2Proof.Machine.execMax sd sa sb s
  | .minu sd sa sb => Sys2Proof.Machine.execMinu sd sa sb s
  | .maxu sd sa sb => Sys2Proof.Machine.execMaxu sd sa sb s
  | .slt sd sa sb => Sys2Proof.Machine.execSlt sd sa sb s
  | .sltu sd sa sb => Sys2Proof.Machine.execSltu sd sa sb s
  | .seq sd sa sb => Sys2Proof.Machine.execSeq sd sa sb s
  | .divu sd sa sb => Sys2Proof.Machine.execDivu sd sa sb s
  | .remu sd sa sb => Sys2Proof.Machine.execRemu sd sa sb s
  | .popc sd sa => Sys2Proof.Machine.execPopc sd sa s
  | .clz sd sa => Sys2Proof.Machine.execClz sd sa s
  | .ctz sd sa => Sys2Proof.Machine.execCtz sd sa s
  | .brev sd sa => Sys2Proof.Machine.execBrev sd sa s
  | .addi sd sa imm => Sys2Proof.Machine.execAddi sd sa imm s
  | .andi sd sa imm => Sys2Proof.Machine.execAndi sd sa imm s
  | .ori sd sa imm => Sys2Proof.Machine.execOri sd sa imm s
  | .xori sd sa imm => Sys2Proof.Machine.execXori sd sa imm s
  | .shli sd sa sh => Sys2Proof.Machine.execShli sd sa sh s
  | .shri sd sa sh => Sys2Proof.Machine.execShri sd sa sh s
  | .srai sd sa sh => Sys2Proof.Machine.execSrai sd sa sh s
  | .slti sd sa imm => Sys2Proof.Machine.execSlti sd sa imm s
  | .lui sd imm => Sys2Proof.Machine.execLui sd imm s
  | .muli sd sa imm => Sys2Proof.Machine.execMuli sd sa imm s
  | .sld sd sa imm => Sys2Proof.Machine.execSld sd sa imm s
  | .sld2 sd sa imm => Sys2Proof.Machine.execSld2 sd sa imm s
  | .sst sd sa imm => Sys2Proof.Machine.execSst sd sa imm s
  | .sst2 sd sa imm => Sys2Proof.Machine.execSst2 sd sa imm s
  | .satom sd sa sb f => Sys2Proof.Machine.execSatom sd sa sb f s
  | .b off => Sys2Proof.Machine.execB off s
  | .bz c off => Sys2Proof.Machine.execBz c off s
  | .bnz c off => Sys2Proof.Machine.execBnz c off s
  | .bany p neg off => Sys2Proof.Machine.execBany p neg off s
  | .ball p neg off => Sys2Proof.Machine.execBall p neg off s
  | .bnone p neg off => Sys2Proof.Machine.execBnone p neg off s
  | .split p neg off => Sys2Proof.Machine.execSplit p neg off s
  | .call off => Sys2Proof.Machine.execCall off s
  | .ret => Sys2Proof.Machine.execRet s
  | .bx sa => Sys2Proof.Machine.execBx sa s
  | .run p neg index => Sys2Proof.Machine.execRun p neg index s
  | .runx sa p neg => Sys2Proof.Machine.execRunx sa p neg s
  | .waitk mask => Sys2Proof.Machine.execWaitk mask s
  | .mtc sa r => Sys2Proof.Machine.execMtc sa r s
  | .mtcExec sa => Sys2Proof.Machine.execMtcExec sa s
  | .mtcTcfg sa n => Sys2Proof.Machine.execMtcTcfg sa n s
  | .mtcBd sa n => Sys2Proof.Machine.execMtcBd sa n s
  | .mtcQdep sa n => Sys2Proof.Machine.execMtcQdep sa n s
  | .mtcG sa n => Sys2Proof.Machine.execMtcG sa n s
  | .mtcFabw sa => Sys2Proof.Machine.execMtcFabw sa s
  | .mfc sd r => Sys2Proof.Machine.execMfc sd r s
  | .cpy sd sa sb bar q => Sys2Proof.Machine.execCpy sd sa sb bar q s
  | .cpys sd sa sb bar q => Sys2Proof.Machine.execCpys sd sa sb bar q s
  | .mloop sd sa z tc ta => Sys2Proof.Machine.execMloop sd sa z tc ta s
  | .mloopSbp sd sa z tc ta => Sys2Proof.Machine.execMloopSbp sd sa z tc ta s
  | .mloopDirect sd sa sb z tc ta => Sys2Proof.Machine.execMloopDirect sd sa sb z tc ta s
  | .siph sd sa q => Sys2Proof.Machine.execSiph sd sa q s
  | .lnch sd sa atEnd => Sys2Proof.Machine.execLnch sd sa atEnd s
  | .barMark sd sa => Sys2Proof.Machine.execBarMark sd sa s
  | .barHold sd sa sb => Sys2Proof.Machine.execBarHold sd sa sb s
  | .barJoin sd sa => Sys2Proof.Machine.execBarJoin sd sa s
  | .barOwe sd sa sb => Sys2Proof.Machine.execBarOwe sd sa sb s
  | .barMarkn sd sa sb => Sys2Proof.Machine.execBarMarkn sd sa sb s
  | .fence lanes kind scope => Sys2Proof.Machine.execFence lanes kind scope s
  | .qfence mask => Sys2Proof.Machine.execQfence mask s
  | .stepq sd sb nb => Sys2Proof.Machine.execStepq sd sb nb s
  | .stepp sd sb nb => Sys2Proof.Machine.execStepp sd sb nb s
  | .trap code => Sys2Proof.Machine.execTrap code s
  | .exit => Sys2Proof.Machine.execExit s
  | .yield => Sys2Proof.Machine.execYield s
  | .nop => Sys2Proof.Machine.execNop s
  | .iadd f => Sys2Proof.Machine.execIadd f s
  | .isub f => Sys2Proof.Machine.execIsub f s
  | .imul f => Sys2Proof.Machine.execImul f s
  | .imulhi f => Sys2Proof.Machine.execImulhi f s
  | .imad f => Sys2Proof.Machine.execImad f s
  | .imin f => Sys2Proof.Machine.execImin f s
  | .imax f => Sys2Proof.Machine.execImax f s
  | .iabs f => Sys2Proof.Machine.execIabs f s
  | .laneAnd f => Sys2Proof.Machine.execLaneAnd f s
  | .laneOr f => Sys2Proof.Machine.execLaneOr f s
  | .laneXor f => Sys2Proof.Machine.execLaneXor f s
  | .not f => Sys2Proof.Machine.execNot f s
  | .laneShl f => Sys2Proof.Machine.execLaneShl f s
  | .laneShr f => Sys2Proof.Machine.execLaneShr f s
  | .laneSra f => Sys2Proof.Machine.execLaneSra f s
  | .rot f => Sys2Proof.Machine.execRot f s
  | .lanePopc f => Sys2Proof.Machine.execLanePopc f s
  | .laneClz f => Sys2Proof.Machine.execLaneClz f s
  | .laneBrev f => Sys2Proof.Machine.execLaneBrev f s
  | .bfe f => Sys2Proof.Machine.execBfe f s
  | .bfi f => Sys2Proof.Machine.execBfi f s
  | .iaddc f => Sys2Proof.Machine.execIaddc f s
  | .isad f => Sys2Proof.Machine.execIsad f s
  | .lea f => Sys2Proof.Machine.execLea f s
  | .idiv f => Sys2Proof.Machine.execIdiv f s
  | .irem f => Sys2Proof.Machine.execIrem f s
  | .mov f => Sys2Proof.Machine.execMov f s
  | .iclamp f => Sys2Proof.Machine.execIclamp f s
  | .fadd f => Sys2Proof.Machine.execFadd f s
  | .fsub f => Sys2Proof.Machine.execFsub f s
  | .fmul f => Sys2Proof.Machine.execFmul f s
  | .ffma f => Sys2Proof.Machine.execFfma f s
  | .fmin f => Sys2Proof.Machine.execFmin f s
  | .fmax f => Sys2Proof.Machine.execFmax f s
  | .fminnum f => Sys2Proof.Machine.execFminnum f s
  | .frnd f => Sys2Proof.Machine.execFrnd f s
  | .fscale f => Sys2Proof.Machine.execFscale f s
  | .fclass f => Sys2Proof.Machine.execFclass f s
  | .fdot2 f => Sys2Proof.Machine.execFdot2 f s
  | .fdot4 f => Sys2Proof.Machine.execFdot4 f s
  | .fmid f => Sys2Proof.Machine.execFmid f s
  | .ffract f => Sys2Proof.Machine.execFfract f s
  | .fcopysign f => Sys2Proof.Machine.execFcopysign f s
  | .cvt f => Sys2Proof.Machine.execCvt f s
  | .cvtb f => Sys2Proof.Machine.execCvtb f s
  | .pack f => Sys2Proof.Machine.execPack f s
  | .unpk f => Sys2Proof.Machine.execUnpk f s
  | .icmp f => Sys2Proof.Machine.execIcmp f s
  | .fcmp f => Sys2Proof.Machine.execFcmp f s
  | .sel f => Sys2Proof.Machine.execSel f s
  | .pset f => Sys2Proof.Machine.execPset f s
  | .pmov f => Sys2Proof.Machine.execPmov f s
  | .vote f => Sys2Proof.Machine.execVote f s
  | .shfl f => Sys2Proof.Machine.execShfl f s
  | .shfli f => Sys2Proof.Machine.execShfli f s
  | .qmix f => Sys2Proof.Machine.execQmix f s
  | .xpose f => Sys2Proof.Machine.execXpose f s
  | .bcast f => Sys2Proof.Machine.execBcast f s
  | .compact f => Sys2Proof.Machine.execCompact f s
  | .mapget f => Sys2Proof.Machine.execMapget f s
  | .mapset f => Sys2Proof.Machine.execMapset f s
  | .mat f => Sys2Proof.Machine.execMat f s
  | .permld f => Sys2Proof.Machine.execPermld f s
  | .scan f => Sys2Proof.Machine.execScan f s
  | .dacc f => Sys2Proof.Machine.execDacc f s
  | .wrnd f => Sys2Proof.Machine.execWrnd f s
  | .wclr f => Sys2Proof.Machine.execWclr f s
  | .wadd f => Sys2Proof.Machine.execWadd f s
  | .wmov f => Sys2Proof.Machine.execWmov f s
  | .ld f => Sys2Proof.Machine.execLd f s
  | .st f => Sys2Proof.Machine.execSt f s
  | .ldb f => Sys2Proof.Machine.execLdb f s
  | .stb f => Sys2Proof.Machine.execStb f s
  | .lds f => Sys2Proof.Machine.execLds f s
  | .sts f => Sys2Proof.Machine.execSts f s
  | .ldw f => Sys2Proof.Machine.execLdw f s
  | .stw f => Sys2Proof.Machine.execStw f s
  | .ldt f => Sys2Proof.Machine.execLdt f s
  | .atom f => Sys2Proof.Machine.execAtom f s
  | .atoms f => Sys2Proof.Machine.execAtoms f s
  | .atomw f => Sys2Proof.Machine.execAtomw f s
  | .conf f => Sys2Proof.Machine.execConf f s
  | .tagld f => Sys2Proof.Machine.execTagld f s
  | .tagst f => Sys2Proof.Machine.execTagst f s
  | .pref f => Sys2Proof.Machine.execPref f s
  | .qcnt f => Sys2Proof.Machine.execQcnt f s
  | .rcp f => Sys2Proof.Machine.execRcp f s
  | .rsq f => Sys2Proof.Machine.execRsq f s
  | .sqrt f => Sys2Proof.Machine.execSqrt f s
  | .exp2 f => Sys2Proof.Machine.execExp2 f s
  | .log2 f => Sys2Proof.Machine.execLog2 f s
  | .sin f => Sys2Proof.Machine.execSin f s
  | .cos f => Sys2Proof.Machine.execCos f s
  | .tanh f => Sys2Proof.Machine.execTanh f s
  | .erf f => Sys2Proof.Machine.execErf f s
  | .expr f => Sys2Proof.Machine.execExpr f s
  | .ivmk f => Sys2Proof.Machine.execIvmk f s
  | .ivlo f => Sys2Proof.Machine.execIvlo f s
  | .ivhi f => Sys2Proof.Machine.execIvhi f s
  | .ivtest f => Sys2Proof.Machine.execIvtest f s
  | .nopl f => Sys2Proof.Machine.execNopl f s
  | .ltrap f => Sys2Proof.Machine.execLtrap f s
  | .lclk f => Sys2Proof.Machine.execLclk f s
  | .clauseFetch r => Sys2Proof.Machine.execClauseFetch r s
  | .clauseIssue r => Sys2Proof.Machine.execClauseIssue r s
  | .operationComplete op => Sys2Proof.Machine.execOperationComplete op s
  | .teamDispatch team => Sys2Proof.Machine.execTeamDispatch team s
  | .stealRequest thief victim => Sys2Proof.Machine.execStealRequest thief victim s
  | .stealAnswer thief => Sys2Proof.Machine.execStealAnswer thief s
  | .passGroupStart team => Sys2Proof.Machine.execPassGroupStart team s
  | .passInstructionLimit team group => Sys2Proof.Machine.execPassInstructionLimit team group s
  | .stageCounterRead launch stage => Sys2Proof.Machine.execStageCounterRead launch stage s
  | .stageCounterPoll launch stage => Sys2Proof.Machine.execStageCounterPoll launch stage s
  | .stageTeamSave team => Sys2Proof.Machine.execStageTeamSave team s
  | .kick asid value => Sys2Proof.Machine.execKick asid value s
  | .submissionSeqReread asid => Sys2Proof.Machine.execSubmissionSeqReread asid s
  | .hostRegisterWrite offset value => Sys2Proof.Machine.execHostRegisterWrite offset value s
  | .hostMemoryAccess acc => Sys2Proof.Machine.execHostMemoryAccess acc s
  | .invalidate asid => Sys2Proof.Machine.execInvalidate asid s
  | .invalidateCompletion asid => Sys2Proof.Machine.execInvalidateCompletion asid s
  | .preEmpt asid => Sys2Proof.Machine.execPreEmpt asid s
  | .cancel asid => Sys2Proof.Machine.execCancel asid s
  | .resumeContext asid => Sys2Proof.Machine.execResumeContext asid s
  | .faultResume asid => Sys2Proof.Machine.execFaultResume asid s
  | .faultAbandon asid => Sys2Proof.Machine.execFaultAbandon asid s
  | .contextSave team => Sys2Proof.Machine.execContextSave team s
  | .drainOverrun team => Sys2Proof.Machine.execDrainOverrun team s
  | .contextRestore team core => Sys2Proof.Machine.execContextRestore team core s
  | .trapRecordWrite asid => Sys2Proof.Machine.execTrapRecordWrite asid s
  | .watchdog team group => Sys2Proof.Machine.execWatchdog team group s
  | .remoteLost team group node => Sys2Proof.Machine.execRemoteLost team group node s
  | .linkFailure node => Sys2Proof.Machine.execLinkFailure node s
  | .linkRecovery node => Sys2Proof.Machine.execLinkRecovery node s
  | .fabricRecoveryLimit node => Sys2Proof.Machine.execFabricRecoveryLimit node s
  | .peerLossNotice node => Sys2Proof.Machine.execPeerLossNotice node s
  | .fabricRequest req => Sys2Proof.Machine.execFabricRequest req s
  | .pumpSector cmd remote => Sys2Proof.Machine.execPumpSector cmd remote s
  | .mloopStep loop => Sys2Proof.Machine.execMloopStep loop s
  | .barrierReturn r => Sys2Proof.Machine.execBarrierReturn r s
  | .siphonGateRead cmd => Sys2Proof.Machine.execSiphonGateRead cmd s
  | .siphonChunk msg => Sys2Proof.Machine.execSiphonChunk msg s
  | .siphonFaultNotice at_ buf node => Sys2Proof.Machine.execSiphonFaultNotice at_ buf node s
  | .siphonMemberDeadline cmd node => Sys2Proof.Machine.execSiphonMemberDeadline cmd node s
  | .loadSatisfy op => Sys2Proof.Machine.execLoadSatisfy op s
  | .writeMove op => Sys2Proof.Machine.execWriteMove op s
  | .writeHome op => Sys2Proof.Machine.execWriteHome op s
  | .recordApply die home => Sys2Proof.Machine.execRecordApply die home s
  | .epochCompare team => Sys2Proof.Machine.execEpochCompare team s
  | .softError err => Sys2Proof.Machine.execSoftError err s
  | .suspicionDecay u => Sys2Proof.Machine.execSuspicionDecay u s
  | .wellDrainTimeout u => Sys2Proof.Machine.execWellDrainTimeout u s
  | .unitTest u pass => Sys2Proof.Machine.execUnitTest u pass s
  | .reset => Sys2Proof.Machine.execReset s
  | .firmwareVerify image => Sys2Proof.Machine.execFirmwareVerify image s
  | .bringUp cfg => Sys2Proof.Machine.execBringUp cfg s
  | .powerCap watts => Sys2Proof.Machine.execPowerCap watts s
  | .thermalThrottle up => Sys2Proof.Machine.execThermalThrottle up s
  | .thermalHalt => Sys2Proof.Machine.execThermalHalt s
  | .illegalEncoding w => Sys2Proof.Machine.execIllegalEncoding w s
  | .scalarFetch why => Sys2Proof.Machine.execScalarFetch why s
  | .copyStart cmd => Sys2Proof.Machine.execCopyStart cmd s
  | .collectiveStart cmd => Sys2Proof.Machine.execCollectiveStart cmd s
  | .preEmptHoldEnd asid => Sys2Proof.Machine.execPreEmptHoldEnd asid s
  | .hostCompletion op => Sys2Proof.Machine.execHostCompletion op s
  | .fabwApply asid => Sys2Proof.Machine.execFabwApply asid s

end Sys2Proof.Machine
end

