-- ==== Sys2Proof/Machine/Schedule.lean ====
section
/-! DEFINITION. Performing one action of the schedule: what a split fetches and runs (R70, R91), the clause's next lane instruction
(R31), an event; the passing of cycles (R49, R354); and what happens next when nothing is asked for. -/

namespace Sys2Proof.Machine

/-! One action. -/

/-- The instruction at a split's PC is fetched, decoded and performed; a fetch that fails and a word that no entry accepts are the
faults of that instruction (R70, R80). -/
def State.runScalar (s : State) (r : SplitRef) : Out State :=
  match s.issuerOf r with
  | none => .fault .noIssuer
  | some c =>
    if s.stopped c then .next s
    else
      if !s.reachable (some c.core) c.asid c.pc 4 then .next s
      else match s.fetchScalar c.core c.launch.id c.asid c.pc with
      | .error why => exec (.scalarFetch why) { s with focus := some r }
      | .ok (w, l) =>
        let s := { s.usedLeaf (some c.core) c.asid c.pc l with focus := some r }
        match decodeScalar w with
        | .ok i => exec i s
        | .error _ => exec (.illegalEncoding w) s

/-- The lane instruction that a split number's clause issues next. -/
def State.nextLane (s : State) (r : SplitRef) : Option Instr :=
  match s.headClause r with
  | none => none
  | some (_, _, _, q) =>
    match q.fetched with
    | some (_, body) => if q.issuing then body[q.next]? else none
    | none => none

/-- The next lane instruction of a clause is performed. -/
def State.runLane (s : State) (r : SplitRef) : Out State :=
  match s.nextLane r with
  | none => .fault .noClause
  | some i => exec i { s with focus := some r }

/-- An action performed. -/
def State.perform (s : State) (a : Action) : Out State :=
  match a with
  | .scalar r => s.runScalar r
  | .lane r => s.runLane r
  | .event i => if i.view == .event then exec i { s with focus := none } else .fault .noIssuer

/-! Cycles. -/

/-- The cycles that pass with a step: the counts of the cores, of the groups whose watchdog does not pause, and of the holds of pre-empt
commands (R49, R354, R379). -/
def State.pass (s : State) : State :=
  let d := Config.elapsed s.choice
  { s with
    focus := none
    choice := s.choice + 1
    cores := s.cores.map fun c => { c with cycle := c.cycle + d }
    asids := s.asids.map fun a => { a with holds := a.holds.map fun h => { h with left := h.left - d } }
    teams := s.teams.map fun t => { t with groups := t.groups.map fun g => if s.watchPaused t g then g else { g with watch := g.watch + d } } }

/-- What the device does beside each step: cycles pass, code may be fetched ahead (R71), a unit whose score has come to 64 is drained
(R356), and teams that may be dealt are dealt (R322, R328, R333, R349). -/
def State.tick (s : State) : State := (s.pass.prefetch.drainDue).deal dealFuel

/-! What happens when the agenda is empty. -/

/-- Events of an operation. -/
def MemOp.events (o : MemOp) : List Instr :=
  [.loadSatisfy o.id, .writeMove o.id, .writeHome o.id, .operationComplete o.id] ++ if o.hostPend then [.hostCompletion o.id] else []

/-- What a split number may do. -/
def Group.actions (g : Group) (r : SplitRef) : List Action :=
  let q := vget g.clauses r.split.val []
  (if (g.split? r.split).isSome then [.scalar r, .event (.barrierReturn r)] else []) ++
  (match q with
   | [] => []
   | c :: _ => if c.issuing && c.fetched.isSome then [.lane r] else [.event (.clauseFetch r), .event (.clauseIssue r)])

/-- What a team may do. -/
def State.teamActions (s : State) (t : Team) : List Action :=
  (t.groups.flatMap fun g =>
    if g.ended then []
    else ((List.finRange 4).flatMap fun k => g.actions { team := t.id, group := g.gid, split := k }) ++
      [.event (.watchdog t.id g.gid), .event (.passInstructionLimit t.id g.gid)]) ++
  ([.teamDispatch t.id, .passGroupStart t.id, .contextSave t.id, .drainOverrun t.id, .epochCompare t.id, .stageTeamSave t.id].map Action.event) ++
  (if t.state == .saved then (match s.restoreCore t with | some c => [.event (.contextRestore t.id c)] | none => []) else [])

/-- What an ASID's units may do. -/
def Asid.actions (a : Asid) : List Action :=
  (if a.holds.any fun h => h.left == 0 then [.event (.preEmptHoldEnd a.id)] else []) ++
  (if a.fabwIn.isEmpty then [] else [.event (.fabwApply a.id)]) ++
  (if a.traps.isEmpty then [] else [.event (.trapRecordWrite a.id)]) ++
  (if a.cmds.isEmpty then []
   else ([.invalidate a.id, .invalidateCompletion a.id, .preEmpt a.id, .cancel a.id, .resumeContext a.id, .faultResume a.id, .faultAbandon a.id].map
     Action.event))

/-- Everything that the device's own units may do next. -/
def State.actions (s : State) : List Action :=
  (s.teams.flatMap s.teamActions) ++
  (s.ops.flatMap fun o => o.events.map Action.event) ++
  (s.late.map fun l => .event (.operationComplete l.id)) ++
  (s.cmds.flatMap fun c => [.event (.copyStart c.id), .event (.collectiveStart c.id), .event (.pumpSector c.id .none), .event (.siphonGateRead c.id),
    .event (.operationComplete c.id)]) ++
  (s.loops.map fun l => .event (.mloopStep l.id)) ++
  (s.asids.flatMap Asid.actions) ++
  ((s.kicks.take 1).map fun k => .event (.submissionSeqReread k.asid)) ++
  (s.launches.flatMap fun l => (List.range l.stages.length).map fun j => .event (.stageCounterRead l.id j)) ++
  ((s.cores.filter (·.asked.isSome)).map fun c => .event (.stealAnswer c.id)) ++
  ((List.range 5).flatMap fun d => (List.range 5).map fun h => .event (.recordApply d h))

/-- The state but for the split that issues and the count of choices. -/
def State.plain (s : State) : State := { s with focus := none, choice := 0 }

/-- An action that changes the machine. -/
def State.moves (s : State) (a : Action) : Bool :=
  match s.perform a with
  | .next t => t.plain != s.plain
  | _ => false

/-- The next action of the device's own accord: in turn, the first that changes the machine. -/
def State.prompt (s : State) : Option Action :=
  let l := s.actions
  let n := if l.length = 0 then 0 else s.choice % l.length
  (l.drop n ++ l.take n).find? s.moves

/-- What happens next: the agenda's first action, else one of the device's own accord. -/
def State.nextAction (s : State) : Option Action × State :=
  match s.agenda with
  | a :: rest => (some a, { s with agenda := rest })
  | [] => (s.prompt, s)

end Sys2Proof.Machine
end

