-- ==== Sys2Proof/Machine/Step.lean ====
section
/-! DEFINITION. One step of the device, and the placing of an instruction where the next step runs it. -/

namespace Sys2Proof.Machine

/-- One step: the next action is performed and its cycles pass; when there is none, cycles pass. -/
def step (s : State) : Host.Outcome State Fault Refusal :=
  match s.nextAction with
  | (none, s) => .next s.tick
  | (some a, s) =>
    match s.perform a with
    | .next t => .next t.tick
    | .fault f => .fault f
    | .refused r => .refused r

/-! A program placed from outside. -/

/-- Bytes put into the homes and every view. -/
def State.place (s : State) (a : Nat) (bs : List Byte) : State :=
  { s with mem := s.mem.writeN a bs, views := s.views.map fun m => m.writeN a bs }

/-- The launch that holds a placed instruction: one team of one group of 32 lanes. -/
def placedRecord : LaunchRec where
  entry := 0x1000
  lcode := 0x2000
  seed := 0
  rmode := 0
  ftzm := 0
  omap := 0
  cpl := 0
  sys := (0, 0, 0)
  vregs := 96
  qbud := 0
  scratch := 16
  tiles := 4
  prio := 0
  nlev := 3
  nstage := 0
  policy := 0
  redund := false
  idemp := false
  ordered := false
  depth := 0
  bpass := false
  wdlim := 1024
  levels := [{ dom := 0, x := 32, y := 1, z := 1 }, { dom := 2, x := 1, y := 1, z := 1 }, { dom := 3, x := 1, y := 1, z := 1 }]
  args := Vector.replicate 4 0
  stages := []

/-- The launch of a placed instruction, live. -/
def placedLaunch (id : Nat) : Launch where
  id := id
  asid := 1
  record := placedRecord
  stages := [{ eligible := true, next := 1, requeued := [], ended := 0, durations := [], after := [] }]
  dealt := 1
  places := []
  killed := none
  cancel := none
  parent := none
  final := none

/-- Its team, resident on core 0. -/
def placedTeam (id launch : Nat) : Team :=
  let t := { queuedTeam id launch 0 0 0 none with state := .resident, area := some 0, tiles := List.replicate 4 [] }
  { t with groups := [elementGroup placedRecord t 0 (id + 1) 0xFFFFFFFF] }

/-- ASID 1 with its level-4 table at 0x10000, whose one 1 GiB page maps virtual address 0 to 0x40000000, raw, readable and
writable; a live launch with its team on core 0, whose group stands at virtual address 0x1000. -/
def State.withProgram (s : State) : State :=
  let launch := s.nextLaunch
  let team := s.fresh
  let s : State := (((s.place 0x10000 (natLe 16 0x12001)).place 0x12000 (natLe 16 0x14001)).place 0x14000 (natLe 16 0x40002087))
  { s.setAsid { s.asid 1 with ident := 0x10001 } with
    accepting := true
    fresh := team + 3
    nextLaunch := launch + 1
    launches := s.launches ++ [placedLaunch launch]
    teams := s.teams ++ [placedTeam team launch] }

/-- A clause of one lane instruction, fetched and issuing. -/
def placedClause (cid uid : Nat) (i : Instr) : Clause where
  cid := cid
  uid := uid
  sid := uid
  addr := 0x2000
  runPc := 0x1000
  mask := 0xFFFFFFFF
  caps := Vector.replicate 16 0
  rmode := 0
  ftzm := 0
  fetched := some ({ n := 1, fla := 0, flb := 1, wait := 0, aen := true, ben := true }, [i])
  next := 0
  issuing := true
  past := []
  order := []
  after := []

/-- The header of that clause as a word (R82). -/
def placedHeader : Nat := (encodeHeader { n := 1, fla := 0, flb := 1, wait := 0, aen := true, ben := true }).toNat

/-- An instruction placed where the next step runs it: a scalar word at the PC of a fresh group, or a lane word as the one word of a
clause that its split has run; a lane word that no clause accepts stands in a clause that is still to be fetched. -/
def State.withFetchWord (s : State) (nbits w : Nat) : State :=
  let team := s.fresh
  let r : SplitRef := { team := team, group := 0, split := 0 }
  let s := s.withProgram
  if nbits ≤ 32 then { s.place 0x40001000 (natLe 4 w) with agenda := [.scalar r] }
  else
    let s := s.place 0x40002000 (natLe 12 placedHeader ++ natLe 12 w)
    let good := match decodeLane (BitVec.ofNat 96 w) with
      | .ok i => if i.laneWf then some i else none
      | .error _ => none
    let run (s : State) (f : Clause → Clause) (i : Instr) : State :=
      s.modGroup team 0 fun g => { g with
        clauses := vset g.clauses 0 [f (placedClause (team + 2) (team + 1) i)]
        splits := g.splits.map fun p => p.map fun p => p.modSet fun e => { e with ran := [team + 2], order := [team + 2] } }
    match good with
    | some i => { run s id i with agenda := [.lane r] }
    | none => { run s (fun c => { c with fetched := none, issuing := false }) .exit with agenda := [.event (.clauseFetch r)] }

end Sys2Proof.Machine
end

