-- ==== Sys2Proof/Safety.lean ====
section
/-! DEFINITION. What claims about runs are stated in terms of: the canonical form of every memory, the hard-wired registers, and the
fields of device registers that the spec fixes. -/

namespace Sys2Proof.Machine

/-- Every memory of the device is in its canonical form: the homes' and the views', the scratchpads, the tiles and the tiles' values that
a matrix loop keeps for its start anew. -/
def State.memoriesWf (s : State) : Bool :=
  s.mem.wf && s.views.toList.all (fun m => m.wf) && s.teams.all (fun t => t.scratch.wf && t.tiles.all fun m => m.wf) &&
  s.loops.all fun l => l.shadow.all fun m => m.wf

/-- s0 and p0 of a group are the constants of R40 and R45: nothing stands in the places that they would have. -/
def Group.wired (g : Group) : Bool := vget g.s 0 0 == 0 && vget g.p 0 0 == 0

/-- The fields of the device's own registers that the spec fixes (R366, R376, R384): NODE and PEERSEL are 18 bits, WINBASE[35:0] is
zero, the power cap lies between 900 W and 1,750 W in steps of 25 W. -/
def State.registersLegal (s : State) : Bool :=
  s.node.toNat < 2 ^ 18 && s.peersel.toNat < 2 ^ 18 && s.winbase.toNat % 2 ^ 36 == 0 &&
  900 ≤ s.cap && s.cap ≤ 1750 && s.cap % 25 == 0

/-- An outcome is a next state with a property. -/
def Completes (o : Out State) (p : State → Prop) : Prop := ∃ t, o = .next t ∧ p t

/-! Scalar instructions. -/

/-- The operands of a scalar atomic (R103, R104): B, and C of `cas` and `binc`. -/
def satomOperands (d b : SReg) (f : SatomFields) : List SReg :=
  match (Aop.ofCode f.aop.toNat).getD .load with
  | .load => []
  | .cas => regsFrom b (if f.size then 2 else 1) ++ regsFrom d (if f.size then 2 else 1)
  | .binc => regsFrom d (if f.size then 2 else 1)
  | _ => regsFrom b (if f.size then 2 else 1)

/-- The registers that a scalar instruction names and reads, and what a clause captures (R41, R91). -/
def namedReads : Instr → List SReg
  | .add _ a b | .sub _ a b | .mul _ a b | .mulhi _ a b | .mulhu _ a b | .and _ a b | .or _ a b | .xor _ a b | .shl _ a b | .shr _ a b
  | .sra _ a b | .min _ a b | .max _ a b | .minu _ a b | .maxu _ a b | .slt _ a b | .sltu _ a b | .seq _ a b | .divu _ a b
  | .remu _ a b => [a, b]
  | .popc _ a | .clz _ a | .ctz _ a | .brev _ a | .addi _ a _ | .andi _ a _ | .ori _ a _ | .xori _ a _ | .shli _ a _ | .shri _ a _
  | .srai _ a _ | .slti _ a _ | .muli _ a _ => [a]
  | .sld _ a _ | .sld2 _ a _ => regsFrom a 2
  | .sst d a _ => d :: regsFrom a 2
  | .sst2 d a _ => regsFrom d 2 ++ regsFrom a 2
  | .satom d a b f => regsFrom a 2 ++ satomOperands d b f
  | .bz c _ | .bnz c _ => [c]
  | .bx a => [a]
  | .run _ _ _ => captured
  | .runx a _ _ => a :: captured
  | .mtc a _ | .mtcExec a | .mtcTcfg a _ | .mtcQdep a _ | .mtcG a _ | .mtcFabw a => [a]
  | .mtcBd a _ => regsFrom a 2
  | .cpy _ a b bar _ | .cpys _ a b bar _ => regsFrom a 2 ++ if bar then [b] else []
  | .siph _ a _ | .lnch _ a _ => regsFrom a 2
  | .stepq _ b _ | .stepp _ b _ => [b]
  | .mloop _ a _ _ _ | .mloopSbp _ a _ _ _ => regsFrom a 4
  | .mloopDirect _ a b _ _ _ => regsFrom a 4 ++ regsFrom b 2
  | .barMark _ a | .barJoin _ a => if a = 0 then [] else [a]
  | .barHold _ a b | .barOwe _ a b | .barMarkn _ a b => b :: if a = 0 then [] else [a]
  | _ => []

/-- The registers that a scalar instruction reads before it issues (R91). -/
def scalarReads : Instr → List SReg
  | .ret => [31]
  | i => namedReads i

/-- The registers that a scalar instruction writes, now or later (R91). -/
def scalarWrites : Instr → List SReg
  | .add d _ _ | .sub d _ _ | .mul d _ _ | .mulhi d _ _ | .mulhu d _ _ | .and d _ _ | .or d _ _ | .xor d _ _ | .shl d _ _ | .shr d _ _
  | .sra d _ _ | .min d _ _ | .max d _ _ | .minu d _ _ | .maxu d _ _ | .slt d _ _ | .sltu d _ _ | .seq d _ _ | .divu d _ _
  | .remu d _ _ => [d]
  | .popc d _ | .clz d _ | .ctz d _ | .brev d _ | .addi d _ _ | .andi d _ _ | .ori d _ _ | .xori d _ _ | .shli d _ _ | .shri d _ _
  | .srai d _ _ | .slti d _ _ | .muli d _ _ | .lui d _ | .mfc d _ => [d]
  | .sld d _ _ => [d]
  | .sld2 d _ _ => regsFrom d 2
  | .satom d _ _ f =>
    if (Aop.ofCode f.aop.toNat).getD .load = .store then [] else regsFrom d (if f.size then 2 else 1)
  | .barMark d _ | .barJoin d _ | .barHold d _ _ | .barOwe d _ _ | .barMarkn d _ _ => [d]
  | .call _ => [31]
  | _ => []

/-- The registers that a scalar instruction names as pairs (R7, R40). -/
def pairsNamed : Instr → List SReg
  | .sld _ a _ | .sst _ a _ | .mtcBd a _ | .cpy _ a _ _ _ | .cpys _ a _ _ _ | .siph _ a _ | .lnch _ a _ => [a]
  | .sld2 d a _ | .sst2 d a _ => [d, a]
  | .satom d a b f => if f.size then [d, a, b] else [a]
  | .mloopDirect _ _ b _ _ _ => [b]
  | _ => []

/-- A scalar instruction issues at a state (R80, R91, R358): a split has the turn and nothing stops it, the word's fields are accepted, no
register that the instruction reads or writes waits for a result, and no epoch of its copy is to be closed first. -/
abbrev ScalarReady (s : State) (c : Issuer) (i : Instr) : Prop :=
  s.issuer? = some c ∧ s.stopped c = false ∧ i.scalarWf = true ∧
  (scalarReads i ++ scalarWrites i).any (c.group.busyReg c.ref.split) = false ∧ s.epochDue c.team = false

/-- The split and the state at which an instruction is performed: the commands whose tokens it reads precede what the split does
from here on (R255). -/
def Issuer.begun (c : Issuer) (s : State) (i : Instr) : Issuer := (s.noteReads c (scalarReads i)).1
def State.begun (s : State) (c : Issuer) (i : Instr) : State := (s.noteReads c (scalarReads i)).2

/-- An engine command issues at a state (R33, R80, R91, R358): as any scalar instruction, but its token may still be the token of other
commands. -/
abbrev CommandReady (s : State) (c : Issuer) (i : Instr) (tok : SReg) : Prop :=
  s.issuer? = some c ∧ s.stopped c = false ∧ i.scalarWf = true ∧ (scalarReads i).any (c.group.busyReg c.ref.split) = false ∧
  c.group.busyResult c.ref.split tok = false ∧ s.epochDue c.team = false

/-- A scalar load, store or atomic (R99 to R104): what it checks, the address, the words, what the operation is, the bytes it writes, the
registers that wait for its result, its order and scope. -/
structure ScalarAccess where
  access : Access
  fmtOk  : Leaf → Bool
  ea     : DWord
  words  : Nat
  kind   : OpKind
  data   : List Byte
  dest   : Option SReg
  order  : Order
  scope  : Scope

/-- The bytes of a register, or of a pair with its even register at the lower address (R7). -/
def regBytes (c : Issuer) (r : SReg) (n : Nat) : List Byte :=
  natLe 4 (c.read r).toNat ++ if n = 2 then natLe 4 (c.read (r + 1)).toNat else []

/-- The access of a scalar memory instruction. -/
def scalarAccess (c : Issuer) : Instr → Option ScalarAccess
  | .sld d a imm => some { access := .load, fmtOk := Leaf.plainFmt, ea := c.pair a + BitVec.signExtend 64 imm, words := 1, kind := .load, data := [], dest := some d
                           order := .plain, scope := .device }
  | .sld2 d a imm => some { access := .load, fmtOk := Leaf.plainFmt, ea := c.pair a + BitVec.signExtend 64 imm, words := 2, kind := .load, data := [], dest := some d
                            order := .plain, scope := .device }
  | .sst d a imm => some { access := .store, fmtOk := Leaf.plainFmt, ea := c.pair a + BitVec.signExtend 64 imm, words := 1, kind := .store
                           data := regBytes c d 1, dest := none, order := .plain, scope := .device }
  | .sst2 d a imm => some { access := .store, fmtOk := Leaf.plainFmt, ea := c.pair a + BitVec.signExtend 64 imm, words := 2, kind := .store
                            data := regBytes c d 2, dest := none, order := .plain, scope := .device }
  | .satom d a b f =>
    let n := if f.size then 2 else 1
    let order := (Order.ofCode f.order.toNat).getD .relaxed
    let scope := (Scope.ofCode f.scope.toNat).getD .device
    match Aop.ofCode f.aop.toNat with
    | some .load => some { access := .atomLoad, fmtOk := Leaf.plainFmt, ea := c.pair a, words := n, kind := .load, data := [], dest := some d
                           order := order, scope := scope }
    | some .store => some { access := .atomic, fmtOk := Leaf.plainFmt, ea := c.pair a, words := n, kind := .store, data := regBytes c b n
                            dest := none, order := order, scope := scope }
    | some op => some { access := .atomic, fmtOk := fun l => l.plainFmt && (l.region != some 3 || op == .swap || op == .cas || op == .add)
                        ea := c.pair a, words := n
                        kind := .rmw { aop := op, b := leNat (regBytes c b n), c := leNat (regBytes c d n), rnd := rmodeRnd c.group.rmode 1
                                       sat := rmodeSat c.group.rmode 1, f32 := false }
                        data := [], dest := some d, order := order, scope := scope }
    | none => none
  | _ => none

/-- The active lanes of a pass group that become UNDECIDED: they leave EXEC, in every lane set of the group, for the rest of the pass (R202). -/
def Group.leavePass (g : Group) (m : Mask) : Group :=
  let out (e : LaneSet) : LaneSet := { e with exec := e.exec &&& ~~~m }
  { g with
    pass := g.pass.map fun p => { p with undecided := p.undecided ||| m }
    splits := g.splits.map fun q => q.map fun q =>
      { q with set := out q.set, stack := q.stack.map out, overflow := q.overflow.map fun o => (o.1, out o.2) } }

/-- What an attempt of an instruction does with a sector that it reads at an address (R251, R256, R264, R347): at the first one the access is
checked and its operation issues once it may; later ones leave the machine as it is until the bytes have come, fetch a sector whose check
word fails once more, and then take the fault; with the bytes there, `go` says how the instruction goes on. -/
def ReadsThen (s u : State) (k : Issuer) (i : Instr) (ea : DWord) (n : Nat) (go : List Byte → Prop) : Prop :=
  let found := u.reading k.agent k.uid ea.toNat
  let check := u.checkAccess (some k.core) k.asid ea n .load Leaf.plainFmt
  let taken := u.splitTaken k
  (found = none →
    (∀ f, check = .error f → exec i s = .next (taken.scalarFault k f ea)) ∧
    (∀ l, check = .ok l →
      let o := k.op .load (l.pa ea) n .relaxed .device l.sc
      (u.canIssue [o] = false → exec i s = .next u) ∧
      (u.canIssue [o] = true → exec i s = .next (((u.pushOp { o with dest := .engine ea.toNat }).usedLeaf (some k.core) k.asid ea
        l).modSplit k.ref fun p => p.modSet fun e => { e with past := unite e.past [u.fresh] })))) ∧
  (∀ x, found = some x →
    (x.result = none → exec i s = .next u) ∧
    (x.result ≠ none → x.intact = false →
      exec i s = .next (if x.again then (taken.mismatch x).scalarFault k (.uncorrectableReg, 2) ea else u.refetch x)) ∧
    (x.result ≠ none → x.intact = true → go (x.carried.map (·.1))))

/-- The operation that a scalar access enters into the machine, behind all that precedes it in its split's program order. -/
def ScalarAccess.op (x : ScalarAccess) (c : Issuer) (l : Leaf) : MemOp :=
  { blankOp (.group c.team.id c.group.gid c.core) c.asid x.kind .mem (l.pa x.ea) (4 * x.words) with
    uid := c.uid, order := x.order, scope := x.scope, sc := l.sc, past := c.split.set.past, data := x.data.map fun b => (b, 0xFF)
    dest := (match x.dest with | some d => .sregs d x.words c.uid | none => .none)
    atomic := x.access == .atomic || x.access == .atomLoad, site := { spc := c.pc, lpc := 0, ptr := x.ea, lane := none } }

/-- The token register of an engine command. -/
def tokenReg : Instr → Option SReg
  | .cpy d _ _ _ _ | .cpys d _ _ _ _ | .siph d _ _ | .lnch d _ _ | .stepq d _ _ | .stepp d _ _ | .mloop d _ _ _ _ | .mloopSbp d _ _ _ _
  | .mloopDirect d _ _ _ _ _ => some d
  | _ => none

/-- The bytes of an operand block that a step of a matrix loop reads, as offsets (R177): the rows, the shift bytes, the band scale; side 0 is
A, 1 is B, 2 is B in SBP mode. -/
def blockReads (fmt rows side o : Nat) : Prop :=
  let wide := fmtWidth fmt
  (∃ r k, r < rows ∧ k < (if wide = 6 then 96 else 128) ∧ o = 128 * r + k) ∨
  (fmtScaled fmt = true ∧ ∃ r b, r < rows ∧ b * fmtBlock fmt < (if wide = 6 then 128 else 1024 / wide) ∧
    o = (if side = 0 then 8192 else 4096) + 32 * r + b) ∨
  (fmtBand fmt = true ∧ ∃ b, b < 2 ∧ o = (if side = 0 then 10240 else if side = 1 then 5120 else 4096) + b)

/-- The scratchpad offset of a loop's block at step j (R179). -/
def blockAt (x : Word) (inc : BitVec 16) (j : Nat) : Nat := ((x.toNat + j * (128 * inc.toInt)) % (2 ^ 32 : Nat)).toNat

/-- Every byte that the steps of a loop read of a block lies within a scratchpad (R185). -/
def blocksInside (x : Word) (inc : BitVec 16) (steps fmt rows side size : Nat) : Prop :=
  ∀ j o, j < steps → blockReads fmt rows side o → blockAt x inc j + o < size

/-- The first byte beyond a scratchpad that the steps of a loop read of a block: the least one of the first step that reads one. -/
def blocksFirst (x : Word) (inc : BitVec 16) (steps fmt rows side size addr : Nat) : Prop :=
  ∃ j o, j < steps ∧ blockReads fmt rows side o ∧ addr = blockAt x inc j + o ∧ size ≤ addr ∧
    (∀ j' o', j' < j → blockReads fmt rows side o' → blockAt x inc j' + o' < size) ∧
    (∀ o', blockReads fmt rows side o' → size ≤ blockAt x inc j + o' → addr ≤ blockAt x inc j + o')

/-- A pass does not perform the instruction and marks its lanes as having effects (R94, R219). -/
def passEffects (c : Issuer) : Instr → Bool
  | .sst _ _ _ | .sst2 _ _ _ | .cpy _ _ _ _ _ | .cpys _ _ _ _ _ | .siph _ _ _ | .lnch _ _ _ | .stepq _ _ _ | .stepp _ _ _ | .mtcG _ _
  | .mtcFabw _ => true
  | .mtcTcfg _ n => n.toNat < c.launch.record.tiles
  | .satom _ _ _ f => Aop.ofCode f.aop.toNat != some .load
  | .mloop _ _ _ tc ta => c.team.loopOk c.launch.record 0 tc.toNat ta.toNat
  | .mloopSbp _ _ _ tc ta => c.team.loopOk c.launch.record 1 tc.toNat ta.toNat
  | .mloopDirect _ _ _ _ tc ta => c.team.loopOk c.launch.record 2 tc.toNat ta.toNat
  | _ => false

/-- A pass does not perform the instruction, which has no effect on it (R94, R219). -/
def passSkips : Instr → Bool
  | .barMark _ _ | .barMarkn _ _ _ | .barJoin _ _ | .barHold _ _ _ | .barOwe _ _ _ | .fence _ _ _ | .qfence _ => true
  | _ => false

/-- The address an SJ offset names (R75): PC + 4 + 4 × the signed offset, modulo 2^64. -/
def sjTarget (pc : DWord) (off : BitVec 21) : DWord := BitVec.ofInt 64 ((pc.toNat : Int) + 4 + 4 * off.toInt)

/-- The destination and the value that the tables of R97 and R98 give, in exact integers. -/
def aluResult (r : SReg → Word) : Instr → Option (SReg × Word)
  | .add d a b => some (d, BitVec.ofNat 32 ((r a).toNat + (r b).toNat))
  | .sub d a b => some (d, BitVec.ofInt 32 ((r a).toNat - (r b).toNat : Int))
  | .mul d a b => some (d, BitVec.ofNat 32 ((r a).toNat * (r b).toNat % 2 ^ 32))
  | .mulhi d a b => some (d, BitVec.ofInt 32 ((r a).toInt * (r b).toInt / 2 ^ 32))
  | .mulhu d a b => some (d, BitVec.ofNat 32 ((r a).toNat * (r b).toNat / 2 ^ 32))
  | .and d a b => some (d, BitVec.ofNat 32 ((r a).toNat &&& (r b).toNat))
  | .or d a b => some (d, BitVec.ofNat 32 ((r a).toNat ||| (r b).toNat))
  | .xor d a b => some (d, BitVec.ofNat 32 ((r a).toNat ^^^ (r b).toNat))
  | .shl d a b => some (d, BitVec.ofNat 32 ((r a).toNat * 2 ^ ((r b).toNat % 32)))
  | .shr d a b => some (d, BitVec.ofNat 32 ((r a).toNat / 2 ^ ((r b).toNat % 32)))
  | .sra d a b => some (d, BitVec.ofInt 32 ((r a).toInt / 2 ^ ((r b).toNat % 32)))
  | .min d a b => some (d, if (r a).toInt ≤ (r b).toInt then r a else r b)
  | .max d a b => some (d, if (r a).toInt ≤ (r b).toInt then r b else r a)
  | .minu d a b => some (d, if (r a).toNat ≤ (r b).toNat then r a else r b)
  | .maxu d a b => some (d, if (r a).toNat ≤ (r b).toNat then r b else r a)
  | .slt d a b => some (d, if (r a).toInt < (r b).toInt then 1 else 0)
  | .sltu d a b => some (d, if (r a).toNat < (r b).toNat then 1 else 0)
  | .seq d a b => some (d, if r a = r b then 1 else 0)
  | .divu d a b => some (d, if (r b).toNat = 0 then 0xFFFFFFFF else BitVec.ofNat 32 ((r a).toNat / (r b).toNat))
  | .remu d a b => some (d, if (r b).toNat = 0 then r a else BitVec.ofNat 32 ((r a).toNat % (r b).toNat))
  | .popc d a => some (d, BitVec.ofNat 32 ((List.range 32).countP fun j => (r a).getLsbD j))
  | .clz d a => some (d, if r a = 0 then 32 else BitVec.ofNat 32 (31 - Nat.log2 (r a).toNat))
  | .ctz d a => some (d, BitVec.ofNat 32 ((List.range 32).takeWhile fun j => !(r a).getLsbD j).length)
  | .brev d a => some (d, (r a).reverse)
  | .addi d a i => some (d, BitVec.ofInt 32 ((r a).toNat + i.toInt))
  | .andi d a i => some (d, BitVec.ofNat 32 ((r a).toNat &&& i.toNat))
  | .ori d a i => some (d, BitVec.ofNat 32 ((r a).toNat ||| i.toNat))
  | .xori d a i => some (d, BitVec.ofNat 32 ((r a).toNat ^^^ i.toNat))
  | .shli d a n => some (d, BitVec.ofNat 32 ((r a).toNat * 2 ^ n.toNat))
  | .shri d a n => some (d, BitVec.ofNat 32 ((r a).toNat / 2 ^ n.toNat))
  | .srai d a n => some (d, BitVec.ofInt 32 ((r a).toInt / 2 ^ n.toNat))
  | .slti d a i => some (d, if (r a).toInt < i.toInt then 1 else 0)
  | .lui d i => some (d, BitVec.ofNat 32 (i.toNat * 65536))
  | .muli d a i => some (d, BitVec.ofInt 32 ((r a).toInt * i.toInt))
  | _ => none

/-- The registers that a branch or a call may change, or an instruction of the scalar ALU, none for any other. -/
def changedRegs : Instr → Option (List SReg)
  | .b _ | .bz _ _ | .bnz _ _ | .bany _ _ _ | .ball _ _ _ | .bnone _ _ _ | .bx _ => some []
  | .call _ => some [31]
  | i => (aluResult (fun _ => 0) i).map fun r => [r.1]

/-- The registers that an instruction of the scalar ALU, a branch, a call, a return or a `nop` may change, none for any other. -/
def plainWrites : Instr → Option (List SReg)
  | .ret | .nop => some []
  | i => changedRegs i

/-- The low bits of a jump through a register are zero, or the instruction is no such jump (R68, R107). -/
def jumpAligned (c : Issuer) : Instr → Bool
  | .ret => (c.read 31).extractLsb' 0 2 == 0
  | .bx a => (c.read a).extractLsb' 0 2 == 0
  | _ => true

/-- Nothing of a group has changed but scalar registers outside the frame, what the splits hold, the turn, the watchdog and the count
of a pass. -/
def Group.sameButScalars (g h : Group) : Prop :=
  h.gid = g.gid ∧ h.held = g.held ∧ h.clauses = g.clauses ∧ h.busy = g.busy ∧ h.v = g.v ∧ h.q = g.q ∧ h.qbud = g.qbud ∧ h.p = g.p ∧
  h.w = g.w ∧ h.k = g.k ∧ h.bd = g.bd ∧ h.rmode = g.rmode ∧ h.ftzm = g.ftzm ∧ h.lbase = g.lbase ∧ h.lhi = g.lhi ∧ h.gen = g.gen ∧
  h.slot = g.slot ∧ h.holds = g.holds ∧ h.engines = g.engines ∧ h.ended = g.ended ∧ h.abandoned = g.abandoned ∧
  h.outcome = g.outcome ∧ h.level = g.level

/-- Of a team outside one of its groups nothing has changed, scratchpad, tiles and shared registers included, but the watchdogs' counts
of the other groups, and that the close of an epoch may be over. -/
def Team.sameOutside (t u : Team) (gid : Nat) : Prop :=
  u = { t with groups := u.groups, red := u.red } ∧ u.groups.map (·.gid) = t.groups.map (·.gid) ∧
  u.red.map (fun r => { r with closing := none, granted := false }) = t.red.map (fun r => { r with closing := none, granted := false }) ∧
  ∀ y, y ≠ gid → (u.group? y).map (fun g => { g with watch := 0 }) = (t.group? y).map fun g => { g with watch := 0 }

/-- Of the teams nothing outside one group has changed. -/
def SameTeams (s t : State) (team gid : Nat) : Prop :=
  t.teams.map (·.id) = s.teams.map (·.id) ∧ (∀ x, x ≠ team → t.team? x = s.team? x) ∧
  ∀ u, s.team? team = some u → ∃ u', t.team? team = some u' ∧ u.sameOutside u' gid

/-- Every byte of device memory and of every die's view reads as before. -/
def SameBytes (s t : State) : Prop :=
  (∀ a, t.mem.read a = s.mem.read a) ∧ (∀ d a, (t.view d).read a = (s.view d).read a)

/-- Nothing outside a group has changed: every field of the machine but its teams is as it was, and of the teams nothing outside the group. -/
def SameElsewhere (s t : State) (team gid : Nat) : Prop := t = { s with teams := t.teams } ∧ SameTeams s t team gid

/-! Lane instructions in element mode. -/

/-- A lane instruction issues at a state (R24, R31, R358): its clause is issuing and nothing stops it, no epoch of its copy is to be closed
first, its group is no pass group, and the effective mask, the lanes of the clause's mask (or with `all` those that have not exited) on which
the guard holds, is not empty. -/
abbrev LaneReady (s : State) (c : LaneCtx) (i : Instr) (h : LaneHead) : Prop :=
  i.head? = some h ∧ s.laneCtx? = some { c with em := 0 } ∧ s.laneStopped { c with em := 0 } = false ∧ s.epochDue c.team = false ∧
  c.group.pass = none ∧ c.em ≠ 0 ∧
  ∀ l, c.em.has l =
    ((if h.all then c.group.remaining.has l else c.clause.mask.has l) && ((c.group.pred h.guard.toNat).has l != h.gneg))

/-- The queues that an instruction names hold and accept its entries (R60 to R63). -/
abbrev QueuesReady (c : LaneCtx) (i : Instr) : Prop := c.group.queueState (popsOf i.laneFields) (pushOf i.laneFields) = .ready

/-- What an instruction computes lane by lane: the registers of d, whether the result depends on the lane (R56), whether old d is a source,
and a lane's value and generator. -/
structure LaneResult where
  n   : Nat
  dep : Bool
  old : Bool
  val : Args → DWord → Nat × DWord

/-- An instruction's results reach its destination (R53 to R57, R61): queues popped, generators drawn from, T chosen among the sources' maps
in the order a, b, c, old d, and the active lanes written under the destination's map; the clause goes on. -/
def LaneComputes (s : State) (c : LaneCtx) (i : Instr) (h : LaneHead) (r : LaneResult) : Prop :=
  let x := c.sources i
  let old := if r.old then c.oldDest s.choice h.d.toNat r.n else Operand.broadcast 0
  let T := targetMap [x.a.map, x.b.map, x.c.map, old.map]
  let D := if 96 ≤ h.d.toNat then LMap.id else if T.injective || (c.full && !r.dep) then T else LMap.id
  let res (l : Fin 32) : Nat × DWord :=
    if c.em.has l then r.val { a := x.a.vals[l], b := x.b.vals[l], c := x.c.vals[l], d := old.vals[l] } c.group.gen[l]
    else (0, c.group.gen[l])
  exec i s = .next (((s.modGroup c.team.id c.group.gid fun g =>
    { g.pop (popsOf i.laneFields) with gen := Lanes.gen fun l => (res l).2 }).putGeneral c h r.n D fun l => (res l).1).laneDone c)

/-- Element e of a lane's operand as an integer of its type. -/
def elemInt (t : LType) (v e : Nat) : Int := intOf t (elemAt t.width v e)

/-- An exact integer in an element: modulo 2^w, or under saturation the nearest value of the type (R121, R128). -/
def inElem (t : LType) (sat : Bool) (v : Int) : Nat :=
  let r := intRange t
  ((if sat then max r.1 (min v r.2) else v) % (2 ^ t.width : Nat)).toNat

/-- An integer instruction's lane in exact integers, per element (R128, R129). -/
def laneInt (c : LaneCtx) (i : Instr) : Option LaneResult :=
  let pure_ (n : Nat) (v : Args → Nat) : Option LaneResult := some { n := n, dep := false, old := false, val := fun x g => (v x, g) }
  let each (f : LA) (v : Int → Int → Int → Int) : Option LaneResult :=
    pure_ f.ty.regs fun x => ofElems f.ty.width f.ty.count fun e =>
      inElem f.ty (satOn f.sat c.clause.rmode 7) (v (elemInt f.ty x.a e) (elemInt f.ty x.b e) (elemInt f.ty x.c e))
  let shift (f : LA) (v : Nat → Nat → Nat) : Option LaneResult :=
    pure_ f.ty.regs fun x => ofElems f.ty.width f.ty.count fun e =>
      v (elemAt f.ty.width x.a e) (elemAt f.ty.width x.b e % f.ty.width)
  let len (b : Nat) : Nat := min (b / 256 % 64) 32
  match i with
  | .iadd f => each f fun a b _ => a + b
  | .isub f => each f fun a b _ => a - b
  | .imul f => each f fun a b _ => a * b
  | .imad f => each f fun a b c => a * b + c
  | .imin f => each f fun a b _ => min a b
  | .imax f => each f fun a b _ => max a b
  | .iabs f => each f fun a _ _ => max a (-a)
  | .iclamp f => each f fun a b c => min (max a b) c
  | .imulhi f => pure_ f.ty.regs fun x => ofElems f.ty.width f.ty.count fun e =>
      (elemInt f.ty x.a e * elemInt f.ty x.b e / (2 ^ f.ty.width : Nat) % (2 ^ f.ty.width : Nat)).toNat
  | .laneAnd f => pure_ f.ty.regs fun x => x.a &&& x.b
  | .laneOr f => pure_ f.ty.regs fun x => x.a ||| x.b
  | .laneXor f => pure_ f.ty.regs fun x => x.a ^^^ x.b
  | .not f => pure_ f.ty.regs fun x => 2 ^ (32 * f.ty.regs) - 1 - x.a
  | .laneShl f => shift f fun a n => a * 2 ^ n
  | .laneShr f => shift f fun a n => a / 2 ^ n
  | .laneSra f => shift f fun a n => (signed f.ty.width a / (2 ^ n : Nat) % (2 ^ f.ty.width : Nat)).toNat
  | .rot f => pure_ f.ty.regs fun x =>
      let n := x.b % f.ty.width
      x.a * 2 ^ n % 2 ^ f.ty.width + x.a / 2 ^ (f.ty.width - n)
  | .lanePopc f => pure_ f.ty.regs fun x => (List.range 32).countP fun j => x.a.testBit j
  | .laneClz f => pure_ f.ty.regs fun x => ((List.range 32).takeWhile fun j => !x.a.testBit (31 - j)).length
  | .laneBrev f => pure_ f.ty.regs fun x => (BitVec.ofNat 32 x.a).reverse.toNat
  | .bfe f => pure_ f.ty.regs fun x =>
      let n := len x.b
      let low : Int := (if f.ty = .i32 then signed 32 x.a else x.a) / (2 ^ (x.b % 32) : Nat) % (2 ^ n : Nat)
      if f.ty = .i32 ∧ n ≠ 0 ∧ (2 ^ (n - 1) : Nat) ≤ low then (low + 2 ^ 32 - (2 ^ n : Nat)).toNat else low.toNat
  | .bfi f => pure_ f.ty.regs fun x =>
      let m : BitVec 32 := BitVec.ofNat 32 (2 ^ len x.b - 1) <<< (x.b % 32)
      ((BitVec.ofNat 32 x.c &&& ~~~m) ||| (BitVec.ofNat 32 x.a <<< (x.b % 32) &&& m)).toNat
  | .iaddc f => pure_ f.ty.regs fun x =>
      if f.fmod.getLsbD 0 then (x.a + x.b + x.c % 2) / 2 ^ 32 else (x.a + x.b + x.c % 2) % 2 ^ 32
  | .isad f => pure_ 1 fun x =>
      (x.c + ((List.range f.ty.count).map fun e => (elemInt f.ty x.a e - elemInt f.ty x.b e).natAbs).sum) % 2 ^ 32
  | .lea f => pure_ f.ty.regs fun x => (x.a + x.b * 2 ^ (f.fmod.toNat % 8)) % 2 ^ f.ty.width
  | .idiv f => pure_ f.ty.regs fun x =>
      let a := intOf f.ty x.a
      let b := intOf f.ty x.b
      let r := intRange f.ty
      ((if b = 0 then (if r.1 = 0 then r.2 else if 0 ≤ a then r.2 else r.1) else a.tdiv b) % (2 ^ f.ty.width : Nat)).toNat
  | .irem f => pure_ f.ty.regs fun x =>
      let a := intOf f.ty x.a
      let b := intOf f.ty x.b
      ((if b = 0 then a else a.tmod b) % (2 ^ f.ty.width : Nat)).toNat
  | .mov f => pure_ f.ty.regs fun x => x.a
  | _ => none

/-- The exact value of a float instruction's element from its operands' values, negative zero under RDN told apart (R130), and whether it is
rounded under the instruction's mode; a selection is not. -/
def floatValue (i : Instr) (rdn : Bool) (a b c : FVal) : Option (FVal × Bool) :=
  let lower (x y : FVal) : FVal := if x.isNan || y.isNan then .nan else if FVal.below y x then y else x
  let upper (x y : FVal) : FVal := if x.isNan || y.isNan then .nan else if FVal.below x y then y else x
  match i with
  | .fadd _ => some (FVal.sum rdn [a, b], true)
  | .fsub _ => some (FVal.sum rdn [a, b.neg], true)
  | .fmul _ => some (a.mul b, true)
  | .ffma _ => some (FVal.sum rdn [a.mul b, c], true)
  | .fmin _ => some (lower a b, false)
  | .fmax _ => some (upper a b, false)
  | .fminnum f => some (if a.isNan then b else if b.isNan then a else if f.fmod.getLsbD 0 then upper a b else lower a b, false)
  | .fmid _ => some (upper (lower a b) (lower (upper a b) c), false)
  | _ => none

/-- Elements in ascending order, a draw of the lane's generator for each that is stochastically rounded (R169). -/
def elemsInOrder (t : LType) (v : Nat → DWord → Nat × DWord) (g : DWord) : Nat × DWord :=
  (List.range t.count).foldl (fun acc e => (acc.1 + (v e acc.2).1 % 2 ^ t.width * 2 ^ (t.width * e), (v e acc.2).2)) (0, g)

/-- A float instruction's lane (R121 to R123, R130 to R132): values of the elements under FIN after the sign modifiers, the exact result
rounded once in the resolved mode, flushed under FOUT. -/
def laneFloat (c : LaneCtx) (i : Instr) : Option LaneResult :=
  let fmt (f : LA) : FFmt := typeFmt f.ty
  let mode (f : LA) (m : FFmt) : Nat := rndMode f.rnd c.clause.rmode m.cls
  let sat (f : LA) (m : FFmt) : Bool := satOn f.sat c.clause.rmode m.cls
  let inV (m : FFmt) (neg abs : Bool) (code : Nat) : FVal := m.decodeIn (ftzmIn c.clause.ftzm m.cls) (signMod m neg abs code)
  let a (f : LA) (x : Args) (e : Nat) : FVal := inV (fmt f) f.aneg f.aabs (elemAt f.ty.width x.a e)
  let b (f : LA) (x : Args) (e : Nat) : FVal := inV (fmt f) f.bneg false (elemAt f.ty.width x.b e)
  let cc (f : LA) (x : Args) (e : Nat) : FVal := inV (fmt f) f.cneg false (elemAt f.ty.width x.c e)
  let out (m : FFmt) (code : Nat) : Nat := m.flush (ftzmOut c.clause.ftzm m.cls) code
  let each (f : LA) (dep : Bool) (v : Args → Nat → DWord → Nat × DWord) : Option LaneResult :=
    some { n := f.ty.regs, dep := dep, old := false, val := fun x g => elemsInOrder f.ty (v x) g }
  let arith (f : LA) : Option LaneResult :=
    let m := fmt f
    let rounds := match floatValue i false .zero .zero .zero with | some r => r.2 | none => false
    each f (rounds && mode f m == 5) fun x e g =>
      match floatValue i (mode f m == 2) (a f x e) (b f x e) (cc f x e) with
      | some (v, true) => c.roundTo m (mode f m) (sat f m) v g
      | some (v, false) => (out m (m.round 0 false 0 v), g)
      | none => (0, g)
  let dot (f : LA) : Option LaneResult :=
    let m := fmt f
    let td : LType := if f.ty = .i8x4 then .i32 else .n32
    if isInt f.ty then
      some { n := 1, dep := false, old := false, val := fun x g =>
        (inElem td (satOn f.sat c.clause.rmode 7) ((if f.cneg then -(intOf td x.c) else intOf td x.c) +
          ((List.range f.ty.count).map fun e => elemInt f.ty x.a e * elemInt f.ty x.b e).sum), g) }
    else
      some { n := 1, dep := mode f .f32 == 5, old := false, val := fun x g =>
        let v (neg : Bool) (r e : Nat) : FVal := inV m neg false (elemAt f.ty.width r e)
        c.roundTo .f32 (mode f .f32) (sat f .f32) (FVal.sum (mode f .f32 == 2)
          (inV .f32 f.cneg false x.c :: (List.range f.ty.count).map fun e => (v f.aneg x.a e).mul (v f.bneg x.b e))) g }
  match i with
  | .fadd f | .fsub f | .fmul f | .ffma f | .fmin f | .fmax f | .fminnum f | .fmid f => arith f
  | .frnd f => each f false fun x e g =>
      let md := if mode f (fmt f) = 5 then 0 else mode f (fmt f)
      let v : FVal := match a f x e with
        | .fin n k p => .fin n (roundSteps md n k p 0 0).1 0
        | v => v
      (out (fmt f) ((fmt f).round md false 0 v), g)
  | .fscale f => each f (mode f (fmt f) == 5) fun x e g =>
      let n := elemInt (if f.ty = .f16x2 ∨ f.ty = .bf16x2 then .i16x2 else .i32) x.b e
      c.roundTo (fmt f) (mode f (fmt f)) (sat f (fmt f)) ((a f x e).scale (max (-8192) (min n 8192))) g
  | .fclass f => some { n := 1, dep := false, old := false, val := fun x g =>
      (ofElems (if f.ty = .f64 then 32 else f.ty.width) f.ty.count fun e => 2 ^ classBit (fmt f) (elemAt f.ty.width x.a e), g) }
  | .ffract f => each f (mode f (fmt f) == 5) fun x e g =>
      let one := (fmt f).bias * 2 ^ (fmt f).mbits
      let d : FVal := match a f x e with
        | .fin n k p =>
          let r := FVal.sum false [.fin n k p, FVal.ofInt (-(FVal.roundInt 2 0 (.fin n k p)))]
          if r.isZero then .zero else r
        | _ => .nan
      let r := c.roundTo (fmt f) (mode f (fmt f)) false d g
      (if one ≤ r.1 ∧ r.1 < (fmt f).inf then one - 1 else r.1, r.2)
  | .fcopysign f => each f false fun x e g =>
      let m := fmt f
      let av := signMod m f.aneg f.aabs (elemAt f.ty.width x.a e)
      let bv := signMod m f.bneg false (elemAt f.ty.width x.b e)
      (av % m.sign + bv / m.sign * m.sign, g)
  | .fdot2 f | .fdot4 f => dot f
  | _ => none

/-- The values of R142 at which a special function is exact, none where R141 bounds its error. -/
def exactAt (fn : SpecialFn) (x : FVal) : Option FVal :=
  let one (neg : Bool) : FVal := .fin neg 1 0
  match x with
  | .nan => some .nan
  | .inf true => some (match fn with | .rcp => .fin true 0 0 | .exp2 => .zero | .tanh | .erf => one true | _ => .nan)
  | .inf false => some (match fn with
      | .rcp | .rsq => .zero | .sqrt | .exp2 | .log2 => .inf false | .sin | .cos => .nan | .tanh | .erf => one false)
  | .fin n m _ =>
    if m = 0 then some (match fn with
      | .rcp | .rsq => .inf n | .log2 => .inf true | .exp2 | .cos => one false | .sqrt | .sin | .tanh | .erf => .fin n 0 0)
    else match fn with
      | .rsq | .sqrt => if n then some .nan else none
      | .log2 => if n then some .nan else if FVal.eq x (one false) then some .zero else none
      | .exp2 => x.wholeInt.map fun k => .fin false 1 k
      | _ => none

/-- A token of an expression on its stack, the value pushed last at the head (R144): inputs, the operators of one, two and three values. -/
def exprStack {α : Type} (bad : α) (input : Tok → α) (one : Tok → α → α) (two : Tok → α → α → α) (fma : α → α → α → α) (t : Tok)
    (st : List α) : List α :=
  match t, st with
  | .dup, x :: r => x :: x :: r
  | .swap, x :: y :: r => y :: x :: r
  | .neg, x :: r => one .neg x :: r
  | .abs, x :: r => one .abs x :: r
  | .sat01, x :: r => one .sat01 x :: r
  | .add, x :: y :: r => two .add y x :: r
  | .sub, x :: y :: r => two .sub y x :: r
  | .mul, x :: y :: r => two .mul y x :: r
  | .min, x :: y :: r => two .min y x :: r
  | .max, x :: y :: r => two .max y x :: r
  | .fma, z :: y :: x :: r => fma x y z :: r
  | t, st => (if t.computes then bad else input t) :: st

/-- The value of an expression: its tokens in order, what an operator gives kept as `keep` says but for the last, whose exact result is the
expression's; `step` says whether the token is the last. -/
def exprValue {α : Type} (zero : α) (step : Bool → Tok → List α → List α) (keep : α → α) (toks : List Tok) : α :=
  let before := toks.dropLast.foldl (fun st t =>
    match step false t st with | x :: r => (if t.computes then keep x else x) :: r | [] => []) []
  match toks.getLast? with
  | some t => (step true t before).headD zero
  | none => zero

/-- The special functions, their elements as R140 to R142 give them, conversions element by element (R133 to R135, R170), selections, votes
and predicates as words (R137 to R139), `ivmk` (R224), and the clock and generator reads (R149). -/
def laneOther (s : State) (c : LaneCtx) (i : Instr) : Option LaneResult :=
  let word (v : Nat) : Option LaneResult := some { n := 1, dep := false, old := false, val := fun _ g => (v, g) }
  let lanesOf (p : BitVec 7) (neg : Bool) (m : Mask) : Nat := (Mask.gen fun l => m.has l && ((c.group.pred p.toNat).has l != neg)).toNat
  let special (f : LA) (fn : SpecialFn) : Option LaneResult :=
    let m := typeFmt f.ty
    some { n := f.ty.regs, dep := fn.exact && rndMode f.rnd c.clause.rmode m.cls == 5, old := false
           val := fun x g => elemsInOrder f.ty (fun e g =>
             let sat := satOn f.sat c.clause.rmode m.cls
             let v := m.decodeIn (ftzmIn c.clause.ftzm m.cls) (signMod m f.aneg f.aabs (elemAt f.ty.width x.a e))
             match exactAt fn v, fn.exact with
             | some r, false => (m.flush (ftzmOut c.clause.ftzm m.cls) (m.round 0 sat 0 r), g)
             | none, false => (m.flush (ftzmOut c.clause.ftzm m.cls) (m.limit sat (fn.open_ m v)), g)
             | r, true => c.roundTo m (rndMode f.rnd c.clause.rmode m.cls) sat (r.getD (fn.value v)) g) g }
  let dep (f : LA) (scaled : Bool) : Bool :=
    (scaled || (typeElem (LaRule.cvtSrc f)).isFlt || (typeElem f.ty).isFlt) && rndMode f.rnd c.clause.rmode (typeElem f.ty).cls == 5
  -- one element times 2^k, rounded once; under a shift of −128 a zero, the element not read
  let one (f : LA) (k : Int) (code : Nat) (g : DWord) : Nat × DWord :=
    let u := typeElem (LaRule.cvtSrc f)
    let w := typeElem f.ty
    let mode := rndMode f.rnd c.clause.rmode w.cls
    let sat := satOn f.sat c.clause.rmode w.cls
    let drawn : Nat × DWord := if mode = 5 then ((draw g).2, (draw g).1) else (0, g)
    let v : FVal := match u with | .flt m => m.decodeIn (ftzmIn c.clause.ftzm m.cls) code | u => u.decode code
    if k = -128 then (0, if u.isFlt || w.isFlt then drawn.2 else g)
    else match w with
      | .flt m => c.roundTo m mode sat (v.scale k) g
      | _ =>
        if u.isFlt then
          ((match v with
            | .nan => 0
            | .inf n => inElem f.ty true (if n then (intRange f.ty).1 else (intRange f.ty).2)
            | v => inElem f.ty true ((v.scale k).roundInt mode drawn.1)), drawn.2)
        else if 0 ≤ k then (inElem f.ty sat (u.int code * (2 ^ k.toNat : Nat)), g)
        else (inElem f.ty sat ((v.scale k).roundInt mode drawn.1), drawn.2)
  let conv (f : LA) (shift : Args → Int) (scaled : Bool) : Option LaneResult :=
    let u := LaRule.cvtSrc f
    some { n := f.ty.regs, dep := dep f scaled, old := false, val := fun x g =>
      elemsInOrder f.ty (fun e g => one f (shift x) (elemAt u.width x.a (f.imm32.toNat % 8 * f.ty.count + e)) g) g }
  let input {α : Type} (a b d e : α) (t : Tok) : α := match t with | .b => b | .c => d | .d => e | _ => a
  let lower (x y : FVal) : FVal := if x.isNan || y.isNan then .nan else if FVal.below y x then y else x
  let upper (x y : FVal) : FVal := if x.isNan || y.isNan then .nan else if FVal.below x y then y else x
  let expr (f : LX) : Option LaneResult :=
    let t := XType.lane f.ty
    let used := f.toks.contains .d
    if t = .i32 then
      some { n := 1, dep := false, old := used, val := fun x g =>
        let v (n : Nat) : Int := signed 32 n
        let step (_ : Bool) : Tok → List Int → List Int := exprStack 0 (input (v x.a) (v x.b) (v x.c) (v x.d))
          (fun t x => match t with | .neg => -x | .abs => max x (-x) | _ => max 0 (min x 1))
          (fun t y x => match t with | .add => y + x | .sub => y - x | .mul => y * x | .min => min y x | _ => max y x)
          (fun x y z => x * y + z)
        ((exprValue 0 step (fun r => signed 32 (r % (2 ^ 32 : Nat)).toNat) f.toks % (2 ^ 32 : Nat)).toNat, g) }
    else
      let m := typeFmt t
      let mode := rmodeRnd c.clause.rmode m.cls
      let computes := f.toks.any Tok.computes
      some { n := 1, dep := mode == 5 && computes, old := used, val := fun x g => elemsInOrder t (fun e g =>
        let v (n : Nat) : FVal := m.decodeIn (ftzmIn c.clause.ftzm m.cls) (elemAt t.width n e)
        let step (last : Bool) : Tok → List FVal → List FVal :=
          let rdn := last && mode == 2
          exprStack .nan (input (v x.a) (v x.b) (v x.c) (v x.d))
            (fun t x => match t with
              | .neg => x.neg | .abs => x.abs
              | _ => if FVal.lt .zero x then (if FVal.lt (.fin false 1 0) x then .fin false 1 0 else x) else .zero)
            (fun t y x => match t with
              | .add => FVal.sum rdn [y, x] | .sub => FVal.sum rdn [y, x.neg] | .mul => y.mul x | .min => lower y x | _ => upper y x)
            (fun x y z => FVal.sum rdn [x.mul y, z])
        let r := exprValue .zero step (fun r => FFmt.f32.decode (FFmt.f32.round 0 false 0 r)) f.toks
        let sat := rmodeSat c.clause.rmode m.cls
        if computes then c.roundTo m mode sat r g else (m.flush (ftzmOut c.clause.ftzm m.cls) (m.round 0 sat 0 r), g)) g }
  match i with
  | .rcp f => special f .rcp
  | .rsq f => special f .rsq
  | .sqrt f => special f .sqrt
  | .exp2 f => special f .exp2
  | .log2 f => special f .log2
  | .sin f => special f .sin
  | .cos f => special f .cos
  | .tanh f => special f .tanh
  | .erf f => special f .erf
  | .cvt f => conv f (fun _ => 0) false
  | .cvtb f => conv f (fun x => signed 8 (if f.imm then x.b / 256 else x.b)) true
  | .pack f =>
    let u := LaRule.cvtSrc f
    let first := 2 * (f.imm32.toNat % 8) * u.count
    some { n := f.ty.regs, dep := dep f false, old := true, val := fun x g =>
      elemsInOrder f.ty (fun e g =>
        if first ≤ e ∧ e < first + u.count then one f 0 (elemAt u.width x.a (e - first)) g
        else if first + u.count ≤ e ∧ e < first + 2 * u.count then one f 0 (elemAt u.width x.b (e - first - u.count)) g
        else (elemAt f.ty.width x.d e, g)) g }
  | .unpk f =>
    let t := f.ty
    let q := t.count / 4
    some { n := q, dep := false, old := false, val := fun x g =>
      (((List.range t.count).map fun e =>
        unpackElem t (if t.isPlanar then 4 * elemAt 4 x.a e + elemAt 2 x.b e else elemAt 4 x.a e) *
          2 ^ (if f.fmod.getLsbD 0 then 32 * (e % q) + 8 * (e / q) else 8 * e)).sum, g) }
  | .sel f => some { n := f.ty.regs, dep := false, old := false, val := fun x g => (if (x.c == 1) != f.cneg then x.a else x.b, g) }
  | .pmov f => if f.fmod = 0 then word (lanesOf f.a f.aneg (BitVec.allOnes 32)) else none
  | .vote f => if f.fmod = 0 then word (lanesOf f.a f.aneg c.em) else none
  | .ivmk f =>
    let e := typeElem f.ty
    let low (x : Nat) : Nat := if codeNan e x then codeInf e true else x
    let high (x : Nat) : Nat := if codeNan e x then codeInf e false else x
    some { n := f.ty.regs, dep := false, old := false, val := fun x g =>
      (ofElems f.ty.width f.ty.count fun k =>
        let a := low (elemAt f.ty.width x.a k)
        let b := low (elemAt f.ty.width x.b k)
        let top := high (elemAt f.ty.width x.c k)
        let m := if codeBelow e a b then b else a
        if codeBelow e top m then top else m, g) }
  | .qcnt f =>
    let q := queueOf c.group (f.a.toNat - 96)
    if q.depth = 0 then none else word (if f.fmod.getLsbD 0 then q.depth - q.entries.length else q.entries.length)
  | .lclk f =>
    if f.fmod.getLsbD 0 then some { n := 1, dep := false, old := false, val := fun _ g => ((draw g).2, (draw g).1) }
    else word ((s.core c.core).cycle % 2 ^ 32)
  | .expr f => expr f
  | _ => none

/-- A predicate result of a lane instruction (R136, R138, R139, R224, R279), from the operands of a lane. -/
def lanePred (c : LaneCtx) (i : Instr) (x : Fin 32 → Args) (l : Fin 32) : Option Bool :=
  let holds (p : BitVec 7) (neg : Bool) (l : Fin 32) : Bool := (c.group.pred p.toNat).has l != neg
  let compare (fm : Nat) (ordered : Bool) (lt eq : Bool) : Bool :=
    match fm with
    | 0 => ordered && eq
    | 1 => !(ordered && eq)
    | 2 => ordered && lt
    | 3 => ordered && (lt || eq)
    | 4 => ordered && !(lt || eq)
    | 5 => ordered && !lt
    | 6 => ordered
    | _ => !ordered
  match i with
  | .icmp f =>
    let a := intOf f.ty (x l).a
    let b := intOf f.ty (x l).b
    some (compare f.fmod.toNat true (a < b) (a = b) && holds f.c f.cneg l)
  | .fcmp f =>
    let m := typeFmt f.ty
    let a := m.decodeIn (ftzmIn c.clause.ftzm m.cls) (signMod m f.aneg f.aabs (x l).a)
    let b := m.decodeIn (ftzmIn c.clause.ftzm m.cls) (signMod m f.bneg false (x l).b)
    some (compare f.fmod.toNat (!a.isNan && !b.isNan) (FVal.lt a b) (FVal.eq a b) && holds f.c f.cneg l)
  | .pset f =>
    match f.fmod.toNat with
    | 0 => some (holds f.a f.aneg l && holds f.b f.bneg l)
    | 1 => some (holds f.a f.aneg l || holds f.b f.bneg l)
    | 2 => some (holds f.a f.aneg l != holds f.b f.bneg l)
    | 3 => some (holds f.a f.aneg l && !holds f.b f.bneg l)
    | _ => some (f.imm32.getLsbD l.val)
  | .pmov f => if f.fmod = 0 then none else some ((x l).a != 0)
  | .vote f =>
    if f.fmod = 0 then none
    else if f.fmod = 1 then some ((List.finRange 32).any fun j => c.em.has j && holds f.a f.aneg j)
    else some ((List.finRange 32).all fun j => !c.em.has j || holds f.a f.aneg j)
  | .ivtest f =>
    let e := typeElem f.ty
    some (((List.range f.ty.count).all fun k =>
      insideCode e (elemAt f.ty.width (x l).a k) (elemAt f.ty.width (x l).b k) (elemAt f.ty.width (x l).c k)) != f.fmod.getLsbD 0)
  | .conf _ => some ((List.finRange 32).any fun j => j < l && c.em.has j && (x j).a == (x l).a)
  | _ => none

/-! Lane instructions in a pass group (R202, R206, R210 to R216). -/

/-- A predicate of a pass group in a lane: decided true or false, or undecided; field 0 is decided true (R202, R206, R213). -/
def Group.decided (g : Group) (n : Nat) (neg : Bool) (l : Fin 32) : Option Bool :=
  let may := n == 0 || (vget g.p (2 * n) 0).has l
  let mayNot := n != 0 && (vget g.p (2 * n + 1) 0).has l
  if may = mayNot then none else some (may != neg)

/-- A lane instruction issues in a pass group (R24, R202, R213): as in element mode; of the clause's mask, or with `all` of the lanes that have
not exited, those that are not UNDECIDED and on which the guard is decided true take part; on none of them is it undecided. -/
abbrev PassReady (s : State) (c : LaneCtx) (i : Instr) (h : LaneHead) (p : PassInfo) : Prop :=
  i.head? = some h ∧ s.laneCtx? = some { c with em := 0 } ∧ s.laneStopped { c with em := 0 } = false ∧ s.epochDue c.team = false ∧
  c.group.pass = some p ∧ c.em ≠ 0 ∧
  ∀ l, let base := (if h.all then c.group.remaining.has l else c.clause.mask.has l) && !p.undecided.has l
    c.em.has l = (base && c.group.decided h.guard.toNat h.gneg l == some true) ∧
    (base = true → c.group.decided h.guard.toNat h.gneg l ≠ none)

/-- What an instruction computes in a pass, lane by lane: the registers of d, the types under which its sources are read, the tag that it
writes, whether its result depends on the lane, whether old d is a source, and a lane's bounds. -/
structure PassResult where
  n   : Nat
  ta  : LType
  tb  : LType
  tc  : LType
  tag : LType
  dep : Bool
  old : Bool
  iv  : IArgs → Bounds

/-- The sources of an instruction as a pass reads them. -/
def PassResult.reads (r : PassResult) : LaneOp :=
  { n := r.n, ta := r.ta, tb := r.tb, tc := r.tc, td := r.tag, tag := r.tag, dep := fun _ => r.dep, old := r.old, f := fun _ _ g => (0, g)
    iv := fun _ => r.iv }

/-- An instruction's bounds reach its destination pair, or a scalar register for one degenerate value in every active lane (R56, R210, R214). -/
def PassComputes (s : State) (c : LaneCtx) (i : Instr) (h : LaneHead) (r : PassResult) : Prop :=
  let T := targetMap ((i.laneFields.drop 1).map c.ivMap ++ if r.old then [c.ivMap (.src r.n, h.d)] else [])
  let D := if T.injective || (c.full && !r.dep) then T else LMap.id
  exec i s = .next ((s.putBounds c h r.n D (fun l => r.iv (c.ivArgs i r.reads l)) fun _ => r.tag).laneDone c)

/-- Registers of bounds computed element by element. -/
def boundsOf (t : LType) (v : Bounds → Bounds → Bounds → Bounds) (x : IArgs) : Bounds :=
  let e (b : Bounds) (k : Nat) : Bounds := (elemAt t.width b.1 k, elemAt t.width b.2 k)
  (ofElems t.width t.count fun k => (v (e x.a k) (e x.b k) (e x.c k)).1, ofElems t.width t.count fun k => (v (e x.a k) (e x.b k) (e x.c k)).2)

/-- Exact integer bounds as an element's: with an exact fit those, under saturation clamped to the type, otherwise full (R216). -/
def inBounds (t : LType) (sat : Bool) (b : Int × Int) : Bounds :=
  let r := intRange t
  if (r.1 ≤ b.1 ∧ b.2 ≤ r.2) ∨ sat then (inElem t true b.1, inElem t true b.2) else Elem.full (typeElem t)

/-- The least and the greatest of a list of integers. -/
def spanOf (l : List Int) : Int × Int := ((l.min?).getD 0, (l.max?).getD 0)

/-- The bounds of an integer instruction (R216). -/
def passInt (c : LaneCtx) (i : Instr) : Option PassResult :=
  let sat (f : LA) : Bool := satOn f.sat c.clause.rmode 7
  let op (f : LA) (iv : IArgs → Bounds) : PassResult :=
    { n := f.ty.regs, ta := f.ty, tb := f.ty, tc := f.ty, tag := f.ty, dep := false, old := false, iv := iv }
  let ints (f : LA) (b : Bounds) : Int × Int := (intOf f.ty b.1, intOf f.ty b.2)
  let each (f : LA) (v : Int × Int → Int × Int → Int × Int → Int × Int) : Option PassResult :=
    some (op f (boundsOf f.ty fun p q r => inBounds f.ty (sat f) (v (ints f p) (ints f q) (ints f r))))
  let products (a b : Int × Int) : Int × Int := spanOf [a.1 * b.1, a.1 * b.2, a.2 * b.1, a.2 * b.2]
  let count (f : LA) : LType := if f.ty.isPair then .i32 else f.ty
  let shift (f : LA) (ta : LType) (v : Bounds → Nat → Bounds) : Option PassResult :=
    some { op f (fun x => boundsOf f.ty (fun p q _ => if x.b.1 = x.b.2 then v p (q.1 % f.ty.width) else Elem.full (typeElem f.ty)) x) with
           ta := ta, tb := count f }
  let exact (x : IArgs) : Option Nat := if x.point then (laneInt c i).map fun r => (r.val x.lows 1).1 else none
  let exactOr (f : LA) (other : IArgs → Bounds) : PassResult :=
    op f fun x => match exact x with | some v => (v, v) | none => other x
  match i with
  | .iadd f => each f fun a b _ => (a.1 + b.1, a.2 + b.2)
  | .isub f => each f fun a b _ => (a.1 - b.2, a.2 - b.1)
  | .imul f => each f fun a b _ => products a b
  | .imad f => each f fun a b d => ((products a b).1 + d.1, (products a b).2 + d.2)
  | .imin f => each f fun a b _ => (min a.1 b.1, min a.2 b.2)
  | .imax f => each f fun a b _ => (max a.1 b.1, max a.2 b.2)
  | .iclamp f => each f fun a b d => (min (max a.1 b.1) d.1, min (max a.2 b.2) d.2)
  | .iabs f => each f fun a _ _ => if 0 ≤ a.1 then a else if a.2 ≤ 0 then (-a.2, -a.1) else (0, max (-a.1) a.2)
  | .imulhi f => some (op f (boundsOf f.ty fun p q _ =>
      let high (v : Int) : Nat := (v / (2 ^ f.ty.width : Nat) % (2 ^ f.ty.width : Nat)).toNat
      (high (products (ints f p) (ints f q)).1, high (products (ints f p) (ints f q)).2)))
  | .lea f => some { op f (fun x =>
      let k := 2 ^ (f.fmod.toNat % 8)
      inBounds f.ty false ((x.a.1 + x.b.1 * k : Nat), (x.a.2 + x.b.2 * k : Nat))) with tb := .n32 }
  | .laneShl f => shift f f.ty fun p n => inBounds f.ty false (intOf f.ty p.1 * (2 ^ n : Nat), intOf f.ty p.2 * (2 ^ n : Nat))
  | .laneShr f => shift f (asUnsigned f.ty) fun p n => (p.1 / 2 ^ n, p.2 / 2 ^ n)
  | .laneSra f =>
    let half (v n : Nat) : Nat := (signed f.ty.width v / (2 ^ n : Nat) % (2 ^ f.ty.width : Nat)).toNat
    shift f (asSigned f.ty) fun p n => (half p.1 n, half p.2 n)
  | .idiv f => some (op f fun x =>
      let a := ints f x.a
      let b := ints f x.b
      let low := (intRange f.ty).1
      if (b.1 ≤ 0 ∧ 0 ≤ b.2) ∨ (low < 0 ∧ a.1 = low ∧ b.1 ≤ -1 ∧ -1 ≤ b.2) then fullRange f.ty
      else
        let q := spanOf [a.1.tdiv b.1, a.1.tdiv b.2, a.2.tdiv b.1, a.2.tdiv b.2]
        ((q.1 % (2 ^ f.ty.width : Nat)).toNat, (q.2 % (2 ^ f.ty.width : Nat)).toNat))
  | .lanePopc f | .laneClz f => some (exactOr f fun _ => (0, 32))
  | .laneAnd f => some (exactOr f fun x => if f.ty = .n32 ∨ f.ty = .n64 then (0, min x.a.2 x.b.2) else fullRange f.ty)
  | .laneOr f | .laneXor f | .not f | .laneBrev f | .bfe f | .bfi f | .iaddc f | .irem f => some (exactOr f fun _ => fullRange f.ty)
  | .rot f => some { exactOr f (fun _ => fullRange f.ty) with tb := count f }
  | .isad f => some { exactOr f (fun _ => fullRange .n32) with n := 1, tc := .n32, tag := .n32 }
  | _ => none

/-- The bounds of a float instruction (R215, R216): the low bound rounded towards minus, the high bound towards plus infinity, flushed
and saturated as values are; full where some choice of values gives NaN. -/
def passFloat (c : LaneCtx) (i : Instr) : Option PassResult :=
  let outward (m : FFmt) (sat : Bool) (v : FVal × FVal) : Bounds :=
    let out (code : Nat) : Nat := m.flush (ftzmOut c.clause.ftzm m.cls) code
    (out (m.round 2 sat 0 v.1), out (m.round 3 sat 0 v.2))
  let range (m : FFmt) (b : Bounds) : Option (FVal × FVal) := floatRange m (ftzmIn c.clause.ftzm m.cls) b
  let sat (f : LA) (m : FFmt) : Bool := satOn f.sat c.clause.rmode m.cls
  let dep (f : LA) (m : FFmt) : Bool := rndMode f.rnd c.clause.rmode m.cls == 5
  let op (f : LA) (dep : Bool) (iv : IArgs → Bounds) : PassResult :=
    { n := f.ty.regs, ta := f.ty, tb := f.ty, tc := f.ty, tag := f.ty, dep := dep, old := false, iv := iv }
  let each (f : LA) (dep : Bool) (v : Bounds → Bounds → Bounds → Option Bounds) : Option PassResult :=
    let m := typeFmt f.ty
    some (op f dep (boundsOf f.ty fun p q r =>
      (v (signBounds m f.aneg f.aabs p) (signBounds m f.bneg false q) (signBounds m f.cneg false r)).getD (m.nan, m.nan)))
  let zeroIn (a : FVal × FVal) : Bool := FVal.le a.1 .zero && FVal.le .zero a.2
  let infIn (a : FVal × FVal) : Bool := a.1.isInf || a.2.isInf
  let product (a b : FVal × FVal) : Option (FVal × FVal) :=
    if (zeroIn a ∧ infIn b) ∨ (infIn a ∧ zeroIn b) then none
    else
      let l := [a.1.mul b.1, a.1.mul b.2, a.2.mul b.1, a.2.mul b.2]
      some (leastF l, greatestF l)
  let total (l : List (FVal × FVal)) : Option (FVal × FVal) :=
    if (List.range l.length).any fun j => (List.range l.length).any fun k => j != k &&
        ((l[j]?).map (·.2) == some (.inf false) && (l[k]?).map (·.1) == some (.inf true)) then none
    else some (FVal.sum true (l.map (·.1)), FVal.sum false (l.map (·.2)))
  let pick (f : LA) : Option PassResult :=
    let m := typeFmt f.ty
    each f false fun p q r =>
      match range m p, range m q, (match i with | .fmid _ => range m r | _ => some (.zero, .zero)) with
      | some a, some b, some d => (match floatValue i false a.1 b.1 d.1, floatValue i false a.2 b.2 d.2 with
        | some lo, some hi => some (outward m false (lo.1, hi.1))
        | _, _ => none)
      | _, _, _ => none
  let whole (mode : Nat) (v : FVal) : FVal := match v with | .fin n k p => .fin n (roundSteps mode n k p 0 0).1 0 | v => v
  let dot (f : LA) : Option PassResult :=
    let m := typeFmt f.ty
    let td : LType := if isInt f.ty then (if f.ty = .i8x4 then .i32 else .n32) else .f32
    let e (b : Bounds) (k : Nat) : Bounds := (elemAt f.ty.width b.1 k, elemAt f.ty.width b.2 k)
    some { n := 1, ta := f.ty, tb := f.ty, tc := td, tag := td, dep := !isInt f.ty && dep f .f32, old := false, iv := fun x =>
      if isInt f.ty then
        let d := (intOf td x.c.1, intOf td x.c.2)
        let d := if f.cneg then (-d.2, -d.1) else d
        let p (k : Nat) : Int × Int :=
          let a := (intOf f.ty (e x.a k).1, intOf f.ty (e x.a k).2)
          let b := (intOf f.ty (e x.b k).1, intOf f.ty (e x.b k).2)
          spanOf [a.1 * b.1, a.1 * b.2, a.2 * b.1, a.2 * b.2]
        let all := List.range f.ty.count
        inBounds td (satOn f.sat c.clause.rmode 7) (d.1 + (all.map fun k => (p k).1).sum, d.2 + (all.map fun k => (p k).2).sum)
      else
        let p (k : Nat) : Option (FVal × FVal) :=
          match range m (signBounds m f.aneg false (e x.a k)), range m (signBounds m f.bneg false (e x.b k)) with
          | some a, some b => product a b
          | _, _ => none
        let terms := range .f32 (signBounds .f32 f.cneg false x.c) :: (List.range f.ty.count).map p
        match (if terms.any Option.isNone then none else total (terms.filterMap id)) with
        | some r => outward .f32 (sat f .f32) r
        | none => (FFmt.f32.nan, FFmt.f32.nan) }
  match i with
  | .fadd f => each f (dep f (typeFmt f.ty)) fun p q _ => do
      return outward (typeFmt f.ty) (sat f (typeFmt f.ty)) (← total [← range (typeFmt f.ty) p, ← range (typeFmt f.ty) q])
  | .fsub f => each f (dep f (typeFmt f.ty)) fun p q _ => do
      let b ← range (typeFmt f.ty) q
      return outward (typeFmt f.ty) (sat f (typeFmt f.ty)) (← total [← range (typeFmt f.ty) p, (b.2.neg, b.1.neg)])
  | .fmul f => each f (dep f (typeFmt f.ty)) fun p q _ => do
      return outward (typeFmt f.ty) (sat f (typeFmt f.ty)) (← product (← range (typeFmt f.ty) p) (← range (typeFmt f.ty) q))
  | .ffma f => each f (dep f (typeFmt f.ty)) fun p q r => do
      let ab ← product (← range (typeFmt f.ty) p) (← range (typeFmt f.ty) q)
      return outward (typeFmt f.ty) (sat f (typeFmt f.ty)) (← total [ab, ← range (typeFmt f.ty) r])
  | .fmin f | .fmax f | .fminnum f | .fmid f => pick f
  | .frnd f => each f false fun p _ _ => (range (typeFmt f.ty) p).map fun a => outward (typeFmt f.ty) false (whole 2 a.1, whole 3 a.2)
  | .fscale f =>
    let m := typeFmt f.ty
    let tb : LType := if f.ty = .f16x2 ∨ f.ty = .bf16x2 then .i16x2 else .i32
    let n (b k : Nat) : Int := max (-8192) (min (elemInt tb b k) 8192)
    let r (x : IArgs) (k : Nat) : Bounds :=
      match range m (signBounds m f.aneg f.aabs (elemAt f.ty.width x.a.1 k, elemAt f.ty.width x.a.2 k)) with
      | none => (m.nan, m.nan)
      | some a =>
        let l := [a.1.scale (n x.b.1 k), a.1.scale (n x.b.2 k), a.2.scale (n x.b.1 k), a.2.scale (n x.b.2 k)]
        outward m (sat f m) (leastF l, greatestF l)
    some { op f (dep f m) (fun x => (ofElems f.ty.width f.ty.count fun k => (r x k).1, ofElems f.ty.width f.ty.count fun k => (r x k).2)) with tb := tb }
  | .ffract f =>
    let m := typeFmt f.ty
    let one := m.bias * 2 ^ m.mbits
    let below (code : Nat) : Nat := if one ≤ code ∧ code < m.inf then one - 1 else code
    let part (v : FVal) : FVal := match v with
      | .fin n k p =>
        let r := FVal.sum false [.fin n k p, FVal.ofInt (-(FVal.roundInt 2 0 (.fin n k p)))]
        if r.isZero then .zero else r
      | _ => .nan
    some (op f (dep f m) fun x => boundsOf f.ty (fun p _ _ =>
      match range m (signBounds m f.aneg f.aabs p) with
      | none => (m.nan, m.nan)
      | some a => if infIn a then (m.nan, m.nan)
        else if x.a.1 = x.a.2 then (let r := outward m false (part a.1, part a.1); (below r.1, below r.2)) else (0, one - 1)) x)
  | .fclass f =>
    let m := typeFmt f.ty
    some { op f false (fun x => match x.point, (laneFloat c i), (List.range f.ty.count).any fun k => (m.decode (elemAt f.ty.width x.a.1 k)).isNan with
      | true, some r, false => ((r.val x.lows 1).1, (r.val x.lows 1).1)
      | _, _, _ => fullRange .n32) with n := 1, tag := .n32 }
  | .fcopysign f =>
    let m := typeFmt f.ty
    some (op f false fun x => boundsOf f.ty (fun p q _ =>
      let a := signBounds m f.aneg f.aabs p
      let b := signBounds m f.bneg false q
      let r := a.1 % m.sign + (if m.sign ≤ b.1 then m.sign else 0)
      if x.point = true ∧ (m.decode a.1).isNan = false ∧ (m.decode b.1).isNan = false then (r, r) else (m.nan, m.nan)) x)
  | .fdot2 f | .fdot4 f => dot f
  | _ => none

/-- The bounds of a special function, a conversion or another instruction that gives one tag (R138, R139, R149, R215, R216, R225). -/
def passOther (c : LaneCtx) (i : Instr) : Option PassResult :=
  let op (f : LA) (iv : IArgs → Bounds) : PassResult :=
    { n := f.ty.regs, ta := f.ty, tb := f.ty, tc := f.ty, tag := f.ty, dep := false, old := false, iv := iv }
  let special (f : LA) (fn : SpecialFn) : Option PassResult :=
    let m := typeFmt f.ty
    let sat := satOn f.sat c.clause.rmode m.cls
    let one := m.round 0 false 0 (.fin false 1 0)
    let outward (lo hi : FVal) : Bounds :=
      (m.flush (ftzmOut c.clause.ftzm m.cls) (m.round 2 sat 0 lo), m.flush (ftzmOut c.clause.ftzm m.cls) (m.round 3 sat 0 hi))
    let bounds (x : IArgs) (p : Bounds) : Bounds :=
      match floatRange m (ftzmIn c.clause.ftzm m.cls) p with
      | none => (m.nan, m.nan)
      | some a =>
        match fn with
        | .sin | .cos =>
          if a.1.isInf ∨ a.2.isInf then (m.nan, m.nan)
          else if x.a.1 = x.a.2 then (let r := (c.specialElem f fn p.1 1).1; (r, r)) else (m.sign + one, one)
        | .rcp => if FVal.le a.1 .zero ∧ FVal.le .zero a.2 then (m.nan, m.nan) else outward (fn.value a.2) (fn.value a.1)
        | .rsq =>
          if FVal.lt a.1 .zero then (m.nan, m.nan)
          else outward (if a.1.isZero ∧ a.1.isNeg then .inf true else fn.outer m false a.2)
            (if a.1.isZero ∧ ¬ (a.2.isZero ∧ a.2.isNeg) then .inf false else fn.outer m true a.1)
        | .sqrt | .log2 => if FVal.lt a.1 .zero then (m.nan, m.nan) else outward (fn.outer m false a.1) (fn.outer m true a.2)
        | _ => outward (fn.outer m false a.1) (fn.outer m true a.2)
    some { op f (fun x => boundsOf f.ty (fun p _ _ => bounds x (signBounds m f.aneg f.aabs p)) x) with
           dep := fn.exact && rndMode f.rnd c.clause.rmode m.cls == 5 }
  let conv (f : LA) (shifts : IArgs → Int × Int) (scaled old : Bool) (source : Nat → Option (Bool × Nat)) : Option PassResult :=
    let u := LaRule.cvtSrc f
    let m := typeElem f.ty
    let sat := satOn f.sat c.clause.rmode m.cls
    let one (k : Int × Int) (p : Bounds) : Bounds :=
      let ks : List Int := if k = (-128, -128) then [] else if k.1 = -128 then [-127, k.2] else [k.1, k.2]
      let v : Option (FVal × FVal) := match typeElem u with
        | .flt w => floatRange w (ftzmIn c.clause.ftzm w.cls) p
        | w => some (w.decode p.1, w.decode p.2)
      if ks = [] then (0, 0)
      else match v with
        | none => Elem.full m
        | some v =>
          let l := ks.flatMap (fun j => [v.1.scale j, v.2.scale j]) ++ if k.1 = -128 then [FVal.zero] else []
          match m with
          | .flt w =>
            let lo := w.flush (ftzmOut c.clause.ftzm w.cls) (w.round 2 sat 0 (leastF l))
            let hi := w.flush (ftzmOut c.clause.ftzm w.cls) (w.round 3 sat 0 (greatestF l))
            if (w.decode lo).isNan ∨ (w.decode hi).isNan then (w.nan, w.nan) else (lo, hi)
          | _ =>
            if (typeElem u).isFlt then
              let code (mode : Nat) (x : FVal) : Nat :=
                (x.toRange mode 0 (intRange f.ty).1 (intRange f.ty).2 % (2 ^ f.ty.width : Nat)).toNat
              (code 2 (leastF l), code 3 (greatestF l))
            else (inElem f.ty sat ((leastF l).roundInt 2 0), inElem f.ty sat ((greatestF l).roundInt 3 0))
    let el (b : Bounds) (w k : Nat) : Bounds := (elemAt w b.1 k, elemAt w b.2 k)
    let elem (x : IArgs) (e : Nat) : Bounds := match source e with
      | some (second, k) => one (shifts x) (el (if second then x.b else x.a) u.width k)
      | none => el x.d f.ty.width e
    some { n := f.ty.regs, ta := u, tb := if scaled then .i32 else u, tc := f.ty, tag := f.ty
           dep := (scaled || (typeElem u).isFlt || m.isFlt) && rndMode f.rnd c.clause.rmode m.cls == 5, old := old
           iv := fun x => (ofElems f.ty.width f.ty.count fun e => (elem x e).1, ofElems f.ty.width f.ty.count fun e => (elem x e).2) }
  let word (f : LA) (t : LType) (iv : IArgs → Bounds) : Option PassResult := some { op f iv with n := 1, tag := t }
  match i with
  | .rcp f => special f .rcp
  | .rsq f => special f .rsq
  | .sqrt f => special f .sqrt
  | .exp2 f => special f .exp2
  | .log2 f => special f .log2
  | .sin f => special f .sin
  | .cos f => special f .cos
  | .tanh f => special f .tanh
  | .erf f => special f .erf
  | .cvt f => conv f (fun _ => (0, 0)) false false fun e => some (false, f.imm32.toNat % 8 * f.ty.count + e)
  | .cvtb f =>
    let k (b : Nat) : Int := signed 8 (if f.imm then b / 256 else b)
    conv f (fun x =>
      if f.imm ∨ x.b.1 = x.b.2 then (k x.b.1, k x.b.1)
      else if -128 ≤ signed 32 x.b.1 ∧ signed 32 x.b.2 ≤ 127 then (signed 32 x.b.1, signed 32 x.b.2) else (-128, 127))
      true false fun e => some (false, f.imm32.toNat % 8 * f.ty.count + e)
  | .pack f =>
    let n := (LaRule.cvtSrc f).count
    let first := 2 * (f.imm32.toNat % 8) * n
    conv f (fun _ => (0, 0)) false true fun e =>
      if first ≤ e ∧ e < first + n then some (false, e - first)
      else if first + n ≤ e ∧ e < first + 2 * n then some (true, e - first - n) else none
  | .unpk f =>
    let t := f.ty
    let q := t.count / 4
    let all (v : Nat) : Nat := ((List.range t.count).map fun e =>
      unpackElem t (elemAt 4 v e) * 2 ^ (if f.fmod.getLsbD 0 then 32 * (e % q) + 8 * (e / q) else 8 * e)).sum
    if t.isPlanar then none else some { op f (fun x => (all x.a.1, all x.a.2)) with n := q, tag := unpackType t }
  | .ivmk f =>
    let e := typeElem f.ty
    let whole (b : Bounds) : Bounds :=
      match e with
      | .flt m => if (floatRange m false b).isNone then (codeInf e true, codeInf e false) else b
      | _ => b
    let clamp (a b d : Nat) : Nat :=
      let m := if codeBelow e a b then b else a
      if codeBelow e d m then d else m
    some (op f (boundsOf f.ty fun a b d =>
      (clamp (whole a).1 (whole b).1 (whole d).1, clamp (whole a).2 (whole b).2 (whole d).2)))
  | .ivlo f | .ivhi f =>
    some (op f fun x => boundsOf f.ty (fun a _ _ => match typeElem f.ty with
      | .flt m => if (floatRange m false a).isNone then (m.nan, m.nan) else a
      | _ => a) x)
  | .lclk f => word f .n32 fun _ => (0, 2 ^ 32 - 1)
  | .expr f =>
    let t := XType.lane f.ty
    let m := typeFmt t
    let input {α : Type} (a b d e : α) (t : Tok) : α := match t with | .b => b | .c => d | .d => e | _ => a
    let ints (x : IArgs) : Bounds :=
      let v (b : Bounds) : Int × Int := (signed 32 b.1, signed 32 b.2)
      let r := intRange .i32
      let fit (b : Int × Int) : Int × Int := if r.1 ≤ b.1 ∧ b.2 ≤ r.2 then b else r
      let products (a b : Int × Int) : Int × Int := spanOf [a.1 * b.1, a.1 * b.2, a.2 * b.1, a.2 * b.2]
      let step (_ : Bool) : Tok → List (Int × Int) → List (Int × Int) :=
        exprStack (0, 0) (input (v x.a) (v x.b) (v x.c) (v x.d))
          (fun t a => match t with
            | .neg => fit (-a.2, -a.1)
            | .abs => fit (if 0 ≤ a.1 then a else if a.2 ≤ 0 then (-a.2, -a.1) else (0, max (-a.1) a.2))
            | _ => (max 0 (min a.1 1), max 0 (min a.2 1)))
          (fun t y x => match t with
            | .add => fit (y.1 + x.1, y.2 + x.2) | .sub => fit (y.1 - x.2, y.2 - x.1) | .mul => fit (products y x)
            | .min => (min y.1 x.1, min y.2 x.2) | _ => (max y.1 x.1, max y.2 x.2))
          (fun x y z => fit ((products x y).1 + z.1, (products x y).2 + z.2))
      let b := exprValue (0, 0) step id f.toks
      ((b.1 % (2 ^ 32 : Nat)).toNat, (b.2 % (2 ^ 32 : Nat)).toNat)
    let sat := rmodeSat c.clause.rmode m.cls
    let floats (x : IArgs) (e : Nat) : Bounds :=
      let v (b : Bounds) : Range := floatRange m (ftzmIn c.clause.ftzm m.cls) (elemAt t.width b.1 e, elemAt t.width b.2 e)
      let both (y x : Range) (g : FVal × FVal → FVal × FVal → Range) : Range := y.bind fun y => x.bind fun x => g y x
      let lower (x y : FVal) : FVal := if FVal.below y x then y else x
      let upper (x y : FVal) : FVal := if FVal.below x y then y else x
      let step (_ : Bool) : Tok → List Range → List Range :=
        exprStack none (input (v x.a) (v x.b) (v x.c) (v x.d))
          (fun t a => match t with
            | .neg => a.map fun a => (a.2.neg, a.1.neg)
            | .abs => a.map fun a => if ¬ a.1.isNeg then a else if a.2.isNeg then (a.2.neg, a.1.neg) else (.zero, upper a.1.neg a.2)
            | _ => (match a with | some a => some (sat01 a.1, sat01 a.2) | none => some (.zero, .fin false 1 0)))
          (fun t y x => match t with
            | .add => both y x fun y x => sumRange [y, x]
            | .sub => both y x fun y x => sumRange [y, (x.2.neg, x.1.neg)]
            | .mul => both y x mulRange
            | .min => both y x fun y x => some (lower y.1 x.1, lower y.2 x.2)
            | _ => both y x fun y x => some (upper y.1 x.1, upper y.2 x.2))
          (fun x y z => both x y fun x y => (mulRange x y).bind fun p => z.bind fun z => sumRange [p, z])
      let keep (r : Range) : Range := r.map fun v =>
        (FFmt.f32.decode (FFmt.f32.round 2 false 0 v.1), FFmt.f32.decode (FFmt.f32.round 3 false 0 v.2))
      match exprValue none step keep f.toks with
      | some r => (m.flush (ftzmOut c.clause.ftzm m.cls) (m.round 2 sat 0 r.1), m.flush (ftzmOut c.clause.ftzm m.cls) (m.round 3 sat 0 r.2))
      | none => (m.nan, m.nan)
    some { n := 1, ta := t, tb := t, tc := t, tag := t, dep := t != .i32 && (rmodeRnd c.clause.rmode m.cls == 5 && f.toks.any Tok.computes)
           old := f.toks.contains .d
           iv := fun x => if t = .i32 then ints x
             else (ofElems t.width t.count fun e => (floats x e).1, ofElems t.width t.count fun e => (floats x e).2) }
  | _ => none

/-- Three-valued and, exclusive or and complement (R213, R216). -/
def and3 (a b : Option Bool) : Option Bool := if a = some false ∨ b = some false then some false else if a = some true ∧ b = some true then some true else none
def xor3 (a b : Option Bool) : Option Bool := match a, b with | some a, some b => some (a != b) | _, _ => none

/-- The state after a lane instruction of a pass has written a three-valued predicate: a pair for each active lane, which may be true and
may be false; field 0 is not written (R202, R206, R213). -/
def passWrites (s : State) (c : LaneCtx) (d : Nat) (v : Fin 32 → Option Bool) : State :=
  (s.modGroup c.team.id c.group.gid fun g =>
    { g with p := Vector.ofFn fun j =>
        let may := Mask.gen fun l => v l != some false
        let mayNot := Mask.gen fun l => v l != some true
        if d ≠ 0 ∧ j.val = 2 * d then (g.p[j] &&& ~~~c.em) ||| (may &&& c.em)
        else if d ≠ 0 ∧ j.val = 2 * d + 1 then (g.p[j] &&& ~~~c.em) ||| (mayNot &&& c.em) else g.p[j] }).laneDone c

/-- A predicate that a lane instruction gives in a pass from other predicates or the bounds of its sources (R216, R225). -/
def passPred (c : LaneCtx) (i : Instr) (l : Fin 32) : Option (Option Bool) :=
  let p (v : BitVec 7) (neg : Bool) : Option Bool := c.group.decided v.toNat neg l
  match i with
  | .pset f =>
    some (match f.fmod.toNat with
      | 0 => and3 (p f.a f.aneg) (p f.b f.bneg)
      | 1 => (and3 ((p f.a f.aneg).map not) ((p f.b f.bneg).map not)).map not
      | 2 => xor3 (p f.a f.aneg) (p f.b f.bneg)
      | 3 => and3 (p f.a f.aneg) ((p f.b f.bneg).map not)
      | _ => some (f.imm32.getLsbD l.val))
  | .vote f => if f.fmod = 0 then none else some (p f.a f.aneg)
  | .pmov f =>
    let a := (c.ivTyped i .b32 l).a
    if f.fmod = 0 then none else some (if a.1 ≠ 0 then some true else if a = (0, 0) then some false else none)
  | .fcmp f =>
    let m := typeFmt f.ty
    let x := c.ivTyped i f.ty l
    let fin := ftzmIn c.clause.ftzm m.cls
    let v : Option Bool := match floatRange m fin (signBounds m f.aneg f.aabs x.a), floatRange m fin (signBounds m f.bneg false x.b) with
      | some a, some b =>
        let lt : Option Bool := if FVal.lt a.2 b.1 then some true else if ¬ FVal.lt a.1 b.2 then some false else none
        let le : Option Bool := if FVal.le a.2 b.1 then some true else if ¬ FVal.le a.1 b.2 then some false else none
        let eq : Option Bool :=
          if FVal.eq a.1 b.1 ∧ FVal.eq a.1 b.2 ∧ FVal.eq a.2 b.1 ∧ FVal.eq a.2 b.2 then some true
          else if FVal.lt a.2 b.1 ∨ FVal.lt b.2 a.1 then some false else none
        match f.fmod.toNat with
        | 0 => eq | 1 => eq.map not | 2 => lt | 3 => le | 4 => le.map not | 5 => lt.map not | 6 => some true | _ => some false
      | _, _ => none
    some (and3 v (p f.c f.cneg))
  | .ivtest f =>
    let e := typeElem f.ty
    let x := c.ivTyped i f.ty l
    let el (b : Bounds) (k : Nat) : Bounds := (elemAt f.ty.width b.1 k, elemAt f.ty.width b.2 k)
    let less (x y : Nat) : Bool := match e with | .flt m => FVal.lt (m.decode x) (m.decode y) | e => e.int x < e.int y
    let nan (b : Bounds) : Bool := match e with | .flt m => (floatRange m false b).isNone | _ => false
    let whole (b : Bounds) : Bounds := if nan b then (codeInf e true, codeInf e false) else b
    let one (a b d : Bounds) : Option Bool :=
      if ¬ (nan a ∨ nan b ∨ nan d) ∧ ¬ less a.1 b.2 ∧ ¬ less d.1 a.2 then some true
      else if ¬ nan a ∧ (less a.2 (whole b).1 ∨ less (whole d).2 a.1) then some false else none
    let all := (List.range f.ty.count).foldl (fun t k => and3 t (one (el x.a k) (el x.b k) (el x.c k))) (some true)
    some (if f.fmod.getLsbD 0 then all.map not else all)
  | _ => none

/-- The selector of a map edit, the lane of a that each lane receives (R145, R146, R190). -/
def laneSelector (c : LaneCtx) (i : Instr) : Option (LA × (Fin 32 → Fin 32)) :=
  let lane (n : Nat) : Fin 32 := Fin.ofNat 32 n
  match i with
  | .shfl f | .mapset f => some (f, fun l => lane (c.sources i).b.vals[l])
  | .shfli f =>
    let n := f.imm32.toNat % 32
    some (f, fun l => match f.fmod.toNat with
      | 0 => if l.val < n then l else lane (l.val - n)
      | 1 => if 31 < l.val + n then l else lane (l.val + n)
      | 2 => lane (l.val ^^^ n)
      | 3 => lane ((l.val + n) % 32)
      | _ => lane (l.val ^^^ (l.val / 2 ^ (f.imm32.toNat / 256 % 8) % 2 ^ (f.imm32.toNat / 65536 % 8) * 2 ^ (f.imm32.toNat % 8))))
  | .bcast f => some (f, fun _ => lane (f.imm32.toNat % 32))
  | .compact f =>
    let p (l : Fin 32) : Bool := (c.group.pred f.c.toNat).has l != f.cneg
    let kind (l : Fin 32) : Nat := if c.em.has l then (if p l then 0 else 1) else 2
    let before (j l : Fin 32) : Bool := kind j < kind l || (kind j == kind l && j < l)
    some (f, fun l => ((List.finRange 32).find? fun j => (List.finRange 32).countP (before · j) == l.val).getD l)
  | .permld f => some (f, fun l => lane (c.record f.b.toNat / 2 ^ (5 * l.val) % 32))
  | _ => none

/-- The lanes of a map edit in a pass whose index, predicate or record is not degenerate (R148, R190). -/
def looseLanes (c : LaneCtx) : Instr → Mask
  | .shfl f | .mapset f => Mask.gen fun l => c.em.has l && f.b.toNat < 96 && (c.group.rawPair f.b.toNat 1 l).1 != (c.group.rawPair f.b.toNat 1 l).2
  | .compact f => Mask.gen fun l => c.em.has l && (c.group.decided f.c.toNat f.cneg l).isNone
  | .permld f =>
    if (List.range 8).all fun j =>
      (c.group.vreg (2 * (f.b.toNat + j))).read 0 == (c.group.vreg (2 * (f.b.toNat + j) + 1)).read 0 then 0 else c.em
  | _ => 0

/-- The selector of a map edit in a pass, with the lanes that remain active. -/
def passSelector (c : LaneCtx) (i : Instr) : Option (LA × (Fin 32 → Fin 32)) :=
  let c := { c with em := c.em &&& ~~~looseLanes c i }
  match i with
  | .shfl f | .mapset f => some (f, fun l => Fin.ofNat 32 (c.ivField (.src 1, f.b) .b32 l).1)
  | .compact f =>
    let kind (l : Fin 32) : Nat := if c.em.has l then (if c.group.decided f.c.toNat f.cneg l = some true then 0 else 1) else 2
    let before (j l : Fin 32) : Bool := kind j < kind l || (kind j == kind l && j < l)
    some (f, fun l => ((List.finRange 32).find? fun j => (List.finRange 32).countP (before · j) == l.val).getD l)
  | i => laneSelector c i

/-- A lane of a scan (R192): the values of the active lanes truncated towards zero to multiples of 2^E and summed from lane 0 up to the lane, or
from the lane to lane 31. -/
def scanLane (t : LType) (upTo : Bool) (em : Mask) (x : Fin 32 → FVal) (k : Fin 32) : WLane :=
  let v (l : Fin 32) : FVal := if em.has l then x l else .zero
  let top : Option Int := ((List.finRange 32).filterMap fun l => match v l with
    | .fin _ m e => if m = 0 then none else some ((Nat.log2 m : Int) + e)
    | _ => none).max?
  let base : Int := match t with
    | .f16x2 => (top.map (· - 104)).getD (-24)
    | .bf16x2 => (top.map (· - 104)).getD (-133)
    | .e4m3x4 => -9 | .e5m2x4 => -16 | .e3m2x16 => -4 | .e2m3x16 => -3 | .e2m1x8 => -1 | _ => 0
  let part (l : Fin 32) : Int := match v l with
    | .fin n m e => let a : Nat := if base ≤ e then m * 2 ^ (e - base).toNat else m / 2 ^ (base - e).toNat; if n then -a else a
    | _ => 0
  let drops (l : Fin 32) : Bool := match v l with | .fin _ m e => e < base && m % 2 ^ (base - e).toNat != 0 | _ => false
  let lanes := (List.finRange 32).filter fun l => if upTo then l ≤ k else k ≤ l
  holdWide (lanes.map part).sum base base ((List.finRange 32).any fun l => (v l).isNan || (v l).isInf) ((List.finRange 32).any drops)

/-- The lane that `dacc` computes from a record that is not the all-zero block (R152, R165, R193): the steps between the values that occur times
the lanes of ws at their first sorted positions. -/
def daccValue (i4 : Bool) (record : Nat) (ws : Fin 32 → WLane) : WLane :=
  let stored (j : Nat) : Nat := record / 2 ^ (160 + 6 * j) % 64
  let sum := ((List.range 14).map stored).sum
  let count (j : Nat) : Nat := if j < 14 then stored j else 32 - sum
  let value (j : Nat) : Int :=
    if i4 then (j : Int) - 7 else (([-12, -8, -6, -4, -3, -2, -1, 0, 1, 2, 3, 4, 6, 8, 12] : List Int)[j]?).getD 0
  let occur := (List.range 15).filter fun j => count j ≠ 0
  let before (j : Nat) : Int := match (occur.filter (· < j)).getLast? with | some k => value k | none => 0
  let lane (j : Nat) : WLane := ws (Fin.ofNat 32 ((List.range j).map count).sum)
  let base : Int := ((occur.map fun j => (lane j).e.toInt).min?).getD 0
  let total : Int := (occur.map fun j => (value j - before j) * ((lane j).f.toInt * 2 ^ ((lane j).e.toInt - base).toNat)).sum
  let nonfin := (List.finRange 32).any fun l => (ws l).nonfin
  let loss := (List.finRange 32).any fun l => (ws l).loss
  if 32 < sum then { f := 0, e := 0, nonfin := true, loss := loss }
  else holdWide total (if i4 then base else base - 1) (if i4 then base else base - 1) nonfin loss

/-- A lane of `wrnd` (R164, R194): the exact value times 2^shift and the band, rounded once to the type, with its draw under the stochastic
mode; FTZM is not applied. -/
def wrndLane (c : LaneCtx) (f : LA) (shift : Int) (x : WLane) (band : Option Nat) (g : DWord) : Nat × DWord :=
  let e := typeElem f.ty
  let mode := rndMode f.rnd c.clause.rmode e.cls
  let drawn : Nat × DWord := if mode = 5 then ((draw g).2, (draw g).1) else (0, g)
  let v : FVal := .fin (x.f.toInt < 0) x.f.toInt.natAbs (x.e.toInt + shift)
  let v := match band with | some b => v.mul (FFmt.bf16.decode b) | none => v
  (match e with
   | .flt m => if x.nonfin then m.nan else if shift = -128 then 0 else m.round mode (satOn f.sat c.clause.rmode m.cls) drawn.1 v
   | _ => if x.nonfin ∨ shift = -128 then 0 else match v with
     | .nan => 0
     | .inf n => inElem .i32 true (if n then (intRange .i32).1 else (intRange .i32).2)
     | v => inElem .i32 true (v.roundInt mode drawn.1), drawn.2)

/-- A wide result computed lane by lane from sources with maps (R195). -/
def laneWide (c : LaneCtx) (i : Instr) : Option (LA × List (Option LMap) × (Fin 32 → WLane)) :=
  let w (r : BitVec 7) : WReg := c.group.wreg r
  let add (a b : WLane) (sign : Int) : WLane :=
    let base := min a.e.toInt b.e.toInt
    holdWide (a.f.toInt * 2 ^ (a.e.toInt - base).toNat + sign * (b.f.toInt * 2 ^ (b.e.toInt - base).toNat)) base base
      (a.nonfin || b.nonfin) (a.loss || b.loss)
  match i with
  | .wclr f => some (f, [], fun _ => { f := 0, e := f.imm32.extractLsb' 0 10, nonfin := false, loss := false })
  | .wadd f => some (f, [some (w f.a).map, some (w f.b).map], fun l => add ((w f.a).read l) ((w f.b).read l) (if f.fmod = 0 then 1 else -1))
  | .wmov f =>
    let x := c.sources i
    let a (l : Fin 32) : BitVec 32 := BitVec.ofNat 32 x.a.vals[l]
    let k := f.imm32.toNat % 4
    match f.fmod.toNat with
    | 0 => some (f, [some (w f.a).map], fun l => (w f.a).read l)
    | 3 => some (f, [x.a.map, some (w f.h.d).map], fun l =>
        let d := (w f.h.d).read l
        { d with f := BitVec.ofNat 128 (ofWords ((List.range 4).map fun j => if j = k then a l else d.f.extractLsb' (32 * j) 32)) })
    | 4 => some (f, [x.a.map, some (w f.h.d).map], fun l =>
        { ((w f.h.d).read l) with e := (a l).extractLsb' 0 10, nonfin := (a l).getLsbD 31, loss := (a l).getLsbD 30 })
    | _ => none
  | _ => none

/-- A lane memory instruction: its fields, and what the checks see of it (R267, R272, R274, R280). -/
def laneMemory (i : Instr) : Option (LM × MemForm) :=
  let form (reach : Reach) (well : Bool) (size : Nat) (access : Access) (data : BitVec 7) : MemForm :=
    { reach := reach, well := well, size := size, access := access, aop := none, tags := false, data := data }
  let atom (f : LM) (reach : Reach) (well : Bool) : MemForm :=
    { form reach well (if Aop.ofCode f.fmod.toNat = some .xadd then 16 else f.width.bytes)
        (if Aop.ofCode f.fmod.toNat = some .load then .atomLoad else .atomic) 0 with aop := Aop.ofCode f.fmod.toNat }
  match i with
  | .ld f => some (f, form .flat false f.width.bytes .load f.h.d)
  | .ldb f => some (f, form .descr false f.width.bytes .load f.h.d)
  | .lds f => some (f, form .scratch false f.width.bytes .load f.h.d)
  | .ldw f => some (f, form .flat true f.width.bytes .load f.h.d)
  | .st f => some (f, form .flat false f.width.bytes .store f.b)
  | .stb f => some (f, form .descr false f.width.bytes .store f.b)
  | .sts f => some (f, form .scratch false f.width.bytes .store f.b)
  | .stw f => some (f, form .flat true f.width.bytes .store f.b)
  | .tagld f => some (f, { form .flat false 32 .load f.h.d with tags := true })
  | .tagst f => some (f, { form .flat false 32 .store f.b with tags := true })
  | .atom f => some (f, atom f .flat false)
  | .atoms f => some (f, atom f .scratch false)
  | .atomw f => some (f, atom f .flat true)
  | _ => none

/-- A lane load or store may be marked `.nb`, a load sign-extends under `.sx` (R64, R268). -/
def laneMarks : Instr → Bool × Bool
  | .ld f | .ldb f | .lds f | .ldw f => (f.fmod.getLsbD 0, f.fmod.getLsbD 1)
  | .st f | .stb f | .sts f | .stw f => (f.fmod.getLsbD 0, false)
  | _ => (false, false)

/-- The operation of a lane whose access has passed its checks: a load, or an atomic, on no packed page, or a store of W bytes there. -/
def laneMemOp (s : State) (c : LaneCtx) (i : Instr) (f : LM) (m : MemForm) (a : LaneAccess) : MemOp :=
  let x := c.sources i
  let b := x.b.vals[a.lane]
  let home := m.well || m.reach == .scratch
  let o (k : OpKind) : MemOp := s.laneOp c f k a m.size
  let whole (n v : Nat) : List (Byte × Byte) := (natLe n v).map fun y => (y, 0xFF)
  match i with
  | .tagld _ => let t := s.laneOp c f .load a 1; { t with addr := tagKey t.addr }
  | .tagst _ => let t := s.laneOp c f .store a 1; { t with addr := tagKey t.addr, data := whole 1 (b % 16) }
  | .st _ | .stb _ | .sts _ | .stw _ => { o .store with data := whole m.size b }
  | .atom _ | .atoms _ | .atomw _ =>
    (match m.aop with
     | some .load => o (if home then .wellLoad else .load)
     | some .store => { o (if home then .wellStore else .store) with data := whole m.size b }
     | some op => o (.rmw { aop := op, b := b, c := x.c.vals[a.lane], rnd := rmodeRnd c.clause.rmode 1, sat := rmodeSat c.clause.rmode 1
                            f32 := op == .xadd && f.width == .w32 })
     | none => o .load)
  | _ => { o .load with convert := if (laneMarks i).2 then .signed else .bytes }

/-- The address of an access of a pass in a lane, if its operands are degenerate and within their descriptor (R217, R220). -/
def passAddress (c : LaneCtx) (f : LM) (m : MemForm) (l : Fin 32) : Option DWord :=
  match m.reach with
  | .flat =>
    let b := c.ivField (.srcNoQ 2, f.a) .n64 l
    if b.1 = b.2 then some (BitVec.ofNat 64 b.1 + f.off.signExtend 64) else none
  | .descr =>
    match vget c.group.bd f.bd.toNat none with
    | none => none
    | some w =>
      let d := descOf w
      let b := c.ivField (.srcNoQ 1, f.a) .n32 l
      let o : Int := (b.1 * d.stride : Nat) + f.off.toInt
      if b.1 = b.2 ∧ 0 ≤ o ∧ o + m.size ≤ d.size then some (BitVec.ofInt 64 (((d.base + 2 ^ 57 * d.tag : Nat) : Int) + o)) else none
  | .scratch => none

/-- The load that a pass performs in a lane: at a degenerate aligned address on a read-only page, every check passing (R218). -/
def passPerforms (s : State) (c : LaneCtx) (f : LM) (m : MemForm) (sx : Bool) (l : Fin 32) : Option LaneAccess :=
  match passAddress c f m l with
  | none => none
  | some p =>
    match s.lanePage c m sx l p with
    | .ok leaf => if p.toNat % m.size ≠ 0 ∨ leaf.w = true then none else some { lane := l, ptr := p, target := .page leaf }
    | .error _ => none

/-- How the index interval of an `ldb` or `stb` of a pass stands to the descriptor in a lane (R220): some byte is reached, every byte lies
within it. -/
def passReaches (c : LaneCtx) (f : LM) (m : MemForm) (l : Fin 32) (d : Desc) : Prop :=
  let b := c.ivField (.srcNoQ 1, f.a) .n32 l
  ∃ x k : Nat, b.1 ≤ x ∧ x ≤ b.2 ∧ k < m.size ∧
    0 ≤ ((x * d.stride + k : Nat) : Int) + f.off.toInt ∧ ((x * d.stride + k : Nat) : Int) + f.off.toInt < (d.size : Int)
def passWithin (c : LaneCtx) (f : LM) (m : MemForm) (l : Fin 32) (d : Desc) : Prop :=
  let b := c.ivField (.srcNoQ 1, f.a) .n32 l
  ∀ x : Nat, b.1 ≤ x → x ≤ b.2 → 0 ≤ ((x * d.stride : Nat) : Int) + f.off.toInt ∧ ((x * d.stride : Nat) : Int) + f.off.toInt + m.size ≤ d.size

/-- A lane that an `ldb` or `stb` of a pass makes UNDECIDED, and one whose access the descriptor's policy drops (R220). -/
def passLeaves (c : LaneCtx) (f : LM) (m : MemForm) (l : Fin 32) : Prop :=
  m.reach = .descr ∧ ∀ w, vget c.group.bd f.bd.toNat none = some w → ¬ passReaches c f m l (descOf w) ∧ (descOf w).zeros = false
def passDrops (c : LaneCtx) (f : LM) (m : MemForm) (l : Fin 32) : Prop :=
  m.reach = .descr ∧ ∃ w, vget c.group.bd f.bd.toNat none = some w ∧ ¬ passReaches c f m l (descOf w) ∧ (descOf w).zeros = true

/-- The group without lanes that become UNDECIDED: they leave the clauses' masks too (R213). -/
def Group.leaveClauses (g : Group) (m : Mask) : Group :=
  { g.leavePass m with clauses := g.clauses.map fun q => q.map fun x => { x with mask := x.mask &&& ~~~m } }

/-- Registers that a load or atomic writes, none for one without a result. -/
def laneMemRegs : Instr → Option Nat
  | .ld f | .ldb f | .lds f | .ldw f => some f.width.regs
  | .tagld _ => some 1
  | .atom f | .atoms f | .atomw f =>
    (match Aop.ofCode f.fmod.toNat with | some .store | some .xadd => none | _ => some f.width.regs)
  | _ => none

end Sys2Proof.Machine
end

