-- ==== Sys2Proof/Certificates/Slice0/Obligations.lean ====
section
/-! DEFINITION. The statements for the provers. -/

open Sys2Proof Sys2Proof.Machine

/-! Scalar instructions. -/

/-- R97, R98: every register and immediate form of the scalar ALU writes the exact result of its table and goes on at PC + 4, in
element mode and in a pass (R94). -/
def Obligations.ScalarArithmeticResults : Prop :=
  ∀ (s : State) (c : Issuer) (i : Instr) (d : SReg) (v : Word), ScalarReady s c i → aluResult c.read i = some (d, v) →
    exec i s = .next ((s.begun c i).writeRetire (c.begun s i) d v)

/-- R20, R21, R354, R358: in a group that is one set of lanes, a scalar instruction that retires moves the PC, passes the turn on, restarts the
watchdog and counts in a pass; no other field of the machine, no other team, nothing that the team's groups share and no other group changes, but
for the watchdogs of the groups that wait in a `bar` and the epoch's close that is over. -/
def Obligations.RetireUndivided : Prop :=
  ∀ (s : State) (r : SplitRef) (pc : DWord) (g : Group) (p : Split), s.group? r.team r.group = some g → g.whole = true →
    g.split? r.split = some p →
    ∃ g' : Group, (s.retire r pc).group? r.team r.group = some g' ∧ g.sameButScalars g' ∧ g'.s = g.s ∧ g'.tokens = g.tokens ∧
      g'.split? r.split = some { p with set := { p.set with pc := pc } } ∧
      (∀ k, k ≠ r.split → g'.split? k = none) ∧ g'.last = r.split ∧ g'.watch = 0 ∧
      g'.pass = g.pass.map (fun q => { q with issued := q.issued + 1 }) ∧
      SameElsewhere s (s.retire r pc) r.team r.group

/-- R40: s0 reads as zero and discards writes, s1 to s23 are one register for every split of the group, s24 to s31 are the bank of the
split that executes the instruction; a pair is its even register's word below its odd register's, and an instruction that names an odd register as
a pair takes ILLEGAL_ENCODING. -/
def Obligations.ScalarRegisterFile : Prop :=
  (∀ (g : Group) (k : Fin 4) (p : Split) (r : SReg) (v : Word), g.split? k = some p →
    g.readS k 0 = 0 ∧ g.writeS k 0 v = g ∧
    (r ≠ 0 → (g.writeS k r v).readS k r = v) ∧
    (∀ x, x ≠ r → (g.writeS k r v).readS k x = g.readS k x) ∧
    (∀ j q, g.split? j = some q → 0 < r.toNat → r.toNat < 24 → (g.writeS k r v).readS j r = v) ∧
    (∀ j, j ≠ k → 24 ≤ r.toNat → (g.writeS k r v).readS j r = g.readS j r) ∧
    g.readPair k r = BitVec.ofNat 64 ((g.readS k r).toNat + 2 ^ 32 * (g.readS k (r + 1)).toNat)) ∧
  (∀ (s : State) (c : Issuer) (i : Instr), s.issuer? = some c → s.stopped c = false → (∃ r ∈ pairsNamed i, r.toNat % 2 = 1) →
    exec i s = .next (s.scalarFault c (.illegalEncoding, 0) 0))

/-- R97, R98, R105, R107, R116, the frame of the instructions that touch scalar registers alone: an ALU instruction changes its sd, `call`
s31, a branch, `ret`, `bx` and `nop` no register; of the group the PC, the turn, the watchdog and the split's program order may change besides, and
outside the group nothing but other watchdogs and the close of an epoch. -/
def Obligations.ScalarRegisterFrame : Prop :=
  ∀ (s t : State) (c : Issuer) (i : Instr) (ws : List SReg), ScalarReady s c i → plainWrites i = some ws → c.group.whole = true →
    c.inPass = false → jumpAligned c i = true → exec i s = .next t →
    ∃ g' : Group, t.group? c.team.id c.group.gid = some g' ∧ c.group.sameButScalars g' ∧
      (∀ r, r ∉ ws → g'.readS c.ref.split r = c.read r) ∧
      (∃ p', g'.split? c.ref.split = some p' ∧ p'.set.own = c.split.set.own ∧ p'.set.exec = c.split.set.exec ∧ p'.stack = c.split.stack) ∧
      SameElsewhere s t c.team.id c.group.gid

/-- R22, R68, R75, R93, R105, R107: where each branch, call and return goes on, and what `call` saves; a jump through a register whose bits [1:0]
are not zero takes ALIGNMENT at its own PC; `bany`, `ball` and `bnone` in element mode are taken by what the predicate, complemented under the negate
bit, holds on the lanes of EXEC, once no earlier clause of the split can still write it. R202, R209, R213: in a pass these three and `split` send the
decided lanes apart as a split does, the decided-false ones taken for `bnone`, the undecided ones become UNDECIDED and leave EXEC, and a field from 4
up takes INTERVAL_MODE. -/
def Obligations.BranchesAndCalls : Prop :=
  (∀ (s : State) (c : Issuer),
      (∀ off, ScalarReady s c (.b off) → exec (.b off) s = .next (s.jump c (sjTarget c.pc off))) ∧
      (∀ r off, ScalarReady s c (.bz r off) → exec (.bz r off) s =
        .next (if c.read r = 0 then (s.begun c (.bz r off)).jump (c.begun s (.bz r off)) (sjTarget c.pc off)
               else (s.begun c (.bz r off)).retire c.ref (c.pc + 4))) ∧
      (∀ r off, ScalarReady s c (.bnz r off) → exec (.bnz r off) s =
        .next (if c.read r = 0 then (s.begun c (.bnz r off)).retire c.ref (c.pc + 4)
               else (s.begun c (.bnz r off)).jump (c.begun s (.bnz r off)) (sjTarget c.pc off))) ∧
      (∀ off, ScalarReady s c (.call off) → exec (.call off) s =
        .next ((s.modGroup c.team.id c.group.gid fun g => g.writeS c.ref.split 31 (BitVec.ofNat 32 (c.pc.toNat + 4))).retire c.ref
          (sjTarget c.pc off))) ∧
      (ScalarReady s c .ret → (c.read 31).toNat % 4 = 0 → exec .ret s =
        .next ((s.begun c .ret).retire c.ref (c.pc.extractLsb' 32 32 ++ c.read 31))) ∧
      (∀ r, ScalarReady s c (.bx r) → (c.read r).toNat % 4 = 0 → exec (.bx r) s =
        .next ((s.begun c (.bx r)).retire c.ref (c.pc.extractLsb' 32 32 ++ c.read r))) ∧
      (c.inPass = false → ∀ target, s.jump c target = s.retire c.ref target) ∧
      (ScalarReady s c .ret → (c.read 31).toNat % 4 ≠ 0 → exec .ret s =
        .next ((s.begun c .ret).scalarFault (c.begun s .ret) (.alignment, 0) (c.pc.extractLsb' 32 32 ++ c.read 31))) ∧
      (∀ r, ScalarReady s c (.bx r) → (c.read r).toNat % 4 ≠ 0 → exec (.bx r) s =
        .next ((s.begun c (.bx r)).scalarFault (c.begun s (.bx r)) (.alignment, 0) (c.pc.extractLsb' 32 32 ++ c.read r)))) ∧
  (∀ (s : State) (c : Issuer) (p : BitVec 3) (neg : Bool) (off : BitVec 21), c.inPass = false → s.predPending c p.toNat = false →
      let on (l : Fin 32) : Prop := c.exec.has l = true
      let holds (l : Fin 32) : Prop := ((c.group.pred p.toNat).has l != neg) = true
      (ScalarReady s c (.bany p neg off) →
        ((∃ l, on l ∧ holds l) → exec (.bany p neg off) s = .next (s.retire c.ref (sjTarget c.pc off))) ∧
        ((∀ l, on l → ¬ holds l) → exec (.bany p neg off) s = .next (s.retire c.ref (c.pc + 4)))) ∧
      (ScalarReady s c (.ball p neg off) →
        ((∀ l, on l → holds l) → exec (.ball p neg off) s = .next (s.retire c.ref (sjTarget c.pc off))) ∧
        ((∃ l, on l ∧ ¬ holds l) → exec (.ball p neg off) s = .next (s.retire c.ref (c.pc + 4)))) ∧
      (ScalarReady s c (.bnone p neg off) →
        ((∀ l, on l → ¬ holds l) → exec (.bnone p neg off) s = .next (s.retire c.ref (sjTarget c.pc off))) ∧
        ((∃ l, on l ∧ holds l) → exec (.bnone p neg off) s = .next (s.retire c.ref (c.pc + 4))))) ∧
  (∀ (s : State) (c : Issuer) (i : Instr) (p : BitVec 3) (neg way : Bool) (off : BitVec 21) (q : PassInfo),
      (i = .bany p neg off ∧ way = neg ∨ i = .ball p neg off ∧ way = neg ∨ i = .split p neg off ∧ way = neg ∨ i = .bnone p neg off ∧ way = !neg) →
      ScalarReady s c i → c.group.pass = some q →
      (4 ≤ p.toNat → exec i s = .next (s.scalarFault c (.intervalMode, 0) 0)) ∧
      (p.toNat < 4 → s.predPending c p.toNat = false → c.bankBusy = false → s.spillWaits c = false →
        ∀ taken fall : Mask, (∀ l, taken.has l = (c.exec.has l && c.group.tri p.toNat way l == .yes)) →
          (∀ l, fall.has l = (c.exec.has l && c.group.tri p.toNat way l == .no)) →
          ∃ (u : State) (k : Issuer), exec i s = .next (u.divide k taken fall (sjTarget c.pc off)) ∧ SameBytes s u ∧ k.pc = c.pc ∧
            k.ref = c.ref ∧ u.issuerOf c.ref = some k ∧ (∀ l, k.exec.has l = (taken.has l || fall.has l)) ∧
            ∃ q', k.group.pass = some q' ∧ q'.effects = q.effects ∧
              ∀ l, q'.undecided.has l = (q.undecided.has l || (c.exec.has l && c.group.tri p.toNat way l == .unk))))

/-- R17, R18, R20: `split` in element mode: no division when one side is empty; otherwise the taken lanes become the lowest unused split number, or,
with four live splits, an entry on top of the stack, and the others go on at PC + 4; a stack of four first moves its bottom entry to the overflow area,
and takes CONTEXT_AREA with SUB 1 when that cannot be written. At a boundary two splits that stand at one PC, of which neither has issued the
instruction there, become the lower-numbered one, which owns and acts on the lanes of both and keeps its bank.
Model's readings: log entries 29, 30. -/
def Obligations.SplitsDivideAndMerge : Prop :=
  (∀ (s : State) (c : Issuer) (p : BitVec 3) (neg : Bool) (off : BitVec 21), ScalarReady s c (.split p neg off) → c.inPass = false →
      s.predPending c p.toNat = false → c.bankBusy = false →
      ∀ taken fall : Mask, (∀ l, taken.has l = (c.exec.has l && ((c.group.pred p.toNat).has l != neg))) →
        (∀ l, fall.has l = (c.exec.has l && !taken.has l)) →
        let e := c.split.set
        let child : LaneSet := { e with uid := s.fresh, pc := sjTarget c.pc off, own := taken, exec := taken, ran := [] }
        let rest : Split := { c.split with set := { e with own := e.own &&& ~~~taken, exec := fall } }
        (taken = 0 → exec (.split p neg off) s = .next (s.retire c.ref (c.pc + 4))) ∧
        (taken ≠ 0 → fall = 0 → exec (.split p neg off) s = .next (s.retire c.ref (sjTarget c.pc off))) ∧
        (taken ≠ 0 → fall ≠ 0 → ∀ k, c.group.split? k = none → (∀ j, j < k → c.group.split? j ≠ none) →
          exec (.split p neg off) s = .next ((({ s with fresh := s.fresh + 1 } : State).modGroup c.team.id c.group.gid fun g =>
            (g.setSplit c.ref.split.val (some rest)).setSplit k.val
              (some { sid := s.fresh, set := child, stack := [], overflow := [], status := .running })).retire c.ref (c.pc + 4))) ∧
        (taken ≠ 0 → fall ≠ 0 → (∀ k, c.group.split? k ≠ none) → c.split.stack.length < 4 →
          exec (.split p neg off) s = .next ((({ s with fresh := s.fresh + 1 } : State).modGroup c.team.id c.group.gid fun g =>
            g.setSplit c.ref.split.val (some { rest with stack := child :: rest.stack })).retire c.ref (c.pc + 4))) ∧
        (taken ≠ 0 → fall ≠ 0 → (∀ k, c.group.split? k ≠ none) → ∀ top bottom slot, c.split.stack = top ++ [bottom] → top.length = 3 →
          s.spillFree = true → slot < 32 → slot ∉ c.group.usedSlots → (∀ n, n < slot → n ∈ c.group.usedSlots) →
          let w := ({ s with fresh := s.fresh + 1 } : State).deviceWrite c.asid (s.slotAddr c.team c.launch.record c.group.gid slot) bottom.bytes
            Leaf.isPool
          (∀ v, w = .ok v → exec (.split p neg off) s = .next ((v.modGroup c.team.id c.group.gid fun g =>
            g.setSplit c.ref.split.val (some { rest with stack := child :: top, overflow := (slot, bottom) :: rest.overflow })).retire c.ref
            (c.pc + 4))) ∧
          (∀ f a, w = .error (f, a) → exec (.split p neg off) s = .next (s.takeFault
            (s.siteTrap c.team c.group c.ref.split.val c.pc 0 (.contextArea, 1) a) c.team.id c.group.gid (.split c.ref c.uid))))) ∧
  (∀ (s : State) (t : Team) (g : Group) (i j : Fin 4) (p q : Split) (l : Launch), s.team? t.id = some t → t.group? g.gid = some g →
      s.launchOf t = some l → i < j → g.live = [(i, p), (j, q)] → p.set.pc = q.set.pc →
      s.issuedAt { team := t.id, group := g.gid, split := i } p = false →
      s.issuedAt { team := t.id, group := g.gid, split := j } q = false →
      p.stack = [] → p.overflow = [] → q.stack = [] → q.overflow = [] →
      ∃ (g' : Group) (p' : Split), (s.boundary t.id g.gid boundaryFuel).group? t.id g.gid = some g' ∧ g'.live = [(i, p')] ∧
        p'.set.own = p.set.own ||| q.set.own ∧ p'.set.exec = p.set.exec ||| q.set.exec ∧ p'.set.pc = p.set.pc ∧
        p'.set.bank = p.set.bank ∧ p'.set.uid = p.set.uid ∧ p'.deferred = [] ∧ g'.s = g.s ∧ g'.v = g.v ∧ g'.p = g.p)

/-- R22, R23, R41, R108, R209, R213: `run` and `runx` with room in the queue: the clause stands last in the split number's queue with its
address, s16 to s31, RMODE and FTZM as they are now, and as its mask EXEC AND the predicate, or in a pass the lanes of EXEC on which it is decided
true, the undecided ones becoming UNDECIDED; the split goes on. A full queue stalls it; a field from 4 up takes INTERVAL_MODE in a pass.
Model's readings: log entries 26, 28. -/
def Obligations.RunQueuesClause : Prop :=
  ∀ (s : State) (c : Issuer) (i : Instr) (p : BitVec 3) (neg : Bool) (index : BitVec 21),
    (i = .run p neg index ∨ ∃ a, i = .runx a p neg ∧ index = (c.read a).truncate 21) → ScalarReady s c i →
    (c.inPass = true → 4 ≤ p.toNat → exec i s = .next ((s.begun c i).scalarFault (c.begun s i) (.intervalMode, 0) 0)) ∧
    ((c.inPass = true → p.toNat < 4) → c.group.queueFull c.ref.split = true → exec i s = .next (s.begun c i)) ∧
    (∀ pi, c.group.pass = some pi → p.toNat < 4 → (s.begun c i).predPending (c.begun s i) p.toNat = false →
      c.group.queueFull c.ref.split = false →
      ∃ u : State, exec i s = .next (u.retire c.ref (c.pc + 4)) ∧ SameBytes s u ∧ ∃ (g' : Group) (q : Clause) (pi' : PassInfo),
        u.group? c.team.id c.group.gid = some g' ∧ (vget g'.clauses c.ref.split.val []).getLast? = some q ∧
        q.addr = (c.group.lhi ++ c.group.lbase) + BitVec.ofNat 64 (16 * index.toNat) ∧ q.runPc = c.pc ∧
        (∀ l, q.mask.has l = (c.exec.has l && c.group.tri p.toNat neg l == .yes)) ∧ g'.pass = some pi' ∧ pi'.effects = pi.effects ∧
        (∀ l, pi'.undecided.has l = (pi.undecided.has l || (c.exec.has l && c.group.tri p.toNat neg l == .unk))) ∧
        ∀ p', g'.split? c.ref.split = some p' → ∀ l, p'.set.exec.has l = (c.exec.has l && c.group.tri p.toNat neg l != .unk)) ∧
    (c.inPass = false → (s.begun c i).predPending (c.begun s i) p.toNat = false → c.group.queueFull c.ref.split = false →
    ∃ u : State, exec i s = .next (u.retire c.ref (c.pc + 4)) ∧ ∃ (g' : Group) (q : Clause), u.group? c.team.id c.group.gid = some g' ∧
      vget g'.clauses c.ref.split.val [] = vget c.group.clauses c.ref.split.val [] ++ [q] ∧
      q.addr = (c.group.lhi ++ c.group.lbase) + BitVec.ofNat 64 (16 * index.toNat) ∧ q.runPc = c.pc ∧
      (∀ l, q.mask.has l = (c.exec.has l && ((c.group.pred p.toNat).has l != neg))) ∧
      (∀ n : Fin 16, q.caps[n] = c.read (BitVec.ofNat 5 (16 + n.val))) ∧ q.rmode = c.group.rmode ∧ q.ftzm = c.group.ftzm ∧
      q.fetched = none ∧ q.issuing = false ∧
      (∀ p', g'.split? c.ref.split = some p' → q.cid ∈ p'.set.ran))

/-- R19, R27, R110, R116: `nop` and a `yield` with nothing deferred only go on; a `yield` with a deferred entry hands its number to the top one
and goes to the bottom of the stack; `waitk` goes on when no clause of the split names a masked flag and each is idle, or the mask is zero, and
until then leaves the machine as it is.
Model's readings: log entries 27, 30. -/
def Obligations.WaitYieldNop : Prop :=
  ∀ (s : State) (c : Issuer),
    (ScalarReady s c .nop → exec .nop s = .next (s.retire c.ref (c.pc + 4))) ∧
    (ScalarReady s c .yield → c.split.deferred = [] → exec .yield s = .next (s.retire c.ref (c.pc + 4))) ∧
    (∀ e es, ScalarReady s c .yield → c.bankBusy = false → c.split.stack = e :: es → c.split.overflow = [] →
      exec .yield s = .next ((s.modGroup c.team.id c.group.gid fun g => g.setSplit c.ref.split.val
        (some { c.split with set := e, stack := es ++ [{ c.split.set with pc := c.pc + 4 }] })).retire c.ref e.pc)) ∧
    (∀ m, ScalarReady s c (.waitk m) → (m = 0 ∨ (c.clauseNames m = false ∧ c.group.idle m = true)) →
      exec (.waitk m) s = .next ((s.modSplit c.ref fun p => p.modSet fun e => { e with past := unite e.past (s.tagged c m) }).retire c.ref
        (c.pc + 4))) ∧
    (∀ m, ScalarReady s c (.waitk m) → m ≠ 0 → (c.clauseNames m = true ∨ c.group.idle m = false) → exec (.waitk m) s = .next s)

/-- R28, R117: `exit` waits for the split's clauses and for its work; then every lane of OWN is gone: the top entry of the stack takes the number,
or the number is unused while other splits live, or the group has ended. Model's readings: log entry 30. -/
def Obligations.ExitRetiresLanes : Prop :=
  ∀ (s : State) (c : Issuer), ScalarReady s c .exit → c.team.red = none →
    ((s.clausesDone c && s.workDone c) = false → exec .exit s = .next s) ∧
    ((s.clausesDone c && s.workDone c) = true → exec .exit s = .next (s.leave c) ∧
      (c.group.whole = true → c.inPass = false → ∀ g', (s.leave c).group? c.team.id c.group.gid = some g' → g'.ended = true) ∧
      (∀ e, c.split.stack = [e] → c.split.overflow = [] → c.group.live = [(c.ref.split, c.split)] → ∃ g' : Group,
        (s.leave c).group? c.team.id c.group.gid = some g' ∧ g'.live.map (·.1) = [c.ref.split] ∧
        g'.remaining = e.own ∧ g'.s = c.group.s ∧ g'.v = c.group.v) ∧
      (∀ j q, j ≠ c.ref.split → c.split.deferred = [] → q.deferred = [] →
        (∀ k, c.group.split? k = if k = c.ref.split then some c.split else if k = j then some q else none) →
        ∃ g' : Group, (s.leave c).group? c.team.id c.group.gid = some g' ∧ g'.split? c.ref.split = none ∧ g'.live = [(j, q)] ∧
          g'.remaining = q.set.own ∧ g'.ended = false ∧ g'.s = c.group.s ∧ g'.v = c.group.v ∧ g'.p = c.group.p))

/-- R16: `mtc` to EXEC: EXEC receives the written value ANDed with OWN, inactive lanes stay with the split, and a clause that the split has run
keeps its mask. In a pass group lanes that became UNDECIDED stay out (R202). -/
def Obligations.WriteExec : Prop :=
  ∀ (s : State) (c : Issuer) (a : SReg), ScalarReady s c (.mtcExec a) →
    let u := s.begun c (.mtcExec a)
    let gone : Mask := match c.group.pass with | some p => p.undecided | none => 0
    let v := u.modGroup c.team.id c.group.gid fun g => g.modSplit c.ref.split fun p => p.modSet fun e =>
      { e with exec := c.read a &&& e.own &&& ~~~gone }
    exec (.mtcExec a) s = .next (v.retire c.ref (c.pc + 4)) ∧
    ∀ g', v.group? c.team.id c.group.gid = some g' → g'.clauses = c.group.clauses ∧
      ∀ p', g'.split? c.ref.split = some p' → p'.set.own = c.split.set.own ∧
        (c.inPass = false → p'.set.exec = c.read a &&& p'.set.own)

/-- R35, R47, R49, R59, R112, R113: `mtc` to RMODE, FTZM, LBASE, TCFGn, QDEPn, Gn and FABW writes the register's laid-out bits and nothing else; a
TCFGn beyond the team's tiles takes ILLEGAL_ENCODING, in a pass too. Of the writes of a team-shared register in one cycle the lower GROUPID's is kept; a
read two or more cycles later, or by a group that wrote it, returns what was written last, any other read the register's value or that of a write
since.
Model's readings: log entries 31, 32. -/
def Obligations.WriteControlRegisters : Prop :=
  (∀ (s : State) (c : Issuer) (a : SReg),
      let v := c.read a
      (ScalarReady s c (.mtc a .rmode) → exec (.mtc a .rmode) s =
        .next (((s.begun c (.mtc a .rmode)).modGroup c.team.id c.group.gid fun g => { g with rmode := rmodeWrite v }).retire c.ref (c.pc + 4))) ∧
      (∀ k : Fin 8, rmodeSat (rmodeWrite v) k.val = v.getLsbD (4 * k.val + 3) ∧
        rmodeRnd (rmodeWrite v) k.val = (let n := (v.extractLsb' (4 * k.val) 3).toNat; if n = 6 ∨ n = 7 then 0 else n)) ∧
      (ScalarReady s c (.mtc a .ftzm) → exec (.mtc a .ftzm) s =
        .next (((s.begun c (.mtc a .ftzm)).modGroup c.team.id c.group.gid fun g => { g with ftzm := v &&& 0x3FFF }).retire c.ref (c.pc + 4))) ∧
      (ScalarReady s c (.mtc a .lbase) → exec (.mtc a .lbase) s =
        .next (((s.begun c (.mtc a .lbase)).modGroup c.team.id c.group.gid fun g => { g with lbase := v &&& 0xFFFFFFF0 }).retire c.ref
          (c.pc + 4))) ∧
      (∀ n, ScalarReady s c (.mtcTcfg a n) → c.inPass = false → n.toNat < c.launch.record.tiles → s.tileBusy c.team.id n.toNat = false →
        exec (.mtcTcfg a n) s = .next (((s.begun c (.mtcTcfg a n)).modTeam c.team.id fun t =>
          { t with tcfg := vset t.tcfg n.toNat (v &&& 0x3F1F) }).retire c.ref (c.pc + 4))) ∧
      (∀ n, ScalarReady s c (.mtcTcfg a n) → c.launch.record.tiles ≤ n.toNat → exec (.mtcTcfg a n) s =
        .next ((s.begun c (.mtcTcfg a n)).scalarFault (c.begun s (.mtcTcfg a n)) (.illegalEncoding, 0) 0)) ∧
      (∀ n, ScalarReady s c (.mtcQdep a n) → v.toNat ≤ 8 → (queueOf c.group n.toNat).entries = [] →
        (((List.finRange 16).filter (· != n.toFin)).map fun k => c.group.q[k].depth).sum + v.toNat ≤ c.group.qbud →
        exec (.mtcQdep a n) s = .next (((s.begun c (.mtcQdep a n)).modGroup c.team.id c.group.gid fun g =>
          { g with q := vmod g.q n.toNat fun q => { q with depth := v.toNat } }).retire c.ref (c.pc + 4))) ∧
      (∀ n, ScalarReady s c (.mtcQdep a n) → (8 < v.toNat ∨ (queueOf c.group n.toNat).entries ≠ [] ∨
          c.group.qbud < (((List.finRange 16).filter (· != n.toFin)).map fun k => c.group.q[k].depth).sum + v.toNat) →
        exec (.mtcQdep a n) s = .next ((s.begun c (.mtcQdep a n)).scalarFault (c.begun s (.mtcQdep a n)) (.queueConfig, 0) 0)) ∧
      (∀ n, ScalarReady s c (.mtcG a n) → c.inPass = false → exec (.mtcG a n) s =
        .next (((s.begun c (.mtcG a n)).modTeam c.team.id fun t => t.writeShared n.toNat v (s.cycleOf c.core) c.group.gid).retire c.ref
          (c.pc + 4))) ∧
      (ScalarReady s c (.mtcFabw a) → c.inPass = false → exec (.mtcFabw a) s =
        .next (((s.begun c (.mtcFabw a)).setAsid { s.asid c.asid with fabwIn := (s.asid c.asid).fabwIn ++ [v &&& 0xFFFF] }).retire c.ref
          (c.pc + 4)))) ∧
  (∀ (t : Team) (n : Fin 8) (v w : Word) (now later gid other reader choice : Nat),
      let reads (u : Team) : Word := ((u.readAt later reader choice).gregs[n]).cur
      (reads t = (t.gregs[n]).cur ∨ ∃ x ∈ t.gpend, x.reg = n.val ∧ reads t = x.value) ∧
      (t.gregs[n].cycle < now → (∀ x ∈ t.gpend, x.reg = n.val → x.cycle < now) →
        (now + 2 ≤ later ∨ reader = gid → reads (t.writeShared n v now gid) = v) ∧
        (now + 2 ≤ later → gid < other → reads ((t.writeShared n v now gid).writeShared n w now other) = v ∧
          reads ((t.writeShared n w now other).writeShared n v now gid) = v)))

/-- R114, R244, R245: `mtc` to BDn in element mode, once no operation of the split's clauses still uses the descriptor, reads the 16 bytes at
a checked address and, when they have come and form a valid descriptor, loads it; a misaligned address, a failed check and an invalid descriptor each
trap.
Model's readings: log entries 68, 98. -/
def Obligations.LoadDescriptor : Prop :=
  ∀ (s : State) (c : Issuer) (a : SReg) (n : BitVec 4), ScalarReady s c (.mtcBd a n) → c.inPass = false →
    let u := s.begun c (.mtcBd a n)
    let k := c.begun s (.mtcBd a n)
    let ea := c.pair a
    u.descFree k n = true →
    (ea.toNat % 16 ≠ 0 → exec (.mtcBd a n) s = .next (u.scalarFault k (.alignment, 0) ea)) ∧
    (ea.toNat % 16 = 0 → ReadsThen s u k (.mtcBd a n) ea 16 fun bs =>
      let w : QWord := BitVec.ofNat 128 (leNat bs)
      (descValid w = true → exec (.mtcBd a n) s = .next (((u.splitTaken k).modGroup c.team.id c.group.gid fun g =>
        { g with bd := vset g.bd n.toNat (some w) }).retire c.ref (c.pc + 4))) ∧
      (descValid w = false → exec (.mtcBd a n) s = .next ((u.splitTaken k).scalarFault k (.bounds, 0) ea)))

/-- R35, R47, R49, R94, R111, R112, R115: what `mfc` reads from each control register; a read of Gn leaves the team's registers as it found them in effect, so
that no later read finds an older value; a tile beyond the team's takes ILLEGAL_ENCODING.
Model's readings: log entry 31. -/
def Obligations.ReadControlRegisters : Prop :=
  ∀ (s : State) (c : Issuer) (d : SReg) (r : BitVec 12), ScalarReady s c (.mfc d r) → (c.inPass = true → r.toNat ≠ 5) →
    (∀ n, r.toNat = 0x10 + n → n < 16 → c.launch.record.tiles ≤ n → exec (.mfc d r) s = .next (s.scalarFault c (.illegalEncoding, 0) 0)) ∧
    ((∀ n, r.toNat = 0x10 + n → n < 16 → n < c.launch.record.tiles) →
    let shared := 0x40 ≤ r.toNat ∧ r.toNat < 0x48
    let found := c.team.readAt (s.cycleOf c.core) c.group.gid s.choice
    ∃ (v : Word) (u : State), exec (.mfc d r) s = .next (({ u with choice := s.choice + 1 } : State).writeRetire c d v) ∧
      (¬ shared → u = s) ∧ (shared → u = s.modTeam c.team.id fun t => t.readAt (s.cycleOf c.core) c.group.gid s.choice) ∧
      (r = 0x000 → v = c.exec) ∧ (r = 0x001 → v = c.group.rmode) ∧ (r = 0x002 → v = c.group.ftzm) ∧ (r = 0x003 → v = c.group.lbase) ∧
      (r = 0x004 → v = BitVec.ofNat 32 c.ref.split.val) ∧ (r = 0x005 → v = BitVec.ofNat 32 c.group.gid) ∧
      (r = 0x006 → v = BitVec.ofNat 32 (c.launch.record.coord c.team.index).1) ∧
      (r = 0x007 → v = BitVec.ofNat 32 (c.launch.record.coord c.team.index).2.1) ∧
      (r = 0x008 → v = BitVec.ofNat 32 (c.launch.record.coord c.team.index).2.2) ∧
      (∀ n : Fin 16, r.toNat = 0x10 + n.val → v = c.team.tcfg[n]) ∧
      (∀ n : Fin 16, r.toNat = 0x30 + n.val → v = BitVec.ofNat 32 c.group.q[n].depth) ∧
      (∀ n : Fin 8, r.toNat = 0x40 + n.val → v = (found.gregs[n]).cur) ∧
      (r = 0x060 → v = (s.asid c.asid).fabw) ∧ (r = 0x070 → v = BitVec.ofNat 32 (s.cycleOf c.core)) ∧
      (r = 0x080 → v = if c.inPass then 1 else 0) ∧
      (r = 0x081 → v = match c.group.pass with | some p => BitVec.ofNat 32 p.level | none => BitVec.ofNat 32 (4 * c.group.outcome + c.group.level)))

/-- R93, R116, R336, R341, R343, R344: `trap` in element mode queues a held record of cause USER_TRAP with its code, at its own PC and behind the
split's loads, and the split, whose PC stays, waits for the host; without a fault ring STAT[3] is set and the policy decides, under a halt with the
split at the next instruction.
Model's readings: log entry 73. -/
def Obligations.TrapTaken : Prop :=
  ∀ (s : State) (c : Issuer) (code : BitVec 16), ScalarReady s c (.trap code) → c.inPass = false →
    let a := s.asid c.asid
    let t : Trap := { s.siteTrap c.team c.group c.ref.split.val c.pc 0 (.userTrap, 0) 0 with
      ucode := code.toNat, behind := s.undelivered c.uid, held := true }
    t.asid = c.asid ∧ t.launch = c.launch.id ∧ t.cause = .userTrap ∧ t.ucode = code.toNat ∧ t.spc = c.pc ∧
    t.team = c.launch.record.coord c.team.index ∧ t.group = c.group.gid ∧ t.split = c.ref.split.val ∧
    (a.frsize ≠ 0 → exec (.trap code) s = .next { s.setAsid { a with seq := a.seq + 1, traps := a.traps ++ [(a.seq + 1, t)] } with
        held := s.held ++ [{ asid := c.asid, seq := a.seq + 1, trap := t, work := .split c.ref c.uid, answer := none }] } ∧
      ∀ u, exec (.trap code) s = .next u → u.teams = s.teams ∧ u.splitHeld c.ref c.split = true ∧ SameBytes s u) ∧
    (a.frsize = 0 →
      exec (.trap code) s = .next (((s.setStat c.asid 3).contain .userTrap c.team.id c.group.gid).passTrap (.split c.ref c.uid)) ∧
      (2 ≤ c.launch.record.policy → c.group.whole = true → ∃ (u : State) (g' : Group) (p' : Split), exec (.trap code) s = .next u ∧
        u.halted.contains c.asid = true ∧ u.group? c.team.id c.group.gid = some g' ∧ g'.split? c.ref.split = some p' ∧ p'.set.pc = c.pc + 4 ∧
        g'.s = c.group.s))

/-- R344, R345: what a fault of a scalar instruction that is not held leaves under each policy: policy 0 ends the team, policy 1 the group,
and any other halts the context, whose resident teams are to be saved as they stand. -/
def Obligations.FaultPolicy : Prop :=
  ∀ (s : State) (c : Issuer) (cause : Cause) (sub : Nat) (addr : DWord), s.issuer? = some c → cause.isHeld = false →
    cause ≠ .uncorrectableReg → cause ≠ .uncorrectableScratch → c.team.red = none → c.team.inPasses = false →
    let t := s.scalarFault c (cause, sub) addr
    (c.launch.record.policy = 0 → t.team? c.team.id = none) ∧
    (c.launch.record.policy = 1 → ∀ g, t.group? c.team.id c.group.gid = some g → g.ended = true ∧ g.live = []) ∧
    (2 ≤ c.launch.record.policy → t.halted.contains c.asid = true ∧ t.mem = s.mem ∧ t.views = s.views ∧
      t.teams = s.teams.map fun x => if s.asidOf x == c.asid && x.state == .resident then { x with saving := true } else x)

/-- R92, R93, R99 to R104, R243: a scalar load, store or atomic in element mode: a misaligned address takes ALIGNMENT, then a failed check its cause, a
tag mismatch only once the operations before it allow the access to issue;
otherwise, once the operations before it allow it, the access enters the ordering machine with its bytes, order and scope at the translated
address, its destination waits for the result, later operations of the split follow it, and the split goes on. No byte changes yet.
Model's readings: log entry 15. -/
def Obligations.ScalarAccesses : Prop :=
  ∀ (s : State) (c : Issuer) (i : Instr) (x : ScalarAccess), ScalarReady s c i → c.inPass = false → c.team.red = none →
    scalarAccess c i = some x →
    let u := s.begun c i
    let k := c.begun s i
    let waiting (g : Group) (d : SReg) : Group := (regsFrom d x.words).foldl (fun g r => g.mark c.ref.split r u.fresh false) g
    (x.ea.toNat % (4 * x.words) ≠ 0 → exec i s = .next (u.scalarFault k (.alignment, 0) x.ea)) ∧
    (x.ea.toNat % (4 * x.words) = 0 →
      (∀ f, u.checkAccess (some c.core) c.asid x.ea (4 * x.words) x.access x.fmtOk = .error f →
        let early := f.1 = .tagMismatch ∧ u.mayIssue k.split.set.past [] x.order x.scope = false
        (¬ early → exec i s = .next (u.scalarFault k f x.ea)) ∧ (early → exec i s = .next u)) ∧
      (∀ l, u.checkAccess (some c.core) c.asid x.ea (4 * x.words) x.access x.fmtOk = .ok l →
        (u.canIssue [x.op k l] = false → exec i s = .next u) ∧
        (u.canIssue [x.op k l] = true →
          exec i s = .next ((((u.pushOp (x.op k l)).usedLeaf (some c.core) c.asid x.ea l).modGroup c.team.id c.group.gid fun g =>
            ((match x.dest with | some d => waiting g d | none => g).modSplit
              c.ref.split fun p => p.modSet fun e => { e with past := unite e.past [u.fresh] })).retire c.ref (c.pc + 4)) ∧
          (c.group.whole = true → ∀ t, exec i s = .next t → SameBytes s t)))) ∧
    (x.data = [] ∨ x.data.length = 4 * x.words)

/-- R33, R291, R293, R325, R326, R362: in element mode a `cpy`, `siph`, `stepq` or `stepp` whose operands pass the checks at issue enters its queue
as one command, its token waits for the status, and the split goes on; a `cpys` does so once both sectors of its record, read in ascending order,
have come and the record is valid, and takes ILLEGAL_ENCODING on one that is not.
Model's readings: log entry 98. -/
def Obligations.CommandsEnterQueues : Prop :=
  ∀ (s : State) (c : Issuer) (sd sa sb : SReg) (q : BitVec 3) (bar nb push : Bool), c.inPass = false → c.team.red = none →
    let enter (i : Instr) (u : State) (k : Issuer) (q : Nat) (kind : CmdKind) : State :=
      (({ u with cmds := u.cmds ++ [{ id := u.fresh, team := c.team.id, group := c.group.gid, uid := c.uid, asid := c.asid, pc := c.pc, tok := sd
                                      queue := q, word := (encodeScalar i).getD 0, kind := kind, past := k.split.set.past, ending := none }]
                 fresh := u.fresh + 1 } : State).modGroup
        c.team.id c.group.gid fun g =>
          { g.mark c.ref.split sd u.fresh true with engines := vmod g.engines q fun l => l ++ [.cmd u.fresh] }).retire c.ref (c.pc + 4)
    let barOk : Prop := bar = true → (c.read sb).toNat % 16 = 0 ∧ (c.read sb).toNat + 16 ≤ 1024 * c.launch.record.scratch
    let barAt : Option Nat := if bar then some (c.read sb).toNat else none
    let copy : CopyState := { record := c.pair sa, bar := barAt, half := none, shape := none, todo := [], asked := none }
    let cpy : Instr := .cpy sd sa sb bar q
    let cpys : Instr := .cpys sd sa sb bar q
    let step : Instr := if push then .stepp sd sb nb else .stepq sd sb nb
    (CommandReady s c cpy sd → (c.pair sa).toNat % 64 = 0 → barOk → c.group.queueStalls q.toNat = false →
      exec cpy s = .next (enter cpy (s.begun c cpy) (c.begun s cpy) q.toNat (.copy copy))) ∧
    (CommandReady s c (.siph sd sa q) sd → (c.pair sa).toNat % 64 = 0 → c.group.queueStalls q.toNat = false →
      exec (.siph sd sa q) s =
        .next (enter (.siph sd sa q) (s.begun c (.siph sd sa q)) (c.begun s (.siph sd sa q)) q.toNat (.coll (c.pair sa) none none))) ∧
    (CommandReady s c step sd → (c.read sb).toNat % 32 = 0 → (c.read sb).toNat + 32 ≤ 1024 * c.launch.record.scratch →
      exec step s = .next (enter step (s.begun c step) (c.begun s step) 8 (.stage push nb (c.read sb).toNat none))) ∧
    (CommandReady s c cpys sd → (c.pair sa).toNat % 64 = 0 → barOk → c.group.queueStalls q.toNat = false →
      let u := s.begun c cpys
      let k := c.begun s cpys
      ReadsThen s u k cpys (c.pair sa) 32 fun lo => ReadsThen s u k cpys (c.pair sa + 32) 32 fun hi =>
        let p := shapeOf (lo ++ hi)
        (p.valid bar c.launch.record.tiles = true → exec cpys s =
          .next (enter cpys (u.splitTaken k) k q.toNat (.copy { copy with shape := some p, todo := if p.empty then [] else p.sectors }))) ∧
        (p.valid bar c.launch.record.tiles = false → exec cpys s = .next ((u.splitTaken k).scalarFault k (.illegalEncoding, 0) 0)))

/-- R327, R319: in element mode `lnch` takes ALIGNMENT at a record not aligned to 64 bytes and otherwise becomes a command whose token waits. The device
then reads the record's 16 sectors in ascending order, each behind the one before; a read that fails gives the token 0x07 with the cause and raises
nothing, a rejected record its status, in CPL too unless CHECK does not match, and an accepted one becomes a launch: the token receives 0x08 at once
or, with `.end`, waits for its end.
Model's readings: log entries 98, 104. -/
def Obligations.LaunchCommand : Prop :=
  (∀ (s : State) (c : Issuer) (sd sa : SReg) (atEnd : Bool), CommandReady s c (.lnch sd sa atEnd) sd → c.inPass = false →
    let u := s.begun c (.lnch sd sa atEnd)
    let k := c.begun s (.lnch sd sa atEnd)
    ((c.pair sa).toNat % 64 ≠ 0 → exec (.lnch sd sa atEnd) s = .next (u.scalarFault k (.alignment, 0) (c.pair sa))) ∧
    ((c.pair sa).toNat % 64 = 0 → c.team.red = none → ∃ cmd : Cmd, cmd.id = u.fresh ∧ cmd.team = c.team.id ∧ cmd.group = c.group.gid ∧
      cmd.asid = c.asid ∧ cmd.tok = sd ∧ cmd.kind = .lnch (c.pair sa) atEnd false ∧ cmd.past = k.split.set.past ∧ cmd.ending = none ∧
      exec (.lnch sd sa atEnd) s = .next ((({ u with cmds := u.cmds ++ [cmd], fresh := u.fresh + 1 } : State).modGroup c.team.id c.group.gid
        fun g => g.mark c.ref.split sd u.fresh true).retire c.ref (c.pc + 4)))) ∧
  (∀ (s : State) (id : Nat) (a : Active) (record : DWord) (atEnd : Bool), s.owned? id = some a → a.cmd.id = id →
    a.cmd.kind = .lnch record atEnd false → a.cmd.ending = none → s.halted.contains a.launch.asid = false → record.toNat % 64 = 0 →
    (s.late.find? fun l => l.id == id) = none → s.op? id = none →
    let at_ (j : Nat) : DWord := record + BitVec.ofNat 64 (32 * j)
    let has (j : Nat) (bs : List Byte) : Prop := ∃ x, s.reading a.agent a.cmd.uid (at_ j).toNat = some x ∧ x.result ≠ none ∧ x.intact = true ∧
      x.carried.map (·.1) = bs
    (∀ j, j < 16 → (∀ i, i < j → ∃ bs, has i bs) → s.reading a.agent a.cmd.uid (at_ j).toNat = none →
      let check := s.checkAccess (some a.team.core) a.cmd.asid (at_ j) 32 .load Leaf.plainFmt
      (∀ f, check = .error f → exec (.operationComplete id) s = .next (s.endCmd id (7 + 256 * f.1.code))) ∧
      (∀ l, check = .ok l →
        let o := s.cmdOp a .load .mem (l.pa (at_ j)) 32 l.sc
        (s.canIssue [o] = false → exec (.operationComplete id) s = .next s) ∧
        (s.canIssue [o] = true → exec (.operationComplete id) s =
          .next ((s.pushOp { o with dest := .engine (at_ j).toNat }).usedLeaf (some a.team.core) a.cmd.asid (at_ j) l)))) ∧
    (∀ parts : List (List Byte), parts.length = 16 → (∀ j bs, parts[j]? = some bs → has j bs) →
      let bs := parts.flatten
      (∀ st, s.rejection a.cmd.asid bs = some st → exec (.operationComplete id) s =
        .next ((if st = 2 then s else s.writeCpl a.cmd.asid (launchRecOf bs).cpl st 0).endCmd id st)) ∧
      (s.rejection a.cmd.asid bs = none →
        let u := (s.cmdTaken id).modCmd id fun x => { x with kind := .lnch record atEnd true }
        (atEnd = false → exec (.operationComplete id) s = .next ((u.accept a.cmd.asid (launchRecOf bs) none).endCmd id 8)) ∧
        (atEnd = true → exec (.operationComplete id) s = .next (u.accept a.cmd.asid (launchRecOf bs) (some id))))))

/-- R178 to R180, R183, R185: a matrix loop that passes the checks at issue, with the engine and its tiles free: without steps it ends at once with
token 0, otherwise it starts with its addresses, steps and increments taken from the four registers, its C tiles shadowed, and its token waits.
Model's readings: log entry 15. -/
def Obligations.MatrixLoopsStart : Prop :=
  ∀ (s : State) (c : Issuer) (i : Instr) (sd sa sb : SReg) (z : Bool) (tc ta : BitVec 4) (mode : Nat),
    (i = .mloop sd sa z tc ta ∧ mode = 0 ∨ i = .mloopSbp sd sa z tc ta ∧ mode = 1 ∨ i = .mloopDirect sd sa sb z tc ta ∧ mode = 2) →
    CommandReady s c i sd → c.inPass = false → c.team.red = none → c.team.loopOk c.launch.record mode tc.toNat ta.toNat = true →
    c.group.live.length = 1 → (c.read sa).toNat % 128 = 0 → (c.read (sa + 1)).toNat % 128 = 0 →
    (mode = 2 → (c.pair sb).toNat % 128 = 0) →
    let inc := c.read (sa + 2)
    let steps := (c.read (sa + 3)).toNat
    let side := if mode = 1 then 2 else 1
    let size := 1024 * c.launch.record.scratch
    (mode ≠ 2 →
      blocksInside (c.read sa) (inc.extractLsb' 0 16) steps (tileFmt (c.team.cfg ta.toNat)) (c.team.rowsA ta.toNat) 0 size ∧
      blocksInside (c.read (sa + 1)) (inc.extractLsb' 16 16) steps (tileFmt (c.team.cfg (ta.toNat + 1))) (c.team.rowsB ta.toNat) side size) →
    let u := s.begun c i
    let tiles := if c.team.wideAcc mode tc.toNat then [tc.toNat, tc.toNat + 1] else [tc.toNat]
    u.coreLoops c.core < 2 → (∀ n, n ∈ tiles ∨ n = ta.toNat ∨ n = ta.toNat + 1 → u.tileBusy c.team.id n = false) →
    (steps = 0 → exec i s = .next (u.writeRetire (c.begun s i) sd 0)) ∧
    (steps ≠ 0 → ∃ l : Loop, l.id = u.fresh ∧ l.team = c.team.id ∧ l.group = c.group.gid ∧ l.tok = sd ∧ l.mode = mode ∧ l.z = z ∧
      l.tc = tc.toNat ∧ l.ta = ta.toNat ∧ l.a = c.read sa ∧ l.b = c.read (sa + 1) ∧ l.steps = steps ∧ l.next = 0 ∧
      l.inca = inc.extractLsb' 0 16 ∧ l.incb = inc.extractLsb' 16 16 ∧ (mode = 2 → l.base = c.pair sb) ∧ l.rmode = c.group.rmode ∧
      l.shadow = tiles.map (fun n => (c.team.tiles[n]?).getD []) ∧
      exec i s = .next ((({ u with loops := u.loops ++ [l], fresh := u.fresh + 1 } : State).modGroup c.team.id c.group.gid fun g =>
        g.mark c.ref.split sd u.fresh true).retire c.ref (c.pc + 4)))

/-- R185, R291, R293, R325, R362: the faults of engine commands at issue. A copy's or collective's record not aligned to 64 bytes, a barrier object or
a queue entry not aligned or beyond the scratchpad; a matrix loop that its tiles or formats refuse takes ILLEGAL_ENCODING, one in a divided group
SPLIT_MATRIX, one with a misaligned address ALIGNMENT, then, in dense and SBP modes, one of whose steps reads a byte at or beyond the scratchpad's
size BOUNDS with the first such byte, A's blocks before B's. A full queue stalls the split.
Model's readings: log entry 181. -/
def Obligations.CommandChecks : Prop :=
  (
    ∀ (s : State) (c : Issuer) (sd sa sb : SReg) (q : BitVec 3) (bar : Bool), c.inPass = false →
      (∀ i, (i = .cpy sd sa sb bar q ∨ i = .cpys sd sa sb bar q ∨ (i = .siph sd sa q ∧ bar = false)) → CommandReady s c i sd →
        let u := s.begun c i
        let k := c.begun s i
        ((c.pair sa).toNat % 64 ≠ 0 → exec i s = .next (u.scalarFault k (.alignment, 0) (c.pair sa))) ∧
        ((c.pair sa).toNat % 64 = 0 → bar = true → (c.read sb).toNat % 16 ≠ 0 →
          exec i s = .next (u.scalarFault k (.alignment, 0) ((c.read sb).zeroExtend 64))) ∧
        ((c.pair sa).toNat % 64 = 0 → bar = true → (c.read sb).toNat % 16 = 0 → 1024 * c.launch.record.scratch < (c.read sb).toNat + 16 →
          exec i s = .next (u.scalarFault k (.bounds, 0) ((c.read sb).zeroExtend 64))) ∧
        ((c.pair sa).toNat % 64 = 0 → (bar = true → (c.read sb).toNat % 16 = 0 ∧ (c.read sb).toNat + 16 ≤ 1024 * c.launch.record.scratch) →
          c.group.queueStalls q.toNat = true → exec i s = .next u)) ∧
      (∀ nb i, (i = .stepq sd sb nb ∨ i = .stepp sd sb nb) → CommandReady s c i sd →
        ((c.read sb).toNat % 32 ≠ 0 →
          exec i s = .next ((s.begun c i).scalarFault (c.begun s i) (.alignment, 0) ((c.read sb).zeroExtend 64))) ∧
        ((c.read sb).toNat % 32 = 0 → 1024 * c.launch.record.scratch < (c.read sb).toNat + 32 →
          exec i s = .next ((s.begun c i).scalarFault (c.begun s i) (.bounds, 0) ((c.read sb).zeroExtend 64))))) ∧
  (
    ∀ (s : State) (c : Issuer) (i : Instr) (sd sa sb : SReg) (z : Bool) (tc ta : BitVec 4) (mode : Nat),
      (i = .mloop sd sa z tc ta ∧ mode = 0 ∨ i = .mloopSbp sd sa z tc ta ∧ mode = 1 ∨ i = .mloopDirect sd sa sb z tc ta ∧ mode = 2) →
      CommandReady s c i sd →
      let fault (f : AccessFault) (a : DWord) : Prop := exec i s = .next ((s.begun c i).scalarFault (c.begun s i) f a)
      (c.team.loopOk c.launch.record mode tc.toNat ta.toNat = false → fault (.illegalEncoding, 0) 0) ∧
      (c.team.loopOk c.launch.record mode tc.toNat ta.toNat = true → c.inPass = false →
        (c.group.live.length ≠ 1 → fault (.splitMatrix, 0) 0) ∧
        (c.group.live.length = 1 →
          ((c.read sa).toNat % 128 ≠ 0 → fault (.alignment, 0) ((c.read sa).zeroExtend 64)) ∧
          ((c.read sa).toNat % 128 = 0 → (c.read (sa + 1)).toNat % 128 ≠ 0 → fault (.alignment, 0) ((c.read (sa + 1)).zeroExtend 64)) ∧
          ((c.read sa).toNat % 128 = 0 → (c.read (sa + 1)).toNat % 128 = 0 → mode = 2 → (c.pair sb).toNat % 128 ≠ 0 →
            fault (.alignment, 0) (c.pair sb)) ∧
          ((c.read sa).toNat % 128 = 0 → (c.read (sa + 1)).toNat % 128 = 0 → mode ≠ 2 →
            let inc := c.read (sa + 2)
            let steps := (c.read (sa + 3)).toNat
            let size := 1024 * c.launch.record.scratch
            let fmtA := tileFmt (c.team.cfg ta.toNat)
            let fmtB := tileFmt (c.team.cfg (ta.toNat + 1))
            let side := if mode = 1 then 2 else 1
            ∀ addr, (blocksFirst (c.read sa) (inc.extractLsb' 0 16) steps fmtA (c.team.rowsA ta.toNat) 0 size addr →
                fault (.bounds, 0) (BitVec.ofNat 64 addr)) ∧
              (blocksInside (c.read sa) (inc.extractLsb' 0 16) steps fmtA (c.team.rowsA ta.toNat) 0 size →
                blocksFirst (c.read (sa + 1)) (inc.extractLsb' 16 16) steps fmtB (c.team.rowsB ta.toNat) side size addr →
                fault (.bounds, 0) (BitVec.ofNat 64 addr))))))

/-- R286, R287: the arithmetic of barrier objects: an arrival of n is refused when n is 0 or more than ARRIVALS, a count of bytes owed or moved
changes TX modulo 2^36, and when ARRIVALS and TX are both zero the generation moves on modulo 16 and ARRIVALS is QUOTA again; the sixteen
bytes hold the four fields. -/
def Obligations.BarrierObjectArithmetic : Prop :=
  ∀ (b : BarObj) (n x : Nat),
    let moved (left tx : Nat) : BarObj := if left = 0 ∧ tx = 0 then { b with left := b.quota, tx := tx, gen := (b.gen + 1) % 16 }
      else { b with left := left, tx := tx }
    (b.arrive n = none ↔ n = 0 ∨ b.left < n) ∧ (∀ b', b.arrive n = some b' → b' = moved (b.left - n) b.tx) ∧
    b.owe x = moved b.left ((b.tx + x) % 2 ^ 36) ∧
    (b.tx < 2 ^ 36 → ((b.pump x).tx + x) % 2 ^ 36 = b.tx ∧ b.pump x = moved b.left (b.pump x).tx) ∧
    (b.quota < 2 ^ 32 → b.left < 2 ^ 32 → b.gen < 16 → b.tx < 2 ^ 36 → barObj b.bytes = b ∧ b.bytes.length = 16)

/-- R34, R283 to R289: every `bar` in element mode, once its operation may be performed. On an aligned object `mark` and `markn` arrive and
return OK or OVERARRIVE with the generation of the arrival, `owe` adds to TX and returns, `hold` returns when the generation differs from its
operand, `join` arrives and returns when its generation has been left; until then the split waits; every one writes the object. At the team barrier a
whole group arrives by `mark` and `join`, the last live group to arrive moves the generation on, and a divided group waits; `owe` and `markn` take
ILLEGAL_ENCODING there. The first `bar` after a group of the team was killed has its effect and returns ABANDONED with the generation after it.
Model's readings: log entries 20, 21, 22, 23, 180. -/
def Obligations.BarrierOperations : Prop :=
  (
    ∀ (s : State) (c : Issuer) (i : Instr) (sd sa sb : SReg), i ∈ [Instr.barMark sd sa, .barMarkn sd sa sb, .barJoin sd sa, .barHold sd sa sb, .barOwe sd sa sb] →
      ScalarReady s c i → c.inPass = false → c.team.red = none → sa ≠ 0 → Memory.wf c.team.scratch = true →
      let a := (c.read sa).toNat
      let u := s.begun c i
      let k := c.begun s i
      (a % 16 ≠ 0 → exec i s = .next (u.scalarFault k (.alignment, 0) (BitVec.ofNat 64 a))) ∧
      (a % 16 = 0 → 1024 * c.launch.record.scratch < a + 16 → exec i s = .next (u.scalarFault k (.bounds, 0) (BitVec.ofNat 64 a))) ∧
      (a % 16 = 0 → a + 16 ≤ 1024 * c.launch.record.scratch →
        let arriving := i = .barMark sd sa ∨ i = .barMarkn sd sa sb ∨ i = .barJoin sd sa
        let lanes := (u.ops.filter fun o => match o.cid with | some q => k.split.set.ran.contains q | none => false).map (·.id)
        ∀ o, (arriving → o = k.barOp (some a) .release (unite k.split.set.past lanes)) →
          (¬ arriving → o = k.barOp (some a) .relaxed k.split.set.past) →
          (arriving → k.split.set.ran.any u.clausePending = false) → u.barReady o = true →
          let b := barObj ((u.scratchOf c.team.id).readN a 16)
          let n := if i = .barMarkn sd sa sb then (c.read sb).toNat else 1
          let after (new : BarObj) : State := u.barDone k o (some new)
          let answer (new : BarObj) (status gen : Nat) : Prop :=
            (c.group.abandoned = false → exec i s = .next ((after new).writeRetire k sd (BitVec.ofNat 32 (16 * status + gen)))) ∧
            (c.group.abandoned = true → exec i s = .next (((after new).modGroup c.team.id c.group.gid fun g =>
              { g with abandoned := false }).writeRetire k sd (BitVec.ofNat 32 (16 + new.gen))))
          let waits (new : BarObj) (w : BarWait) : Prop :=
            (c.group.abandoned = false → exec i s = .next ((after new).barWait k w)) ∧
            (c.group.abandoned = true → exec i s = .next (((after new).modGroup c.team.id c.group.gid fun g =>
              { g with abandoned := false }).writeRetire k sd (BitVec.ofNat 32 (16 + new.gen))))
          (arriving → b.arrive n = none → answer b 2 b.gen) ∧
          (∀ b', arriving → b.arrive n = some b' → (i ≠ .barJoin sd sa ∨ b'.gen ≠ b.gen) → answer b' 0 b.gen) ∧
          (∀ b', i = .barJoin sd sa → b.arrive 1 = some b' → b'.gen = b.gen →
            waits b' { obj := some a, gen := BitVec.ofNat 4 b.gen, join := true, sd := sd }) ∧
          (i = .barOwe sd sa sb → answer (b.owe (c.read sb).toNat) 0 (b.owe (c.read sb).toNat).gen) ∧
          (i = .barHold sd sa sb → b.gen ≠ (c.read sb).toNat % 16 → answer b 0 b.gen) ∧
          (i = .barHold sd sa sb → b.gen = (c.read sb).toNat % 16 →
            waits b { obj := some a, gen := BitVec.ofNat 4 b.gen, join := false, sd := sd }))) ∧
  (
    ∀ (s : State) (c : Issuer) (i : Instr) (sd sb : SReg), i ∈ [Instr.barMark sd 0, .barJoin sd 0, .barHold sd 0 sb] → ScalarReady s c i →
      c.inPass = false → c.team.red = none →
      let u := s.begun c i
      let k := c.begun s i
      let arriving := i = .barMark sd 0 ∨ i = .barJoin sd 0
      let lanes := (u.ops.filter fun o => match o.cid with | some q => k.split.set.ran.contains q | none => false).map (·.id)
      (c.group.whole = false → c.split.deferred = [] → exec i s = .next u) ∧
      (c.group.whole = true → ∀ o, (arriving → o = k.barOp none .release (unite k.split.set.past lanes)) →
        (¬ arriving → o = k.barOp none .relaxed k.split.set.past) → (arriving → k.split.set.ran.any u.clausePending = false) →
        u.barReady o = true → ∀ t, u.team? c.team.id = some t →
          let came := ({ t with arrived := unite t.arrived [c.group.gid] } : Team).settleBar
          let after : State := if arriving then (u.barDone k o none).modTeam c.team.id fun x =>
            ({ x with arrived := unite x.arrived [c.group.gid] } : Team).settleBar else u.barDone k o none
          let gen : BitVec 4 := if arriving then came.barGen else t.barGen
          (c.group.abandoned = true → exec i s = .next ((after.modGroup c.team.id c.group.gid fun g =>
            { g with abandoned := false }).writeRetire k sd (BitVec.ofNat 32 (16 + gen.toNat)))) ∧
          (c.group.abandoned = false →
            (i = .barMark sd 0 → exec i s = .next (after.writeRetire k sd (BitVec.ofNat 32 t.barGen.toNat))) ∧
            (i = .barJoin sd 0 → gen ≠ t.barGen → exec i s = .next (after.writeRetire k sd (BitVec.ofNat 32 t.barGen.toNat))) ∧
            (i = .barJoin sd 0 → gen = t.barGen →
              exec i s = .next (after.barWait k { obj := none, gen := t.barGen, join := true, sd := sd })) ∧
            (i = .barHold sd 0 sb → gen.toNat ≠ (c.read sb).toNat % 16 →
              exec i s = .next (after.writeRetire k sd (BitVec.ofNat 32 gen.toNat))) ∧
            (i = .barHold sd 0 sb → gen.toNat = (c.read sb).toNat % 16 →
              exec i s = .next (after.barWait k { obj := none, gen := gen, join := false, sd := sd }))))) ∧
  (∀ t : Team, t.settleBar =
    if (∃ g ∈ t.groups, g.ended = false) ∧ (∀ g ∈ t.groups, g.ended = false → g.gid ∈ t.arrived) then
      { t with barGen := t.barGen + 1, arrived := [] } else t) ∧
  (∀ (s : State) (c : Issuer) (sd sb : SReg), s.issuer? = some c → s.stopped c = false →
    exec (.barOwe sd 0 sb) s = .next (s.scalarFault c (.illegalEncoding, 0) 0) ∧
    exec (.barMarkn sd 0 sb) s = .next (s.scalarFault c (.illegalEncoding, 0) 0))

/-- R265, R290, R292: a `fence` in element mode enters one entry into the split's program order, behind the split's operations and, with `.lanes`,
behind what its clauses, once issued, have done; `qfence` puts one mark behind the commands of each named queue, passed at once where nothing
is ahead of it anywhere. Model's readings: log entry 15. -/
def Obligations.FencesAndJoinMarks : Prop :=
  ∀ (s : State) (c : Issuer), c.inPass = false →
    (∀ lanes kind scope, ScalarReady s c (.fence lanes kind scope) → c.team.red = none →
      (lanes = true → c.split.set.ran.any s.clausePending = true → exec (.fence lanes kind scope) s = .next s) ∧
      ((lanes = true → c.split.set.ran.any s.clausePending = false) → ∃ (o : MemOp) (past : List Nat),
        (∀ n, n ∈ past ↔ n ∈ c.split.set.past ∨ (lanes = true ∧ ∃ x ∈ s.ops, x.id = n ∧ ∃ q, x.cid = some q ∧ q ∈ c.split.set.ran)) ∧
        o.kind = .fence kind.toNat ∧ some o.scope = Scope.ofCode scope.toNat ∧ o.past = past ∧ o.uid = c.uid ∧
        exec (.fence lanes kind scope) s = .next (((s.pushOp o).modSplit c.ref fun p => p.modSet fun e =>
          { e with past := unite past [s.fresh] }).retire c.ref (c.pc + 4)))) ∧
    (∀ mask, ScalarReady s c (.qfence mask) → exec (.qfence mask) s =
      .next ((({ s with fresh := s.fresh + 1 } : State).modGroup c.team.id c.group.gid fun g =>
        ({ g with engines := Vector.ofFn fun j => if mask.getLsbD j.val then g.engines[j] ++ [.mark s.fresh] else g.engines[j] } :
          Group).dropMarks).retire c.ref (c.pc + 4)))

/-- R94, R217, R218, R219: the scalar instructions of a pass: a store, an atomic, an engine command and a write to a team-shared or
fabric register mark the active lanes as having effects; `trap` makes them UNDECIDED, which takes them out of EXEC for the rest of the pass;
`bar`, `fence` and `qfence` only go on; `mfc` of GROUPID takes INTERVAL_MODE. A load is performed when it is aligned, its page is read-only
and every check passes; otherwise no fault is raised and the active lanes become UNDECIDED, as they do when a descriptor cannot be read
or is not valid.
Model's readings: log entries 60, 61. -/
def Obligations.PassScalars : Prop :=
  ∀ (s : State) (c : Issuer) (i : Instr), c.inPass = true →
    (match tokenReg i with | some tok => CommandReady s c i tok | none => ScalarReady s c i) →
    let u := s.begun c i
    let k := c.begun s i
    let leaves (v : State) : State := (v.modGroup c.team.id c.group.gid (·.leavePass c.exec)).retire c.ref (c.pc + 4)
    let effects := (u.modGroup c.team.id c.group.gid fun g =>
      { g with pass := g.pass.map fun p => { p with effects := p.effects ||| c.exec } }).retire c.ref (c.pc + 4)
    (passEffects c i = true → exec i s = .next effects) ∧
    (passSkips i = true → exec i s = .next (u.retire c.ref (c.pc + 4))) ∧
    (∀ code, i = .trap code → exec i s = .next (leaves u)) ∧
    (∀ d, i = .mfc d 5 → exec i s = .next (u.scalarFault k (.intervalMode, 0) 0)) ∧
    (∀ x, scalarAccess c i = some x → x.access = .load ∨ x.access = .atomLoad → c.team.red = none →
      let check := u.checkAccess (some c.core) c.asid x.ea (4 * x.words) x.access x.fmtOk
      (x.ea.toNat % (4 * x.words) ≠ 0 ∨ (∃ f, check = .error f) ∨ (∃ l, check = .ok l ∧ l.w = true) → exec i s = .next (leaves u)) ∧
      (∀ l, x.ea.toNat % (4 * x.words) = 0 → check = .ok l → l.w = false →
        (u.canIssue [x.op k l] = false → exec i s = .next u) ∧
        (u.canIssue [x.op k l] = true → exec i s = .next ((((u.pushOp (x.op k l)).usedLeaf (some c.core) c.asid x.ea l).modGroup c.team.id
          c.group.gid fun (g : Group) => ((match x.dest with
            | some d => (regsFrom d x.words).foldl (fun (g : Group) r => g.mark c.ref.split r u.fresh false) g
            | none => g).modSplit c.ref.split fun p => p.modSet fun e => { e with past := unite e.past [u.fresh] })).retire
          c.ref (c.pc + 4))))) ∧
    (∀ a n, i = .mtcBd a n → u.descFree k n = true →
      let ea := c.pair a
      let got := u.reading k.agent k.uid ea.toNat
      (ea.toNat % 16 ≠ 0 → exec i s = .next (leaves u)) ∧
      (ea.toNat % 16 = 0 → got = none → (∃ f, u.checkAccess (some c.core) c.asid ea 16 .load Leaf.plainFmt = .error f) →
        exec i s = .next (leaves (u.splitTaken k))) ∧
      (∀ x, ea.toNat % 16 = 0 → got = some x → x.result ≠ none → x.intact = true →
        let w : QWord := BitVec.ofNat 128 (leNat (x.carried.map (·.1)))
        exec i s = .next (if descValid w then ((u.splitTaken k).modGroup c.team.id c.group.gid fun g =>
            { g with bd := vset g.bd n.toNat (some w) }).retire c.ref (c.pc + 4)
          else leaves (u.splitTaken k))))

/-! Encodings and the step. -/

/-- R74 to R79, R81, R82, R84, R85, R87: words written out field by field from the encoding tables decode to the instructions they stand for. -/
def Obligations.WrittenWordsDecode : Prop :=
  -- ALU-R: op 0, d 6, a 8, b 10, fn 1; SI: op 1, d 6, a 8, imm −2; SJ: op 0x11, c 9, offset −3
  (decodeScalar 0b000000_00110_01000_01010_00000000001).toOption = some (.sub 6 8 10) ∧
  (decodeScalar 0b000001_00110_01000_1111111111111110).toOption = some (.addi 6 8 0xFFFE) ∧
  (decodeScalar 0b010001_01001_111111111111111111101).toOption = some (.bz 9 0x1FFFFD) ∧
  -- predicate form: op 0x1A, p 3, negated, clause 5; SR: op 0x26, d 4, a 6, b 7, fn 1
  (decodeScalar 0b011010_01110_000000000000000000101).toOption = some (.run 3 true 5) ∧
  (decodeScalar 0b100110_00100_00110_00111_00000000001).toOption = some (.barHold 4 6 7) ∧
  -- a clause header: mark, N 3, wait for flag 2, A enabled and flag 5, B disabled
  decodeHeader ((0b11111111_0011_000000000100_1_0101_0_0000 : BitVec 34) ++ (0 : BitVec 62)) =
    some { n := 3, wait := 4, aen := true, fla := 5, ben := false, flb := 0 } ∧
  -- LA: op 0x00, guard 3 negated, all, d 5, a 18, b 33, type i32, saturating
  (decodeLane (0x00#8 ++ 3#3 ++ 1#1 ++ 1#1 ++ 0#1 ++ 0#2 ++ 5#7 ++ 18#7 ++ 33#7 ++ 0#7 ++ 0#5 ++ 0#3 ++ 2#2 ++ 0#42)).toOption =
    some (.iadd { h := { guard := 3, gneg := true, all := true, fs := false, d := 5 }, a := 18, b := 33, c := 0, ty := .i32, rnd := .rmode
                  sat := .sat, aneg := false, aabs := false, bneg := false, cneg := false, imm := false, fmod := 0, imm32 := 0 }) ∧
  -- opcode 0x2F is assigned to nothing, and bits that an entry leaves zero must be zero
  (decodeScalar 0b000000_00110_01000_01010_11111111111).toOption = none ∧ (decodeScalar 0b110011_00000_00000_0000000000000001).toOption = none

/-- R74 to R80: a scalar word decodes to an instruction exactly when it is that instruction's word; every bit pattern is one instruction's word
or no instruction's. -/
def Obligations.ScalarDecodeEncode : Prop :=
  ∀ (w : Word) (i : Instr), decodeScalar w = .ok i ↔ encodeScalar i = some w

/-- R81, R84, R85, R87 to R89: the word of every lane instruction that its entry accepts decodes to it, and whatever a word decodes to has that word.
Model's readings: log entry 149. -/
def Obligations.LaneDecodeEncode : Prop :=
  (∀ (i : Instr) (w : BitVec 96), i.laneWf = true → encodeLane i = some w → decodeLane w = .ok i) ∧
  (∀ (i : Instr) (w : BitVec 96), decodeLane w = .ok i → encodeLane i = some w) ∧
  (∀ (h : Header), decodeHeader (encodeHeader h) = some h ↔
    h.n ≠ 0 ∧ h.fla.toNat < 12 ∧ h.flb.toNat < 12 ∧ ¬ (h.aen = true ∧ h.ben = true ∧ h.fla = h.flb) ∧ (h.aen = false → h.fla = 0) ∧
      (h.ben = false → h.flb = 0)) ∧
  (∀ (h : Header) (w : BitVec 96), decodeHeader w = some h → encodeHeader h = w)

/-- R69, R70, R71, R91, R356: a step whose action is a split's scalar instruction reads the four bytes at its PC, unless they lie in a drained well, and
performs exactly what they decode to; a clause's next lane instruction and a device's event are performed likewise; then the cycles of the step pass.
The bytes are those that a load of the core finds, or those of a sector that was fetched ahead.
Model's readings: log entries 1, 5, 25, 177. -/
def Obligations.StepRunsDecoded : Prop :=
  ∀ (s : State) (rest : List Action),
    let s0 : State := { s with agenda := rest }
    let passes (o : Out State) : Out State := match o with | .next t => .next t.tick | .fault f => .fault f | .refused r => .refused r
    (∀ r c, s.agenda = .scalar r :: rest → s0.issuerOf r = some c → s0.stopped c = false →
      (s0.reachable (some c.core) c.asid c.pc 4 = false → step s = passes (.next s0)) ∧
      (s0.reachable (some c.core) c.asid c.pc 4 = true →
        (∀ w l, s0.fetchScalar c.core c.launch.id c.asid c.pc = .ok (w, l) →
          let u : State := { s0.usedLeaf (some c.core) c.asid c.pc l with focus := some r }
          (∀ i, decodeScalar w = .ok i → step s = passes (exec i u)) ∧
          ((decodeScalar w).isOk = false → step s = passes (exec (.illegalEncoding w) u))) ∧
        (∀ why, s0.fetchScalar c.core c.launch.id c.asid c.pc = .error why →
          step s = passes (exec (.scalarFetch why) { s0 with focus := some r })))) ∧
    (∀ r i, s.agenda = .lane r :: rest → s0.nextLane r = some i → step s = passes (exec i { s0 with focus := some r })) ∧
    (∀ i, s.agenda = .event i :: rest → i.view = .event → step s = passes (exec i { s0 with focus := none })) ∧
    (s.agenda = [] → s.prompt = none → step s = .next s.tick) ∧
    (∀ a, s.agenda = [] → s.prompt = some a → step s = passes (s.perform a)) ∧
    (∀ core launch asid pc w l, s.fetchScalar core launch asid pc = .ok (w, l) → s.translate (some core) asid pc = .leaf l ∧ l.xn = false ∧
      (w = BitVec.ofNat 32 (leNat (s.find none (some core) seesAll (l.pa pc) 4).1) ∨
        ∃ e ∈ s.fetches, e.launch = launch ∧ e.sector = pc.toNat / 32 ∧
          w = BitVec.ofNat 32 (leNat ((e.bytes.drop (pc.toNat % 32)).take 4)))) ∧
    (∀ core launch asid pc l, s.translate (some core) asid pc = .leaf l → l.xn = false →
      ∃ w, s.fetchScalar core launch asid pc = .ok (w, l))

/-- R70, R80, R93: a word that decodes to nothing takes ILLEGAL_ENCODING at its PC; a failed fetch takes XN_FETCH, TRANSLATION 1 or 2, or, for
a word with an uncorrectable error, UNCORRECTABLE_REG 2, with the PC as its address; a word whose entry refuses its fields is not performed either
(R93). R91: an instruction that reads or writes a register still to receive a result, and one whose split is stopped, leaves the machine as it is. Model's readings: log entry 12. -/
def Obligations.ScalarWordsRefused : Prop :=
  ∀ (s : State) (c : Issuer), s.issuer? = some c →
    (s.stopped c = false →
      (∀ w, (decodeScalar w).isOk = false → exec (.illegalEncoding w) s = .next (s.scalarFault c (.illegalEncoding, 0) 0)) ∧
      exec (.scalarFetch .xn) s = .next (s.scalarFault c (.xnFetch, 0) c.pc) ∧
      exec (.scalarFetch .notPresent) s = .next (s.scalarFault c (.translation, 1) c.pc) ∧
      exec (.scalarFetch .malformed) s = .next (s.scalarFault c (.translation, 2) c.pc) ∧
      exec (.scalarFetch .checkWord) s = .next (s.scalarFault c (.uncorrectableReg, 2) c.pc)) ∧
    (∀ i d a, i = .sld d a 0 ∨ i = .sst d a 0 ∨ i = .sld2 d a 0 ∨ i = .sst2 d a 0 → s.stopped c = false → a.getLsbD 0 = true →
      exec i s = .next (s.scalarFault c (.illegalEncoding, 0) 0)) ∧
    (∀ i d v, aluResult c.read i = some (d, v) → s.stopped c = true ∨ (scalarReads i ++ [d]).any (c.group.busyReg c.ref.split) = true →
      exec i s = .next s)

/-! Lane instructions. -/

/-- R127 to R129, R216: every integer lane instruction gives each active lane the exact result of its table, element by element, wrapped or
saturated; in a pass the bounds that its row gives, exact where they fit the type, clamped under saturation, otherwise full; `mov` copies pairs with
their tags.
Model's readings: log entries 56, 150. -/
def Obligations.LaneIntegerResults : Prop :=
  (∀ (s : State) (c : LaneCtx) (i : Instr) (h : LaneHead) (r : LaneResult), LaneReady s c i h → i.laneWf = true → QueuesReady c i →
    laneInt c i = some r → LaneComputes s c i h r) ∧
  (∀ (s : State) (c : LaneCtx) (i : Instr) (h : LaneHead) (p : PassInfo) (r : PassResult), PassReady s c i h p → i.laneWf = true →
    passInt c i = some r → PassComputes s c i h r) ∧
  (∀ (s : State) (c : LaneCtx) (f : LA) (p : PassInfo), PassReady s c (.mov f) f.h p → Instr.laneWf (.mov f) = true →
    f.imm = false → f.a.toNat < 96 → f.h.d.toNat < 96 →
    ∃ u : State, exec (.mov f) s = .next (u.laneDone c) ∧ ∃ g' : Group, u.group? c.team.id c.group.gid = some g' ∧ g'.p = c.group.p ∧ g'.s = c.group.s ∧
      (f.ty.regs = 1 → 2 * f.h.d.toNat + 1 < c.group.v.length → f.h.d.toNat < p.tags.length → ∀ l, c.em.has l = true →
        LMap.injective (c.group.vreg (2 * f.a.toNat)).map = true →
        (g'.vreg (2 * f.h.d.toNat)).read l = (c.group.vreg (2 * f.a.toNat)).read l ∧
        (g'.vreg (2 * f.h.d.toNat + 1)).read l = ((c.group.vreg (2 * f.a.toNat + 1)).realign (c.group.vreg (2 * f.a.toNat)).map).read l ∧
        g'.tagOf f.h.d.toNat l = c.group.tagOf f.a.toNat l))

/-- R121 to R123, R130 to R132, R215, R216: every float lane instruction and dot product gives each active lane the exact result of its elements,
rounded once, with NaN canonical, subnormals flushed as FTZM says, and a draw of the lane's generator under stochastic rounding; in a pass the bounds
of its row, the low one rounded down and the high one up, full where a choice of values gives NaN, and no draw.
Model's readings: log entries 45, 55, 151, 152, 182. -/
def Obligations.LaneFloatResults : Prop :=
  (∀ (s : State) (c : LaneCtx) (i : Instr) (h : LaneHead) (r : LaneResult), LaneReady s c i h → i.laneWf = true → QueuesReady c i →
    laneFloat c i = some r → LaneComputes s c i h r) ∧
  (∀ (s : State) (c : LaneCtx) (i : Instr) (h : LaneHead) (p : PassInfo) (r : PassResult), PassReady s c i h p → i.laneWf = true →
    passFloat c i = some r → PassComputes s c i h r)

/-- R133 to R135, R137 to R144, R149, R224, R225, R282: conversions, special functions, expressions, selections, predicates and ballots as words,
`ivmk`, `qcnt` and `lclk` write each active lane's result to their destination: exact at the values of R142, elsewhere, where R141 leaves the result open, a
code within the bound of R141 or the nearest one; in a pass the bounds of their rows.
Model's readings: log entries 9, 42, 43, 44, 46, 56, 150, 182, 183. -/
def Obligations.LaneOtherResults : Prop :=
  (∀ (s : State) (c : LaneCtx) (i : Instr) (h : LaneHead) (r : LaneResult), LaneReady s c i h → i.laneWf = true → QueuesReady c i →
    laneOther s c i = some r → LaneComputes s c i h r) ∧
  (∀ (fn : SpecialFn) (m : FFmt) (x : FVal), fn.exact = false →
    (fn.within m x (fn.value x) (fn.open_ m x) = true ∨ fn.open_ m x = m.round 0 false 0 (fn.value x)) ∧
    (∀ code, fn.within m x (fn.value x) code = true →
      let r : FVal := match m.decode code with | .inf n => .fin n 1 (m.bias + 1) | r => r
      r.isNan = false ∧ FVal.le (FVal.sum false [r, (fn.value x).neg]).abs (fn.bound m x (fn.value x)) = true ∧
      (fn = .sin ∨ fn = .cos → FVal.le r.abs (.fin false 1 0) = true))) ∧
  (∀ (s : State) (c : LaneCtx) (i : Instr) (h : LaneHead) (p : PassInfo) (r : PassResult), PassReady s c i h p → i.laneWf = true →
    passOther c i = some r → PassComputes s c i h r) ∧
  (∀ (s : State) (c : LaneCtx) (f : LA) (p : PassInfo),
    let at_ (l : Fin 32) : Option Bool := c.group.decided f.a.toNat f.aneg l
    (PassReady s c (.pmov f) f.h p → f.fmod = 0 → exec (.pmov f) s = .next ((s.putBounds c f.h 1 LMap.id
      (fun l => if at_ l = some false then (0, 0) else (0, 2 ^ 32 - 1)) fun _ => .b32).laneDone c)) ∧
    (PassReady s c (.vote f) f.h p → f.fmod = 0 → (∀ l, c.em.has l = true → at_ l ≠ none) → exec (.vote f) s = .next ((s.putBounds c f.h 1 LMap.id
      (fun l => if at_ l = some false then (0, 0) else (0, 2 ^ 32 - 1)) fun _ => .n32).laneDone c)) ∧
    (PassReady s c (.sel f) f.h p → Instr.laneWf (.sel f) = true → f.imm = false → f.ty.regs = 1 → f.a.toNat < 96 → f.b.toNat < 96 →
      ∃ v : Fin 32 → Bounds × LType, exec (.sel f) s = .next ((s.putBounds c f.h 1
          (let T := targetMap [c.ivMap (.src 1, f.a), c.ivMap (.src 1, f.b)]; if T.injective || c.full then T else LMap.id)
          (fun l => (v l).1) fun l => (v l).2).laneDone c) ∧
        ∀ l, let a := c.group.rawPair f.a.toNat 1 l
          let b := c.group.rawPair f.b.toNat 1 l
          let ta := c.group.tagOf f.a.toNat l
          let tb := c.group.tagOf f.b.toNat l
          (c.group.decided f.c.toNat f.cneg l = some true → (v l).1 = ((wordAt a.1 0).toNat, (wordAt a.2 0).toNat) ∧ (v l).2 = ta) ∧
          (c.group.decided f.c.toNat f.cneg l = some false → (v l).1 = ((wordAt b.1 0).toNat, (wordAt b.2 0).toNat) ∧ (v l).2 = tb) ∧
          (c.group.decided f.c.toNat f.cneg l = none →
            ((ta ≠ tb ∨ ta = .b32) → v l = ((0, 2 ^ 32 - 1), .b32)) ∧
            (∀ w, ta = tb → typeElem ta = .sint w → w = 32 → (v l).2 = ta ∧
              signed 32 (v l).1.1 = min (signed 32 a.1) (signed 32 b.1) ∧ signed 32 (v l).1.2 = max (signed 32 a.2) (signed 32 b.2)))))

/-- R136, R138, R139, R213, R216, R224, R225, R279: compares, `pset`, `pmov` and votes to a predicate, `ivtest` and `conf` write their truth on the
lanes of the effective mask and leave the other lanes of the predicate, and p0, as they are. In a pass they write a pair: a compare of integers is
decided true when it holds for every pair of values of the intervals, decided false when for none, otherwise undecided, and and-ed with its predicate.
Model's readings: log entry 156. -/
def Obligations.LanePredicateResults : Prop :=
  (∀ (s : State) (c : LaneCtx) (i : Instr) (h : LaneHead) (m : Mask), LaneReady s c i h → i.laneWf = true → QueuesReady c i →
    (∀ l, lanePred c i (fun j => { a := (c.sources i).a.vals[j], b := (c.sources i).b.vals[j], c := (c.sources i).c.vals[j], d := 0 }) l =
      some (m.has l)) →
    exec i s = .next ((s.modGroup c.team.id c.group.gid fun g =>
      { g.pop (popsOf i.laneFields) with
        p := Vector.ofFn fun k => if k.val = h.d.toNat ∧ k.val ≠ 0 then (g.p[k] &&& ~~~c.em) ||| (m &&& c.em) else g.p[k] }).laneDone c)) ∧
  (∀ (s : State) (c : LaneCtx) (i : Instr) (h : LaneHead) (p : PassInfo) (v : Fin 32 → Option Bool), PassReady s c i h p → i.laneWf = true →
    (∀ l, passPred c i l = some (v l)) → exec i s = .next (passWrites s c h.d.toNat v)) ∧
  (∀ (s : State) (c : LaneCtx) (f : LA) (p : PassInfo), PassReady s c (.icmp f) f.h p → Instr.laneWf (.icmp f) = true →
    ∃ v : Fin 32 → Option Bool, exec (.icmp f) s = .next (passWrites s c f.h.d.toNat fun l => and3 (v l) (c.group.decided f.c.toNat f.cneg l)) ∧
      ∀ l, let x := c.ivTyped (.icmp f) f.ty l
        let holds (a b : Int) : Prop := match f.fmod.toNat with
          | 0 => a = b | 1 => a ≠ b | 2 => a < b | 3 => a ≤ b | 4 => b < a | 5 => b ≤ a | 6 => True | _ => False
        let every (q : Prop → Prop) : Prop := ∀ a b : Int, intOf f.ty x.a.1 ≤ a → a ≤ intOf f.ty x.a.2 → intOf f.ty x.b.1 ≤ b →
          b ≤ intOf f.ty x.b.2 → q (holds a b)
        (f.imm = false → f.a.toNat < 96 → f.b.toNat < 96 → (v l = some true ↔ every id) ∧ (v l = some false ↔ every Not))) ∧
  (∀ (s : State) (c : LaneCtx) (f : LM) (p : PassInfo), PassReady s c (.conf f) f.h p → Instr.laneWf (.conf f) = true →
    let pair (l : Fin 32) : Bounds := c.ivField (.src f.width.regs, f.a) (if f.width.regs = 2 then .n64 else .n32) l
    ((∀ l, c.em.has l = true → (pair l).1 = (pair l).2) → exec (.conf f) s = .next (passWrites s c f.h.d.toNat fun l =>
      some ((List.finRange 32).any fun j => j < l && c.em.has j && (pair j).1 == (pair l).1))) ∧
    ((∃ l, c.em.has l = true ∧ (pair l).1 ≠ (pair l).2) → exec (.conf f) s = .next (passWrites s c f.h.d.toNat fun l =>
      if ∃ j : Fin 32, j < l ∧ c.em.has j = true then none else some false)))

/-- R53, R56, R57, R61: results that a lane instruction writes to n vector registers under an injective map read back in every active lane, with the
map as their own; under a partial mask every other lane keeps its value; the other registers are unchanged. A pushed entry holds the active
lanes' results and zeros. R210, R212, R214: in a pass a pair is read under a type as its bits when it is degenerate, with its bounds when it carries that tag
or both readings are of one width and non-negative, otherwise as the full range; a pair of bounds is written with its tag, and s16 to s31 only when every
active lane holds one degenerate value, the lanes becoming UNDECIDED otherwise.
Model's readings: log entries 37, 38. -/
def Obligations.LaneDestinations : Prop :=
  (∀ (g : Group) (choice d n : Nat) (full : Bool) (D : LMap) (em : Mask) (f : Fin 32 → Nat), D.injective = true → d + n ≤ g.v.length →
    (∀ k, k < n → ∀ l, ((g.putVregs choice d n full D em f).vreg (d + k)).read l =
      if em.has l then BitVec.ofNat 32 (f l / 2 ^ (32 * k)) else
        if full then (g.vreg (d + k)).phys[D[l]] else (g.vreg (d + k)).read l) ∧
    (∀ k, k < n → ((g.putVregs choice d n full D em f).vreg (d + k)).map = D) ∧
    (∀ j, j < d ∨ d + n ≤ j → (g.putVregs choice d n full D em f).vreg j = g.vreg j) ∧
    (∀ l, (entryLanes em f)[l] = if em.has l then BitVec.ofNat 32 (f l) else 0)) ∧
  (∀ (g : Group) (n : Nat) (t : LType) (l : Fin 32),
    let b := g.rawPair n t.regs l
    let el (u : LType) (v k : Nat) : Int := intOf u (elemAt u.width v k)
    let inOrder := isInt t = true → ∀ k, k < t.count → el t b.1 k ≤ el t b.2 k
    (b.1 = b.2 → g.bounds n t l = b) ∧
    (b.1 ≠ b.2 → ∀ u, g.commonTag n t.regs l = some u →
      (u = t → inOrder → g.bounds n t l = b) ∧
      (u ≠ t → sameInts t u = true → (∀ k, k < t.count → 0 ≤ el t b.1 k ∧ 0 ≤ el t b.2 k ∧ 0 ≤ el u b.1 k ∧ 0 ≤ el u b.2 k) → inOrder →
        g.bounds n t l = b) ∧
      (u ≠ t → (sameInts t u = false ∨ ∃ k, k < t.count ∧ (el t b.1 k < 0 ∨ el t b.2 k < 0 ∨ el u b.1 k < 0 ∨ el u b.2 k < 0)) →
        g.bounds n t l = fullRange t) ∧
      (isInt t = true → (∃ k, k < t.count ∧ el t b.2 k < el t b.1 k) → g.bounds n t l = fullRange t))) ∧
  (∀ (s : State) (c : LaneCtx) (h : LaneHead) (n : Nat) (D : LMap) (f : Fin 32 → Bounds) (tag : Fin 32 → LType),
    (112 ≤ h.d.toNat →
      (∀ v, (∀ l, c.em.has l = true → f l = (v, v)) → c.em ≠ 0 → ∃ id, (s.putBounds c h n D f tag).late = s.late ++
        [{ id := id, team := c.team.id, group := c.group.gid, sid := c.clause.sid, cid := c.clause.cid, flag := flagOf c.hdr h.fs
           effect := .sreg (BitVec.ofNat 5 (h.d.toNat - 96)) (BitVec.ofNat 32 v) }]) ∧
      ((∃ l k, c.em.has l = true ∧ c.em.has k = true ∧ (f l ≠ f k ∨ (f l).1 ≠ (f l).2)) → s.putBounds c h n D f tag =
        s.modGroup c.team.id c.group.gid (·.leaveClauses c.em))) ∧
    (h.d.toNat < 96 → n = 1 → s.group? c.team.id c.group.gid = some c.group → D.injective = true → 2 * h.d.toNat + 1 < c.group.v.length →
      ∀ p, c.group.pass = some p → h.d.toNat < p.tags.length → ∃ g' : Group, (s.putBounds c h n D f tag).group? c.team.id c.group.gid = some g' ∧
        ∀ l, c.em.has l = true → (g'.vreg (2 * h.d.toNat)).read l = BitVec.ofNat 32 (f l).1 ∧
          (g'.vreg (2 * h.d.toNat + 1)).read l = BitVec.ofNat 32 (f l).2 ∧ g'.tagOf h.d.toNat l = tag l))

/-- R31, R52, R61: the frame of the lane instructions that compute lane by lane: only the destination's registers, the queues popped and pushed, the
generators and the clause change in the group, the scalar registers only later; of the team nothing else changes, its other groups, scratchpad, tiles and
shared registers included, and of the machine only the writes to come. -/
def Obligations.LaneFrame : Prop :=
  ∀ (s t : State) (c : LaneCtx) (i : Instr) (h : LaneHead), LaneReady s c i h → i.laneWf = true → QueuesReady c i →
    ((laneInt c i).isSome ∨ (laneFloat c i).isSome ∨ (laneOther s c i).isSome) → c.group.whole = true → exec i s = .next t →
    t = { s with teams := t.teams, fresh := t.fresh, choice := t.choice, late := t.late } ∧ SameTeams s t c.team.id c.group.gid ∧
    (h.d.toNat < 112 → t.late = s.late) ∧ (∃ l, t.late = s.late ++ l) ∧
    ∃ g' : Group, t.group? c.team.id c.group.gid = some g' ∧
      g' = { c.group with v := g'.v, q := g'.q, gen := g'.gen, clauses := g'.clauses, holds := g'.holds, watch := g'.watch, k := g'.k, busy := g'.busy } ∧
      (h.d.toNat < 112 → g'.k = c.group.k ∧ g'.busy = c.group.busy) ∧
      (∀ r : Fin 4, r ≠ c.ref.split → g'.clauses[r] = c.group.clauses[r]) ∧
      (∀ q : Fin 16, q.val ∉ popsOf i.laneFields → pushOf i.laneFields ≠ some q.val → g'.q[q] = c.group.q[q]) ∧
      (∀ j, j < h.d.toNat ∨ h.d.toNat + 4 ≤ j ∨ 96 ≤ h.d.toNat → g'.vreg j = c.group.vreg j) ∧
      (∀ j, j < h.d.toNat ∨ h.d.toNat + 4 ≤ j ∨ 96 ≤ h.d.toNat → g'.v[j]? = c.group.v[j]?) ∧ SameBytes s t

/-- R52, R145, R146, R148, R190: a map edit of a single register gives each active lane the value that lane sel of a had before; under a partial mask
the other lanes keep theirs; under the full mask the lanes are copied whole and the maps composed. Wide registers likewise. In a pass both registers of
a pair and its tag are edited alike, and the lanes whose index, predicate or record is not degenerate become UNDECIDED.
Model's readings: log entries 39, 148, 150. -/
def Obligations.MapEdits : Prop :=
  (∀ (s : State) (c : LaneCtx) (i : Instr) (h : LaneHead) (f : LA) (sel : Fin 32 → Fin 32), LaneReady s c i h → i.laneWf = true →
    QueuesReady c i → laneSelector c i = some (f, sel) →
    let d := f.h.d.toNat
    let wide := f.imm32.getLsbD 31 = true ∧ i ≠ .permld f
    ∃ u : State, exec i s = .next (u.laneDone c) ∧ SameBytes s u ∧ ∃ g' : Group, u.group? c.team.id c.group.gid = some g' ∧ g'.p = c.group.p ∧ g'.s = c.group.s ∧
      (¬ wide → f.ty.regs = 1 → d < 96 → d < c.group.v.length →
        (∀ l, c.em.has l → ((g'.vreg d).read l).toNat = (c.sources i).a.vals[sel l]) ∧
        (c.full = false → ∀ l, ¬ c.em.has l → (g'.vreg d).read l = (c.group.vreg d).read l) ∧
        (c.full = true → f.a.toNat < 96 → (g'.vreg d).phys = (c.group.vreg f.a.toNat).phys ∧
          ∀ l, (g'.vreg d).map[l] = (c.group.vreg f.a.toNat).map[sel l]) ∧
        (∀ j, j ≠ d → g'.vreg j = c.group.vreg j) ∧ g'.w = c.group.w) ∧
      (wide →
        (∀ l, c.em.has l → (g'.wreg f.h.d).read l = (c.group.wreg f.a).read (sel l)) ∧
        (c.full = false → ∀ l, ¬ c.em.has l → (g'.wreg f.h.d).read l = (c.group.wreg f.h.d).read l) ∧
        (c.full = true → ∀ l, (g'.wreg f.h.d).map[l] = (c.group.wreg f.a).map[sel l]) ∧ g'.v = c.group.v)) ∧
  (∀ (s : State) (c : LaneCtx) (i : Instr) (h : LaneHead) (p : PassInfo) (f : LA) (sel : Fin 32 → Fin 32), PassReady s c i h p → i.laneWf = true →
    passSelector c i = some (f, sel) →
    let d := f.h.d.toNat
    let wide := f.imm32.getLsbD 31 = true ∧ i ≠ .permld f
    ∃ u : State, exec i s = .next (u.laneDone c) ∧ SameBytes s u ∧ ∃ g' p', u.group? c.team.id c.group.gid = some g' ∧ g'.pass = some p' ∧
      (∀ l, (looseLanes c i).has l = true → p'.undecided.has l = true) ∧ (d < 96 → p'.undecided = p.undecided ||| looseLanes c i) ∧
      g'.p = c.group.p ∧ g'.s = c.group.s ∧
      (¬ wide → f.ty.regs = 1 → d < 96 → f.a.toNat < 96 → 2 * d + 1 < c.group.v.length → d < p.tags.length → f.a.toNat < p.tags.length →
        (∀ l, c.em.has l → ¬ (looseLanes c i).has l → (g'.vreg (2 * d)).read l = (c.group.vreg (2 * f.a.toNat)).read (sel l) ∧
          (g'.vreg (2 * d + 1)).read l = (c.group.vreg (2 * f.a.toNat + 1)).read (sel l) ∧ g'.tagOf d l = c.group.tagOf f.a.toNat (sel l)) ∧
        (∀ j, j ≠ 2 * d → j ≠ 2 * d + 1 → g'.vreg j = c.group.vreg j)))

/-- R147, R148: `mapget` gives each lane the physical lane that the map of a names for it, `mat` the value of a, under the identity map; `xpose` and
`qmix` give four registers, each lane from the register and lane of their formulas, all sources read first. In a pass `mapget` gives degenerate
intervals, and `xpose` and `qmix` move both registers of each pair with its tag. Model's readings: log entry 40. -/
def Obligations.MapMoves : Prop :=
  ∀ (s : State) (c : LaneCtx) (h : LaneHead) (f : LA),
    let moves (i : Instr) (src : Nat → Fin 32 → Nat × Fin 32) : Prop :=
      i = .xpose f ∧ (∀ j l, src j l = (l.val % 4, Fin.ofNat 32 (l.val / 4 * 4 + j))) ∨
      i = .qmix f ∧ (∀ j l, let b := f.imm32.toNat / 2 ^ (8 * j) % 256; src j l = (b % 4, Fin.ofNat 32 (l.val ^^^ (b / 4 % 32))))
    (∀ m : LMap, LaneReady s c (.mapget f) h → Instr.laneWf (.mapget f) = true → QueuesReady c (.mapget f) →
      (if f.imm32.getLsbD 31 then m = (c.group.wreg f.a).map else f.a.toNat < 96 ∧ m = (c.group.vreg f.a.toNat).map) →
      exec (.mapget f) s = .next ((({ s with choice := s.choice + 1 } : State).putGeneral c h 1 LMap.id fun l => (m[l]).val).laneDone c)) ∧
    (LaneReady s c (.mat f) h → Instr.laneWf (.mat f) = true → QueuesReady c (.mat f) →
      (f.imm32.getLsbD 31 = false → exec (.mat f) s = .next (((s.modGroup c.team.id c.group.gid fun g => g.pop (popsOf (Instr.mat f).laneFields)).putGeneral c h
        f.ty.regs LMap.id fun l => (c.sources (.mat f)).a.vals[l]).laneDone c)) ∧
      (f.imm32.getLsbD 31 = true → exec (.mat f) s = .next ((({ s with choice := s.choice + 1 } : State).modGroup c.team.id c.group.gid fun g =>
        { g with w := vmod g.w f.h.d.toNat fun r => r.put s.choice c.full LMap.id c.em (c.group.wreg f.a).read }).laneDone c))) ∧
    (∀ i src, moves i src → LaneReady s c i h → i.laneWf = true → f.h.d.toNat + 4 ≤ c.group.v.length →
      ∃ u : State, exec i s = .next (u.laneDone c) ∧ SameBytes s u ∧ ∃ g' : Group, u.group? c.team.id c.group.gid = some g' ∧
        (∀ j, j < 4 → ∀ l, (c.em.has l → (g'.vreg (f.h.d.toNat + j)).read l = (c.group.vreg (f.a.toNat + (src j l).1)).read (src j l).2) ∧
          (c.full = false → ¬ c.em.has l → (g'.vreg (f.h.d.toNat + j)).read l = (c.group.vreg (f.h.d.toNat + j)).read l)) ∧
        (∀ j, j < f.h.d.toNat ∨ f.h.d.toNat + 4 ≤ j → g'.vreg j = c.group.vreg j) ∧ g'.p = c.group.p ∧ g'.s = c.group.s ∧ g'.w = c.group.w) ∧
    (∀ (p : PassInfo) (m : LMap), PassReady s c (.mapget f) h p → Instr.laneWf (.mapget f) = true →
      (if f.imm32.getLsbD 31 then m = (c.group.wreg f.a).map else f.a.toNat < 96 ∧ m = (c.group.vreg (2 * f.a.toNat)).map) →
      exec (.mapget f) s = .next ((({ s with choice := s.choice + 1 } : State).putBounds c h 1 LMap.id (fun l => ((m[l]).val, (m[l]).val))
        fun _ => .n32).laneDone c)) ∧
    (∀ i src p, moves i src → PassReady s c i h p → i.laneWf = true → 2 * (f.h.d.toNat + 4) ≤ c.group.v.length → f.h.d.toNat + 4 ≤ p.tags.length →
      ∃ u : State, exec i s = .next (u.laneDone c) ∧ SameBytes s u ∧ ∃ g' : Group, u.group? c.team.id c.group.gid = some g' ∧
        ∀ j, j < 4 → ∀ l, c.em.has l →
          let a := f.a.toNat + (src j l).1
          let b := c.group.rawPair a 1 (src j l).2
          (g'.vreg (2 * (f.h.d.toNat + j))).read l = BitVec.ofNat 32 b.1 ∧ (g'.vreg (2 * (f.h.d.toNat + j) + 1)).read l = BitVec.ofNat 32 b.2 ∧
          g'.tagOf (f.h.d.toNat + j) l = c.group.tagOf a (src j l).2)

/-- R189, R191 to R196: a wide result is held exactly when it fits 128 bits at its exponent; otherwise E rises by the least amount that lets F fit, the
value is truncated towards zero and LOSS set; above 511 the lane is NONFIN, and a NONFIN lane holds zeros. The lane path in element mode: `wclr`, `wadd` and
the moves into a wide register write the active lanes under the map of their sources; `wmov.f` and `wmov.e` read words of F, and E with the flags;
`wrnd` rounds each lane once under the record's shift; `scan` and `dacc` set the map of wd at issue and deliver their lanes later under their flag. In a
pass none is performed, and a destination pair receives its full range. Model's readings: log entries 47, 48, 49, 50. -/
def Obligations.WideInstructions : Prop :=
  (∀ (v e base : Int) (loss : Bool), holdWide v e base true loss = { f := 0, e := 0, nonfin := true, loss := loss }) ∧
  (∀ (v base : Int) (loss : Bool),
      let fits (z : Int) : Prop := -(2 ^ 127) ≤ z ∧ z < 2 ^ 127
      let x := holdWide v base base false loss
      ∃ r : Nat, fits (v.tdiv (2 ^ r)) ∧ (∀ q : Nat, q < r → ¬ fits (v.tdiv (2 ^ q))) ∧
        (511 < base + r → x = { f := 0, e := 0, nonfin := true, loss := true }) ∧
        (-512 ≤ base + r → base + r ≤ 511 → x.f.toInt = v.tdiv (2 ^ r) ∧ x.e.toInt = base + r ∧ x.nonfin = false ∧ x.loss = (loss || r != 0)) ∧
        (base + r < -512 → x.f.toInt = (v.tdiv (2 ^ r)).tdiv (2 ^ (-512 - (base + r)).toNat) ∧ x.e.toInt = -512 ∧ x.nonfin = false ∧ x.loss = true)) ∧
  (∀ (s : State) (c : LaneCtx) (i : Instr) (h : LaneHead), LaneReady s c i h → i.laneWf = true → QueuesReady c i →
      let pops := popsOf i.laneFields
      let dest (T : LMap) (dep : Bool) : LMap := if T.injective || (c.full && !dep) then T else LMap.id
      (∀ f maps v, laneWide c i = some (f, maps, v) → exec i s = .next ((({ s with choice := s.choice + 1 } : State).modGroup c.team.id
        c.group.gid fun g => { g.pop pops with w := vmod g.w f.h.d.toNat fun r => r.put s.choice c.full (dest (targetMap maps) false) c.em v }).laneDone c)) ∧
      (∀ f, i = .wclr f → laneWide c i = some (f, [], fun _ => { f := 0, e := f.imm32.extractLsb' 0 10, nonfin := false, loss := false })) ∧
      (∀ f, i = .wadd f → (laneWide c i).isSome = true) ∧
      (∀ f, i = .wmov f → f.fmod = 1 ∨ f.fmod = 2 ∨ (laneWide c i).isSome = true) ∧
      (∀ f, i = .wmov f → (f.fmod = 1 ∨ f.fmod = 2) → exec i s = .next ((s.putGeneral c h 1
        (if h.d.toNat < 96 then dest (targetMap [some (c.group.wreg f.a).map]) false else LMap.id) fun l =>
          let x := (c.group.wreg f.a).read l
          if f.fmod = 1 then (x.f.extractLsb' (32 * (f.imm32.toNat % 4)) 32).toNat
          else (if x.nonfin then 2 ^ 31 else 0) + (if x.loss then 2 ^ 30 else 0) + x.e.toNat).laneDone c)) ∧
      (∀ f, i = .wrnd f →
        let shift := if f.fmod.getLsbD 1 then 0 else signed 8 (c.record f.b.toNat / 2 ^ 244)
        let band (l : Fin 32) : Option Nat := if f.fmod.getLsbD 0 then some ((c.sources i).c.vals[l] % 65536) else none
        let T := targetMap [some (c.group.wreg f.a).map, if f.fmod.getLsbD 0 then (c.sources i).c.map else none]
        let D := if h.d.toNat < 96 then dest T (rndMode f.rnd c.clause.rmode (typeElem f.ty).cls == 5) else LMap.id
        let r (l : Fin 32) : Nat × DWord :=
          if c.em.has l then wrndLane c f shift ((c.group.wreg f.a).read l) (band l) c.group.gen[l] else (0, c.group.gen[l])
        exec i s = .next (((s.modGroup c.team.id c.group.gid fun g => { g.pop pops with gen := Lanes.gen fun l => (r l).2 }).putGeneral c h
          f.ty.regs D fun l => (r l).1).laneDone c)) ∧
      (∀ f, i = .scan f ∨ i = .dacc f → ∃ (u : State) (x : LateWrite) (lanes : List (Fin 32 × WLane)) (g' : Group),
        exec i s = .next (u.laneDone c) ∧ u.late = s.late ++ [x] ∧ SameBytes s u ∧ u.group? c.team.id c.group.gid = some g' ∧
        x.team = c.team.id ∧ x.group = c.group.gid ∧ x.cid = c.clause.cid ∧ x.flag = flagOf c.hdr f.h.fs ∧
        x.effect = .wide (Fin.ofNat 8 f.h.d.toNat) lanes ∧ g'.v = c.group.v ∧ g'.s = c.group.s ∧ g'.p = c.group.p ∧
        let was := c.group.wreg f.h.d
        let now := g'.wreg f.h.d
        let active := (List.finRange 32).filter c.em.has
        (c.full = false → ∀ l, now.read l = was.read l) ∧
        (i = .scan f → now.map = LMap.id ∧ lanes = active.map fun l =>
          (l, scanLane f.ty (f.fmod.getLsbD 0) c.em (fun j => (typeElem f.ty).decode
            (if f.ty.isPlanar then 4 * elemAt 4 (c.sources i).a.vals[j] (f.imm32.toNat % 16) + elemAt 2 (c.sources i).b.vals[j] (f.imm32.toNat % 16)
             else elemAt f.ty.width (c.sources i).a.vals[j] (f.imm32.toNat % 16))) l)) ∧
        (i = .dacc f → ∃ D : WLane,
          (c.full = true → now.map = Lanes.all 0 ∧ lanes = [(0, D)]) ∧
          (c.full = false → now.map = (if LMap.injective was.map then was.map else LMap.id) ∧ lanes = active.map fun l => (now.map[l], D)) ∧
          let ws := (c.group.wreg f.a).read
          let nonfin := (List.finRange 32).any fun l => (ws l).nonfin
          (signed 8 (c.record f.b.toNat / 2 ^ 244) ≠ -128 → D = daccValue (f.fmod.getLsbD 0) (c.record f.b.toNat) ws) ∧
          (signed 8 (c.record f.b.toNat / 2 ^ 244) = -128 → D.f = 0 ∧ D.nonfin = nonfin ∧
            D.loss = (List.finRange 32).any fun l => (ws l).loss)))) ∧
  (∀ (s : State) (c : LaneCtx) (i : Instr) (h : LaneHead) (p : PassInfo) (f : LA), PassReady s c i h p →
      (i = .scan f ∨ i = .dacc f ∨ i = .wclr f ∨ i = .wadd f ∨ (i = .wmov f ∧ f.fmod ≠ 1 ∧ f.fmod ≠ 2) → exec i s = .next (s.laneDone c)) ∧
      (i = .wmov f ∧ (f.fmod = 1 ∨ f.fmod = 2) → exec i s = .next ((s.putBounds c h 1 LMap.id (fun _ => (0, 2 ^ 32 - 1)) fun _ => .b32).laneDone c)) ∧
      (i = .wrnd f → exec i s = .next ((s.putBounds c h f.ty.regs LMap.id (fun _ => fullRange f.ty) fun _ => f.ty).laneDone c)))

/-- R224: `ivlo` and `ivhi` give the least and the greatest element over the effective mask, of the elements of the active lanes one that no other
passes, NaN ignored unless every one is NaN, −0 below +0: to physical lane 0 with its broadcast map under the full mask, to each active lane under a
partial one, or to a queue or scalar register. Model's readings: log entry 37. -/
def Obligations.IntervalExtremes : Prop :=
  ∀ (s : State) (c : LaneCtx) (i : Instr) (h : LaneHead) (f : LA) (high : Bool), (i = .ivlo f ∧ high = false ∨ i = .ivhi f ∧ high = true) →
    LaneReady s c i h → i.laneWf = true → QueuesReady c i →
    let e := typeElem f.ty
    let x (l : Fin 32) (k : Nat) : Nat := elemAt f.ty.width (c.sources i).a.vals[l] k
    let beyond (a b : Nat) : Bool := if high then codeBelow e b a else codeBelow e a b
    ∃ v : Nat, v < 2 ^ (32 * f.ty.regs) ∧
      (∀ k, k < f.ty.count →
        ((∃ l, c.em.has l = true ∧ codeNan e (x l k) = false) →
          ∃ l, c.em.has l = true ∧ elemAt f.ty.width v k = x l k ∧ codeNan e (x l k) = false ∧
            ∀ j, c.em.has j = true → codeNan e (x j k) = false → beyond (x j k) (x l k) = false) ∧
        ((∀ l, c.em.has l = true → codeNan e (x l k) = true) → ∀ m, e = .flt m → elemAt f.ty.width v k = m.nan)) ∧
      (h.d.toNat < 96 → exec i s = .next ((({ s with choice := s.choice + 1 } : State).modGroup c.team.id c.group.gid fun g =>
        g.putOne s.choice h.d.toNat f.ty.regs c.full c.em v).laneDone c)) ∧
      (96 ≤ h.d.toNat → exec i s = .next ((s.putGeneral c h f.ty.regs LMap.id fun _ => v).laneDone c)) ∧
      (∀ (g : Group) (d : Nat), d < g.v.length → ∀ l, c.em.has l ∨ c.full = true →
        ((g.putOne s.choice d 1 c.full c.em v).vreg d).read l = BitVec.ofNat 32 v) ∧
      (∀ (g : Group) (d : Nat), d < g.v.length → c.full = false → ∀ l, ¬ c.em.has l →
        ((g.putOne s.choice d 1 c.full c.em v).vreg d).read l = (g.vreg d).read l) ∧
      (∀ (g : Group) (d : Nat), d < g.v.length → c.full = true →
        ((g.putOne s.choice d 1 true c.em v).vreg d).map = Lanes.all 0 ∧ ((g.putOne s.choice d 1 true c.em v).vreg d).phys[(0 : Fin 32)] = BitVec.ofNat 32 v)

/-- R243, R246, R267 to R269: the address of a lane's access and the order of its checks: alignment, then the descriptor's bounds, whose lane may be
dropped, and its read-only bit, or the scratchpad's size, then the page's own checks. Model's readings: log entry 67. -/
def Obligations.LaneAddressChecks : Prop :=
  ∀ (s : State) (c : LaneCtx) (f : LM) (m : MemForm) (sx : Bool) (i : Fin 32) (x : Nat), x < 2 ^ 64 →
    let got := s.laneAccess c f m sx i x
    let page (p : DWord) : Except (AccessFault × DWord) LaneAccess :=
      match s.lanePage c m sx i p with | .error e => .error (e, p) | .ok l => .ok { lane := i, ptr := p, target := .page l }
    (m.reach = .flat →
      let p := BitVec.ofInt 64 (x + f.off.toInt)
      got = if p.toNat % m.size ≠ 0 then .error ((.alignment, 0), p) else page p) ∧
    (m.reach = .scratch →
      let o := (x + f.off.toNat) % 2 ^ 32
      got = if o % m.size ≠ 0 then .error ((.alignment, 0), BitVec.ofNat 64 o)
        else if 1024 * c.launch.record.scratch < o + m.size then .error ((.bounds, 0), BitVec.ofNat 64 o)
        else .ok { lane := i, ptr := BitVec.ofNat 64 o, target := .scratch }) ∧
    (m.reach = .descr → vget c.group.bd f.bd.toNat none = none → got = .error ((.bounds, 0), 0)) ∧
    (m.reach = .descr → ∀ w, vget c.group.bd f.bd.toNat none = some w → c.elided f.bd = false →
      let d := descOf w
      let o : Int := (x * d.stride : Nat) + f.off.toInt
      let p := BitVec.ofInt 64 (((d.base + 2 ^ 57 * d.tag : Nat) : Int) + o)
      let inside := 0 ≤ o ∧ o + m.size ≤ d.size
      (p.toNat % m.size ≠ 0 → got = .error ((.alignment, 0), p)) ∧
      (p.toNat % m.size = 0 → ¬ inside → got = if d.zeros then .ok { lane := i, ptr := p, target := .dropped } else .error ((.bounds, 0), p)) ∧
      (p.toNat % m.size = 0 → inside → got = if d.ro && m.access.writes then .error ((.permission, 0), p) else page p))

/-- R243, R267, R269, R272 to R278, R280: every lane load, store, atomic and tag access in element mode: the lowest failing lane's fault, with nothing
performed, a tag mismatch only once the access may issue; otherwise, once its operations may issue, one operation for each access that reaches memory, in
lane order, enters the machine with its address, order, scope, flag and bytes. No byte changes yet; the clause goes on. R217 to R221: in a pass a load
is performed where its address is degenerate on a read-only page, elsewhere it gives [0, 2^32 − 1]; stores and atomics only mark their lanes; a descriptor
access is proven, dropped, or makes its lane UNDECIDED.
Model's readings: log entries 15, 57, 65, 155. -/
def Obligations.LaneMemoryAccesses : Prop :=
  (∀ (s : State) (c : LaneCtx) (i : Instr) (h : LaneHead) (f : LM) (m : MemForm), LaneReady s c i h → i.laneWf = true → QueuesReady c i →
    c.team.red = none → laneMemory i = some (f, m) →
    let x := c.sources i
    let got := s.laneAccesses c f m (laneMarks i).2 fun l => x.a.vals[l]
    (∀ l e a, got = .error (l, e, a) →
      let early := e.1 = .tagMismatch ∧ m.tags = false ∧ s.mayIssue (s.lanePast c) c.clause.order f.order f.scope = false
      (¬ early → exec i s = .next (s.laneFault c e a (some l.val))) ∧ (early → exec i s = .next s)) ∧
    (∀ as, got = .ok as → (∀ a ∈ as, ∀ l, a.target = .page l → m.tags = true ∨ isPacked l.fmt = false) →
      let live := as.filter fun a => a.target != .dropped
      let D := if h.d.toNat < 96 then (let T := targetMap x.maps; if T.injective || c.full then T else LMap.id) else LMap.id
      let held := if (laneMemRegs i).isSome then 1 else 0
      let ops := live.map fun a => match laneMemRegs i with
        | some n => { laneMemOp s c i f m a with dest := c.laneDest h n s.fresh D a.lane }
        | none => laneMemOp s c i f m a
      (s.canIssue ops = false → exec i s = .next s) ∧
      (s.canIssue ops = true → ∃ u : State, exec i s = .next (u.laneDone c) ∧ SameBytes s u ∧
        u.ops = s.ops ++ ops.mapIdx (fun k o => { o with id := s.fresh + held + k, stamp := s.fresh + held + k }) ∧
        ∀ g', u.group? c.team.id c.group.gid = some g' → g'.s = c.group.s ∧ g'.w = c.group.w ∧ g'.bd = c.group.bd ∧
          (h.d.toNat < 112 → ∀ k : Fin 12, g'.k[k] = c.group.k[k] + if k = flagOf c.hdr f.h.fs then ops.length else 0) ∧
          (∀ n, laneMemRegs i = some n → ∀ j, j < h.d.toNat ∨ h.d.toNat + n ≤ j → g'.vreg j = c.group.vreg j) ∧
          (laneMemRegs i = none → g'.v = c.group.v) ∧
          (∀ p : Fin 8, g'.p[p] = if (laneMarks i).1 = true ∧ p.val = f.c.toNat ∧ p.val ≠ 0 then c.group.p[p] ||| c.em else c.group.p[p])))) ∧
  (∀ (s : State) (c : LaneCtx) (i : Instr) (h : LaneHead) (p : PassInfo) (f : LM) (m : MemForm), PassReady s c i h p → i.laneWf = true →
    c.team.red = none → laneMemory i = some (f, m) →
    let T := targetMap ((i.laneFields.drop 1).map c.ivMap)
    let D := if T.injective || c.full then T else LMap.id
    let load := m.access = .load ∧ m.aop = none
    -- stores, atomics, and loads of which no lane is performed
    ((¬ load ∨ ∀ l, c.em.has l = true → passPerforms s c f m (laneMarks i).2 l = none) → (h.d.toNat < 96 ∨ laneMemRegs i = none) →
      ∃ (u : State) (g' : Group) (p' : PassInfo), exec i s = .next (u.laneDone c) ∧ SameBytes s u ∧ u.ops = s.ops ∧ u.held = s.held ∧
        u.asids = s.asids ∧ u.group? c.team.id c.group.gid = some g' ∧ g'.pass = some p' ∧ g'.k = c.group.k ∧ g'.s = c.group.s ∧
        (∀ l, p'.undecided.has l = true ↔ p.undecided.has l = true ∨ (c.em.has l = true ∧ passLeaves c f m l)) ∧
        (∀ l, p'.effects.has l = true ↔ p.effects.has l = true ∨
          (¬ load ∧ c.em.has l = true ∧ ¬ passLeaves c f m l ∧ ¬ passDrops c f m l)) ∧
        (∀ l w, c.em.has l = true → m.reach = .descr → vget c.group.bd f.bd.toNat none = some w → passWithin c f m l (descOf w) →
          (p.proofs.filter fun x => x.1 == l.val).length < 16 → (l.val, { lpc := c.pc, bd := f.bd.toNat, desc := w }) ∈ p'.proofs) ∧
        (∀ l, c.em.has l = true → ¬ passLeaves c f m l →
          ((laneMarks i).1 = true → g'.decided f.c.toNat false l = some true) ∧
          (∀ n k, laneMemRegs i = some n → k < n → 2 * (h.d.toNat + n) ≤ c.group.v.length → h.d.toNat + n ≤ p.tags.length →
            (c.full = true → LMap.injective T = true) →
            (g'.vreg (2 * (h.d.toNat + k))).read l = 0 ∧
            (load ∧ passDrops c f m l → (g'.vreg (2 * (h.d.toNat + k) + 1)).read l = 0) ∧
            (¬ (load ∧ passDrops c f m l) → (g'.vreg (2 * (h.d.toNat + k) + 1)).read l = 0xFFFFFFFF) ∧
            g'.tagOf (h.d.toNat + k) l = .b32))) ∧
    -- loads that every active lane performs
    (load → m.reach = .flat → h.d.toNat < 96 → ∀ as : List LaneAccess,
      ((List.finRange 32).filter c.em.has).map (passPerforms s c f m (laneMarks i).2) = as.map some →
      (∀ a ∈ as, ∀ l, a.target = .page l → m.tags = true ∨ isPacked l.fmt = false) →
      let ops := as.map fun a => { laneMemOp s c i f m a with dest := .vregs h.d.toNat ((laneMemRegs i).getD 1) D[a.lane] }
      (s.canIssue ops = false → exec i s = .next s) ∧
      (s.canIssue ops = true → ∃ u : State, exec i s = .next (u.laneDone c) ∧ SameBytes s u ∧
        u.ops = s.ops ++ ops.mapIdx fun k o => { o with id := s.fresh + k, stamp := s.fresh + k })))

/-- R240, R241, R272: a load from packed pages issues one operation for each access, which converts its elements as it arrives; a store to them rounds
its elements in lane order, with the draws of stochastic rounding, and writes only their bits.
Model's readings: log entries 66, 164. -/
def Obligations.PackedPageAccesses : Prop :=
  ∀ (s : State) (c : LaneCtx) (i : Instr) (h : LaneHead) (f : LM) (m : MemForm), LaneReady s c i h → i.laneWf = true → QueuesReady c i →
    c.team.red = none → laneMemory i = some (f, m) → m.aop = none → m.tags = false →
    ∀ as, s.laneAccesses c f m (laneMarks i).2 (fun l => (c.sources i).a.vals[l]) = .ok as →
    (m.access = .load →
      let D := if h.d.toNat < 96 then (let T := targetMap (c.sources i).maps; if T.injective || c.full then T else LMap.id) else LMap.id
      let ops := (as.filter fun a => a.target != .dropped).map fun a =>
        { s.laneOp c f .load a (a.span m.size) with
          convert := match a.target with
            | .page l => if isPacked l.fmt then .packed l.fmt (l.unitOff a.ptr) m.size else if (laneMarks i).2 then .signed else .bytes
            | _ => if (laneMarks i).2 then .signed else .bytes
          dest := c.laneDest h (a.regs f.width.regs m.size) s.fresh D a.lane }
      s.canIssue ops = true → ∃ u : State, exec i s = .next (u.laneDone c) ∧ SameBytes s u ∧
        u.ops = s.ops ++ ops.mapIdx fun k o => { o with id := s.fresh + 1 + k, stamp := s.fresh + 1 + k }) ∧
    (m.access = .store →
      let r := c.storeAll (fun a n => s.laneOp c f .store a n) m.size as fun l n =>
        if n ≤ f.width.regs then (c.sources i).b.vals[l] else (c.general f.b.toNat n 0).vals[l]
      s.canIssue r.1 = true → ∃ u : State, exec i s = .next (u.laneDone c) ∧ SameBytes s u ∧
        u.ops = s.ops ++ r.1.mapIdx (fun k o => { o with id := s.fresh + k, stamp := s.fresh + k }) ∧
        ∀ g', u.group? c.team.id c.group.gid = some g' → g'.gen = r.2 ∧ g'.v = c.group.v)

/-- R149, R197, R281: `nopl` only goes on; `pref` changes no result; `ltrap` takes USER_TRAP at the lowest active lane with its code, behind the
clause's earlier instructions; `ldt` loads sixteen rows of eight bytes from the scratchpad at the base and stride of the lowest active lane, or takes its
fault, BOUNDS at the first row beyond the scratchpad. In a pass `nopl` and `pref` only go on, `ltrap` makes its lanes UNDECIDED, `ldt` gives its full range.
Model's readings: log entries 69, 70. -/
def Obligations.LaneSystemInstructions : Prop :=
  ∀ (s : State) (c : LaneCtx) (h : LaneHead),
    (∀ f, LaneReady s c (.nopl f) h → exec (.nopl f) s = .next (s.laneDone c)) ∧
    (∀ f, LaneReady s c (.pref f) h → ∃ u : State, exec (.pref f) s = .next (u.laneDone c) ∧ SameBytes s u ∧ u.teams = s.teams ∧ u.ops = s.ops ∧
      u.asids = s.asids ∧ u.held = s.held) ∧
    (∀ f, LaneReady s c (.ltrap f) h → ∃ t : Trap, t.cause = .userTrap ∧ t.ucode = f.imm32.toNat % 65536 ∧ t.spc = c.clause.runPc ∧
      t.lpc = c.clause.addr + BitVec.ofNat 64 (12 * (c.clause.next + 1)) ∧ t.asid = c.asid ∧
      (∀ l : Fin 32, t.lane = some l.val ↔ c.em.has l = true ∧ ∀ j, j < l → c.em.has j = false) ∧
      (∀ n, n ∈ t.behind ↔ ∃ o ∈ s.ops, o.id = n ∧ o.cid = some c.clause.cid ∧ o.done = false) ∧
      let work : HeldWork := .clause c.ref c.clause.cid
      let u := s.takeFault t c.team.id c.group.gid work
      exec (.ltrap f) s = .next (if (s.asid c.asid).frsize ≠ 0 then u else u.passTrap work)) ∧
    (∀ f l, LaneReady s c (.ldt f) h → Instr.laneWf (.ldt f) = true → QueuesReady c (.ldt f) → c.em.has l = true → (∀ j, j < l → c.em.has j = false) →
      let base := ((c.sources (.ldt f)).a.vals[l] + f.off.toNat) % 2 ^ 32
      let stride := (c.sources (.ldt f)).c.vals[l]
      let size := 1024 * c.launch.record.scratch
      (base % 8 ≠ 0 ∨ stride % 8 ≠ 0 → exec (.ldt f) s = .next (s.laneFault c (.alignment, 0) (BitVec.ofNat 64 base) (some l.val))) ∧
      (∀ r, base % 8 = 0 → stride % 8 = 0 → r < 16 → size < base + r * stride + 8 → (∀ q, q < r → base + q * stride + 8 ≤ size) →
        exec (.ldt f) s = .next (s.laneFault c (.bounds, 0) (BitVec.ofNat 64 (base + r * stride)) (some l.val))) ∧
      (base % 8 = 0 → stride % 8 = 0 → (∀ r, r < 16 → base + r * stride + 8 ≤ size) →
        let ops := (List.range 16).map fun r =>
          { s.laneOp c f .load { lane := l, ptr := BitVec.ofNat 64 (base + r * stride), target := .scratch } 8 with
            order := .plain, dest := .block s.fresh (8 * f.width.bytes) r c.em f.h.d.toNat c.clause.sid }
        (s.canIssue ops = false → exec (.ldt f) s = .next s) ∧
        (s.canIssue ops = true → ∃ u : State, exec (.ldt f) s = .next (u.laneDone c) ∧ SameBytes s u ∧
          u.ops = s.ops ++ ops.mapIdx fun r o => { o with id := s.fresh + 1 + r, stamp := s.fresh + 1 + r }))) ∧
    (∀ f p, PassReady s c (.nopl f) h p → exec (.nopl f) s = .next (s.laneDone c)) ∧
    (∀ f p, PassReady s c (.pref f) h p → exec (.pref f) s = .next (s.laneDone c)) ∧
    (∀ f p, PassReady s c (.ltrap f) h p → exec (.ltrap f) s =
      .next ((s.modGroup c.team.id c.group.gid (·.leaveClauses c.em)).laneDone c)) ∧
    (∀ f p, PassReady s c (.ldt f) h p → exec (.ldt f) s =
      .next ((s.putBounds c h 1 LMap.id (fun _ => (0, 2 ^ 32 - 1)) fun _ => .n32).laneDone c))

/-- R31, R52, R60, R62 to R64: under an empty effective mask a lane instruction of element mode changes nothing and the clause goes on; one that names a
queue of depth zero takes QUEUE_CONFIG; one that finds too few entries, or no room for its push, holds the group's lane issue, or, marked `.nb`, writes
false and goes on; one whose popped entry still waits for its data waits. R213: in a pass the lanes whose guard is undecided leave first. Model's
readings: log entry 2. -/
def Obligations.LaneIssueHolds : Prop :=
  (∀ (s : State) (c : LaneCtx) (i : Instr) (h : LaneHead),
    ((laneInt c i).isSome ∨ (laneFloat c i).isSome ∨ (laneOther s c i).isSome ∨ (laneSelector c i).isSome ∨ (laneWide c i).isSome ∨
      (laneMemory i).isSome) → i.laneWf = true →
    let pops := popsOf i.laneFields
    let need (q : Nat) : Nat := (pops.filter (· == q)).length
    let config := ∃ q : Fin 16, (q.val ∈ pops ∨ pushOf i.laneFields = some q.val) ∧ c.group.q[q].depth = 0
    let short := (∃ q ∈ pops, (queueOf c.group q).entries.length < need q) ∨
      ∃ q, pushOf i.laneFields = some q ∧ (queueOf c.group q).depth ≤ (queueOf c.group q).entries.length - need q
    (i.head? = some h → s.laneCtx? = some c → s.laneStopped c = false → s.epochDue c.team = false → c.group.pass = none →
      (∀ l, (if h.all then c.group.remaining.has l else c.clause.mask.has l) = true → (c.group.pred h.guard.toNat).has l = h.gneg) →
      exec i s = .next (s.laneDone c)) ∧
    (LaneReady s c i h → config → exec i s = .next (s.laneFault c (.queueConfig, 0) 0 none)) ∧
    (LaneReady s c i h → ¬ config → short →
      ((laneMarks i).1 = false → exec i s = .next (s.modGroup c.team.id c.group.gid fun g => { g with holds := some c.clause.cid })) ∧
      ((laneMarks i).1 = true → ∀ f m, laneMemory i = some (f, m) → exec i s = .next ((s.modGroup c.team.id c.group.gid fun g =>
        { g with p := Vector.ofFn fun k => if k.val = f.c.toNat ∧ k.val ≠ 0 then g.p[k] &&& ~~~c.em else g.p[k] }).laneDone c))) ∧
    (LaneReady s c i h → ¬ config → ¬ short → (∃ q ∈ pops, ∃ e ∈ (queueOf c.group q).entries.take (need q), e.waiting ≠ 0) →
      exec i s = .next s)) ∧
  (∀ (s : State) (c : LaneCtx) (i : Instr) (h : LaneHead) (p : PassInfo), i.laneWf = true → i.head? = some h → s.laneCtx? = some c →
    s.laneStopped c = false → s.epochDue c.team = false → c.group.pass = some p →
    let base (l : Fin 32) : Bool := (if h.all then c.group.remaining.has l else c.clause.mask.has l) && !p.undecided.has l
    let gone := Mask.gen fun l => base l && c.group.decided h.guard.toNat h.gneg l == none
    let left := s.modGroup c.team.id c.group.gid fun _ => c.group.leaveClauses gone
    ((passInt c i).isSome ∨ (passFloat c i).isSome ∨ (passOther c i).isSome) →
    ((∀ l, base l = true → c.group.decided h.guard.toNat h.gneg l ≠ some true) → exec i s = .next ((if gone = 0 then s else left).laneDone c)) ∧
    (gone ≠ 0 → (∃ l, base l = true ∧ c.group.decided h.guard.toNat h.gneg l = some true) → exec i s = exec i left))

/-! Steps of the device. -/

/-- R254, R256 to R258, R275, R298, R303: a load returns the nearest write of each byte on its path, else its die's view; a write moves one place along
its path, and at its home it replaces its bytes there and at the home die's view, and no others; a read-modify-write returns the old value.
Model's readings: log entries 6, 7, 16, 17, 160, 169. -/
def Obligations.MemoryMovement : Prop :=
  ∀ (s : State) (op : Nat) (o : MemOp), s.op? op = some o →
    (s.maySatisfy o = true → ∃ t o' : _, exec (.loadSatisfy op) s = .next t ∧ SameBytes s t ∧ t.teams = s.teams ∧ (∀ k, k ≠ op → t.op? k = s.op? k) ∧
      t.op? op = some o' ∧ o' = { o with result := some (s.loadValue o).1, rf := (s.loadValue o).2, check := o'.check, flips := [], suspect := none } ∧
      o'.check = o.words ((s.loadValue o).1.map fun b => (b, 0xFF)) ∧
      (o.kind = .wellLoad → o.space = .mem → (s.loadValue o).1 = s.mem.readN o.addr o.size) ∧
      (o.kind = .load → o.space = .mem → o.effOrder = .seqCst → o.effScope = .die ∨ o.effScope = .device ∨ o.effScope = .system →
        (s.loadValue o).1 = (s.view o.die).readN o.addr o.size) ∧
      (∀ core, o.kind = .load → o.space = .mem → o.effOrder ≠ .seqCst → o.core? = some core →
        let path := s.searchPath o.group? (some core) (·.follows o)
        let rank (w : MemOp) : Nat := match w.place with | .queue => 0 | .core => 1 | .cluster => 2 | .homed => 3
        (∀ w, w ∈ path ↔ w ∈ s.ops ∧ w.isWrite = true ∧ w.space = .mem ∧ w.follows o = false ∧
          ((w.place = .queue ∧ w.isRmw = false ∧ o.group?.isSome ∧ w.group? = o.group? ∧ s.scTurn w = true) ∨ (w.place = .core ∧ w.core? = some core) ∨
            ((w.place = .cluster ∨ (w.place = .homed ∧ w.isDirect = false ∧ dieOf core ∉ w.applied)) ∧ w.core?.map clusterOf = some (clusterOf core)))) ∧
        path.Pairwise (fun w x => rank w < rank x ∨ (rank w = rank x ∧ x.stamp ≤ w.stamp)) ∧
        ∀ k, k < o.size →
          ((∀ w ∈ path, w.at? (o.addr + k) = none) → (s.loadValue o).1[k]? = some ((s.view (dieOf core)).read (o.addr + k))) ∧
          (∀ pre w post v, path = pre ++ w :: post → (∀ x ∈ pre, x.at? (o.addr + k) = none) →
            w.at? (o.addr + k) = some (v, 0xFF) → (s.loadValue o).1[k]? = some v))) ∧
    (s.mayMove o = true → ∃ t : State, exec (.writeMove op) s = .next t ∧ SameBytes s t ∧ t.teams = s.teams ∧ (∀ k, k ≠ op → t.op? k = s.op? k) ∧
      t.op? op = some { o with stamp := s.fresh, place := match o.place with | .queue => .core | .core => .cluster | p => p }) ∧
    (s.mayHome o = true → o.kind = .store ∨ o.kind = .wellStore → o.space = .mem → o.intact = true → ∃ t : State, exec (.writeHome op) s = .next t ∧
      t.teams = s.teams ∧ (∀ k, k ≠ op → t.op? k = s.op? k) ∧
      (∃ o', t.op? op = some o' ∧ o'.place = .homed ∧ o'.applied = [homeOf o.addr] ∧ o'.data = o.carried) ∧
      t.vectors = vmod s.vectors (homeOf o.addr) (fun v => vmod v (homeOf o.addr) fun n => (n + 1) % 2 ^ 24) ∧
      (∀ d : Fin 5, d.val ≠ homeOf o.addr → t.views[d] = s.views[d]) ∧
      (∀ a, a < o.addr ∨ o.addr + o.carried.length ≤ a → t.mem.read a = s.mem.read a ∧ ∀ d : Fin 5, (t.views[d]).read a = (s.views[d]).read a) ∧
      ∀ (k : Nat) (h : k < o.carried.length),
        (s.mem.wf = true → t.mem.read (o.addr + k) = Memory.merge (s.mem.read (o.addr + k)) o.carried[k].1 o.carried[k].2) ∧
        ∀ d : Fin 5, d.val = homeOf o.addr → (s.views[d]).wf = true →
          (t.views[d]).read (o.addr + k) = Memory.merge ((s.views[d]).read (o.addr + k)) o.carried[k].1 o.carried[k].2) ∧
    (o.flips = [] → o.intact = true ∧ (o.result = none → (∀ r, o.kind ≠ .rmw r) → o.carried = o.data) ∧
      (∀ r, o.result = none → o.kind = .rmw r → o.data = [] → o.carried = (natLe o.size r.b).map fun b => (b, 0xFF))) ∧
    (∀ team, s.mayHome o = true → o.kind = .store → o.space = .scratch team → o.intact = true →
      (∀ x g c k y p, o.agent = .engine x g c k → s.cmd? k = some y → y.kind = .copy p → p.bar = none) →
      ∃ t : State, exec (.writeHome op) s = .next t ∧ SameBytes s t ∧ (∀ k, k ≠ team → t.team? k = s.team? k) ∧
        ∀ x, s.team? team = some x → ∃ m, t.team? team = some { x with scratch := m } ∧
          (∀ a, a < o.addr ∨ o.addr + o.carried.length ≤ a → m.read a = x.scratch.read a) ∧
          (x.scratch.wf = true → ∀ (k : Nat) (h : k < o.carried.length),
            m.read (o.addr + k) = Memory.merge (x.scratch.read (o.addr + k)) o.carried[k].1 o.carried[k].2)) ∧
    (∀ r, s.mayHome o = true → o.kind = .rmw r → o.space = .mem → o.intact = true → s.mem.wf = true →
      ∃ t : State, exec (.writeHome op) s = .next t ∧ (∃ o', t.op? op = some o' ∧ o'.place = .homed ∧ o'.result = some (s.mem.readN o.addr o.size)) ∧
        (∀ a, a < o.addr ∨ o.addr + o.size ≤ a → t.mem.read a = s.mem.read a) ∧
        let m := 2 ^ (8 * o.size)
        let old := leNat (s.mem.readN o.addr o.size)
        let new := leNat (t.mem.readN o.addr o.size)
        let b := leNat (o.carried.map fun x => x.1)
        (r.aop = .load → new = old) ∧ (r.aop = .store ∨ r.aop = .swap → new = b % m) ∧
        (r.aop = .cas → new = if old = r.c % m then b % m else old) ∧ (r.aop = .add → new = (old + b) % m) ∧
        (r.aop = .and → new = (old &&& b) % m) ∧ (r.aop = .or → new = (old ||| b) % m) ∧ (r.aop = .xor → new = (old ^^^ b) % m) ∧
        (r.aop = .minu → new = min old (b % m)) ∧ (r.aop = .maxu → new = max old (b % m)) ∧
        (r.aop = .min → signed (8 * o.size) new = min (signed (8 * o.size) old) (signed (8 * o.size) b)) ∧
        (r.aop = .max → signed (8 * o.size) new = max (signed (8 * o.size) old) (signed (8 * o.size) b)) ∧
        (r.aop = .binc → new = if old < r.c % m then old + 1 else old) ∧
        (r.aop = .fadd → o.size = 4 → new = faddF32 r.rnd r.sat old (b % m) % m))

/-- R26, R42, R197, R251, R259, R266, R347, R354: a die applies a home's next record, whose vector its own covers; a completed operation delivers its result, releases its flag and
restarts the watchdog of a group that waits for it; a sector whose check word fails is fetched once more, from its home; an `ldt` delivers its
rows once all have come.
Model's readings: log entries 18, 158, 159, 160, 176. -/
def Obligations.RecordsAndCompletions : Prop :=
  ∀ (s : State),
    (∀ (die home : Nat) (o : MemOp), die < 5 → home < 5 → die ≠ home → s.nextRecord die home = some o →
      o.home = home ∧ die ∉ o.applied ∧ vget o.vc home 0 = (s.applied die home + 1) % 2 ^ 24 ∧
      ∃ t : State, exec (.recordApply die home) s = .next t ∧ t.mem = s.mem ∧ t.teams = s.teams ∧
        t.vectors = vmod s.vectors die (fun v => vmod v home fun n => (n + 1) % 2 ^ 24) ∧
        (∀ d : Fin 5, d.val ≠ die → t.views[d] = s.views[d]) ∧
        (∀ d : Fin 5, d.val = die → (∀ a, a < o.addr ∨ o.addr + o.data.length ≤ a → (t.views[d]).read a = (s.views[d]).read a) ∧
          ((s.views[d]).wf = true → ∀ (k : Nat) (h : k < o.data.length),
            (t.views[d]).read (o.addr + k) = Memory.merge ((s.views[d]).read (o.addr + k)) o.data[k].1 o.data[k].2))) ∧
    (∀ (op : Nat) (o : MemOp), s.op? op = some o → ∃ t : State, exec (.hostCompletion op) s = .next t ∧ SameBytes s t ∧ t.teams = s.teams ∧
      (∀ x ∈ t.ops, x.id = op → x.hostPend = false)) ∧
    (∀ (op : Nat) (l : LateWrite), s.late.find? (fun x => x.id == op) = some l → ∀ g, s.group? l.team l.group = some g →
      ∃ t : State, exec (.operationComplete op) s = .next t ∧ SameBytes s t ∧ t.late = s.late.filter (fun x => x.id != op) ∧
        t.group? l.team l.group = some { (g.putLate l).releaseFlag l.flag with watch := if s.awaits l.team l.group op then 0 else g.watch }) ∧
    (∀ (op team gid core : Nat) (o : MemOp) (g : Group), s.late.find? (fun x => x.id == op) = none → s.op? op = some o →
      o.agent = .group team gid core → o.kind = .load ∨ o.kind = .wellLoad → o.done = false → o.result ≠ none → s.group? team gid = some g →
      (o.intact = true ∨ o.dest = .none → ∀ g1, (let v := convertResult o.convert (o.carried.map fun d => d.1)
          match o.dest with
          | .none => some g
          | .sregs reg n bank => some (g.putScalars o reg n bank v)
          | .vregs r n p => some (g.putResult r n p v)
          | .entry q eid i => some (g.putEntry q eid 1 fun j => if j = i then some (wordAt v 0) else none)
          | _ => none) = some g1 →
        ∃ t watch : _, exec (.operationComplete op) s = .next t ∧ SameBytes s t ∧
          t.group? team gid = some { (match o.flag with | some f => g1.releaseFlag f | none => g1) with watch := watch } ∧
          (s.awaits team gid op = true → watch = 0) ∧ (o.dest = .none → s.awaits team gid op = false → watch = g.watch) ∧
          ∀ x ∈ t.ops, x.id = op → x.done = true ∧ x.dest = .none) ∧
      (o.intact = false → (match o.dest with | .sregs _ _ _ | .vregs _ _ _ | .entry _ _ _ | .block _ _ _ _ _ _ => True | _ => False) → o.space = .mem → o.again = false →
        ∃ t o' : _, exec (.operationComplete op) s = .next t ∧ SameBytes s t ∧ t.teams = s.teams ∧ t.op? op = some o' ∧
          o'.result = some (s.mem.readN o.addr o.size) ∧ o'.again = true ∧ o'.flips = [] ∧ o'.dest = o.dest ∧ o'.done = false ∧
          ∀ u, o.suspect = some u → unitExists u = true → (t.unitRec u).score = (s.unitRec u).score + 16)) ∧
    (∀ (op team gid core : Nat) (o : MemOp) (g : Group) (key w code sid r : Nat) (em : Mask), s.late.find? (fun x => x.id == op) = none →
      s.op? op = some o → o.agent = .group team gid core → o.kind = .load → o.done = false → o.result ≠ none → o.intact = true →
      o.dest = .block key w r em code sid → s.group? team gid = some g →
      (s.blockRowsOf key = none → exec (.operationComplete op) s = .next s.prune) ∧
      ∀ rows, s.blockRowsOf key = some rows → ∃ t g' watch : _, exec (.operationComplete op) s = .next t ∧ SameBytes s t ∧ t.group? team gid = some g' ∧
        { g' with watch := watch } = { (match o.flag with | some f => (g.putBlock key w code sid em rows).releaseFlag f
                                                          | none => g.putBlock key w code sid em rows) with watch := watch } ∧
        ∀ x ∈ t.ops, ∀ w' r' em' code' sid', x.dest ≠ .block key w' r' em' code' sid')

/-- R69 to R73, R82, R23, R27, R31: a clause at the head of its queue is fetched, its header and each of its words decoded and checked, and begins once
the flags of its wait mask are idle and the clauses before it have issued; one that cannot be decoded is a fault at the word that failed. Model's readings: log entries 14, 24. -/
def Obligations.ClauseFetchAndIssue : Prop :=
  ∀ (s : State) (r : SplitRef) (t : Team) (g : Group) (l : Launch) (q : Clause), s.headClause r = some (t, g, l, q) → s.clauseHeld r q.cid = false → g.spent = false →
    (q.fetched = none → s.reachable (some t.core) l.asid q.addr (s.clauseSize t l q) = true → s.teamStopped t l.asid (.event (.clauseFetch r)) = false →
      (∀ h is s', s.readClause t g l q = .ok (h, is, s') → is.length = h.n.toNat ∧ (∀ i ∈ is, i.laneWf = true) ∧
        (∃ bs v, s.fetchBytes t.core l.id l.asid q.addr 12 = .ok (bs, v) ∧ decodeHeader (BitVec.ofNat 96 (leNat bs)) = some h ∧
          ∃ bs' v', v.fetchBytes t.core l.id l.asid (q.addr + 12) (12 * h.n.toNat) = .ok (bs', v') ∧
            ∀ k i, is[k]? = some i → decodeLane (BitVec.ofNat 96 (leNat ((bs'.drop (12 * k)).take 12))) = .ok i ∧
              (i.isLong = true → flagEnabled h ((i.head?.map (·.fs)).getD false) = true)) ∧
        ∃ u : State, exec (.clauseFetch r) s = .next u ∧ SameBytes s u ∧ u.group? t.id g.gid = some { g with
          clauses := vmod g.clauses r.split.val fun qs => if q.next < h.n.toNat then { q with fetched := some (h, is) } :: qs.drop 1 else qs.drop 1 }) ∧
      (∀ f a, s.readClause t g l q = .error (f, a) → exec (.clauseFetch r) s = .next (s.clauseFault r t g q f a) ∧
        (f.1 = .translation → ∀ u, (s.asid l.asid).frsize ≠ 0 → exec (.clauseFetch r) s = .next u → u.teams = s.teams ∧
          ∃ h, u.held = s.held ++ [h] ∧ h.work = .clause r q.cid ∧ h.trap.spc = q.runPc ∧ h.trap.addr = a ∧ h.trap.src = 2 ∧
            h.trap.lane = if g.inPass then q.mask.lowest.map (·.val) else none) ∧
        (f.1.isHeld = false → (s.clauseFault r t g q f a) = (s.modGroup t.id g.gid fun g => { g with clauses := vset g.clauses r.split.val [] }).takeFault
          { s.siteTrap t g r.split.val q.runPc 2 f a with
            lpc := a - BitVec.ofNat 64 ((a - q.addr).toNat % 12), lane := if g.inPass then q.mask.lowest.map (·.val) else none } t.id g.gid (.clause r q.cid)))) ∧
    (∀ core launch asid ptr n bs v, s.fetchBytes core launch asid ptr n = .ok (bs, v) → bs.length = n) ∧
    (∀ core launch asid ptr n f a, s.fetchBytes core launch asid ptr n = .error (f, a) → ∃ v : State,
      v.mem = s.mem ∧ v.views = s.views ∧ v.ops = s.ops ∧ v.asids = s.asids ∧
      ((f = .xn ∧ ∃ p, v.translate (some core) asid a = .leaf p ∧ p.xn = true) ∨ (f = .notPresent ∧ v.translate (some core) asid a = .notPresent) ∨
        (f = .malformed ∧ v.translate (some core) asid a = .malformed))) ∧
    (∀ h is, q.fetched = some (h, is) → q.issuing = false → s.teamStopped t l.asid (.event (.clauseIssue r)) = false →
      (g.idle h.wait = true → (∀ c ∈ q.after, s.clausePending c = false) → ∃ u : State, exec (.clauseIssue r) s = .next u ∧ SameBytes s u ∧
        u.group? t.id g.gid = some { g with clauses := vmod g.clauses r.split.val fun qs => { q with issuing := true } :: qs.drop 1 }) ∧
      (g.idle h.wait = false ∨ (∃ c ∈ q.after, s.clausePending c = true) → exec (.clauseIssue r) s = .next s))

/-- R9, R15, R38, R205, R232, R310, R322, R328, R329, R350: a queued team whose core has room for it becomes resident, with a 64 KiB-aligned slot of the context
pool, zeroed registers and tiles, its arguments in s16 to s23 and split 0 of each group at the entry point; one whose bounds pass is over gets the groups that
have something to run. An idle core asks a victim of its die, after eight failures of another die; the victim gives its newest queued team that the thief may hold,
or a failure.
Model's readings: log entries 101, 102, 105, 165, 172, 177. -/
def Obligations.TeamsDispatchedAndStolen : Prop :=
  (∀ (s : State) (team : Nat) (t : Team) (l : Launch), s.team? team = some t → s.launchOf t = some l → s.halted.contains l.asid = false →
      (∀ area, t.state = .queued → s.coreOpen t.core l.asid = true → s.roomOn t.core l.record = true → s.orderFree l t = true →
        s.savedFirst l t.core = false → s.goesFirst l t = false → s.stageOpen l t.stage 0 = .ok true → s.freeSlot l.asid l.record.areaSize = some area →
        let u := s.makeResident t l area
        exec (.teamDispatch team) s = .next (u.deal dealFuel) ∧ SameBytes s u ∧
        area % 65536 = 0 ∧ area + l.record.areaSize ≤ 2 ^ 20 * (s.asid l.asid).cpsize.toNat ∧
        (s.usedOn t.core).1 + l.record.groups ≤ 64 ∧
        (∀ id, id ∈ (u.core t.core).queue ↔ id ∈ (s.core t.core).queue ∧ id ≠ t.id) ∧
        ∃ t' : Team, u.team? team = some t' ∧ t'.state = .resident ∧ t'.again = false ∧ t'.area = some area ∧ t'.core = t.core ∧
          t'.tiles = List.replicate l.record.tiles [] ∧
          (l.record.bpass = false → t'.groups.length = l.record.groups ∧ ∀ (k : Nat) (g : Group), t'.groups[k]? = some g →
            g.gid = k ∧ g.held = l.record.heldLanes ∧ g.v = List.replicate l.record.vregs VReg.zero ∧ g.rmode = l.record.rmode ∧
            g.ftzm = l.record.ftzm ∧ g.qbud = l.record.qbud ∧ (∀ i : Fin 24, i.val < 16 → g.s[i] = 0) ∧
            (∀ j : Fin 4, g.s[16 + 2 * j.val]? = some ((l.record.args[j]).truncate 32) ∧
              g.s[17 + 2 * j.val]? = some ((l.record.args[j]).extractLsb' 32 32)) ∧
            (l.record.heldLanes ≠ 0 → (∀ j : Fin 4, j ≠ 0 → g.split? j = none) ∧ ∃ p : Split, g.split? 0 = some p ∧ p.set.own = l.record.heldLanes ∧
              p.set.exec = l.record.heldLanes ∧ p.set.pc = l.record.entryOf t.stage ∧ p.stack = [] ∧ p.status = .running))) ∧
      (t.state = .queued → s.coreOpen t.core l.asid = false ∨ s.roomOn t.core l.record = false ∨ s.orderFree l t = false ∨ s.savedFirst l t.core = true ∨
        s.stageOpen l t.stage 0 = .ok false ∨ s.freeSlot l.asid l.record.areaSize = none ∨
        (∃ x ∈ s.teams, ∃ k, s.launchOf x = some k ∧ x.id ≠ t.id ∧ x.core = t.core ∧ l.record.prioOf t.stage < k.record.prioOf x.stage ∧
          s.readyHere k x = true) →
        exec (.teamDispatch team) s = .next s ∨ ∃ u, s.stageOpen l t.stage 0 = .error u ∧ exec (.teamDispatch team) s = .next u) ∧
      (∀ p, t.state = .resident → t.pass = some p → p.released = false → p.mapDone = true → t.saving = false →
        (∀ id ∈ p.mapOps, ∀ o, s.op? id = some o → o.opPerformed .device = true) →
        ∃ u : State, exec (.teamDispatch team) s = .next u ∧ SameBytes s u ∧ ∃ t' : Team, u.team? team = some t' ∧
          t'.pass = some { p with released := true } ∧
          ∀ g ∈ t'.groups, g.gid < l.record.groups ∧ g.ended = false ∧ g.held = l.record.heldLanes ∧
            ∀ (q : Split), g.split? 0 = some q → ∀ i : Fin 32, q.set.own.has i = true ↔
              l.record.heldLanes.has i = true ∧ ∃ j ∈ p.leaves g.gid l.record.depth, j.2.2 ≠ 1 ∧ j.2.1.holds l.record g.gid i = true)) ∧
  (∀ (s : State) (thief victim : Nat), thief ≠ victim →
      (s.idles thief = true → (s.core thief).asked = none → thief < 384 → victim < 384 → s.inService (.core victim) = true →
        dieOf victim = (if (s.core thief).fails < 8 then dieOf thief else (dieOf thief + 1 + ((s.core thief).fails - 8) % 3) % 4) →
        ∃ t : State, exec (.stealRequest thief victim) s = .next t ∧ t.core thief = { s.core thief with asked := some victim } ∧ t.teams = s.teams ∧
          ∀ k, k ≠ thief → t.core k = s.core k) ∧
      (s.idles thief = false → exec (.stealRequest thief victim) s = .next s) ∧
      ((s.core thief).asked = some victim →
        (8 ≤ (s.core thief).queue.length ∨ (∀ id ∈ (s.core victim).queue, ∀ t, s.team? id = some t → s.mayGive t thief = false) →
          ∃ u : State, exec (.stealAnswer thief) s = .next u ∧ u.teams = s.teams ∧ u.core thief = { s.core thief with asked := none, fails := (s.core thief).fails + 1 }) ∧
        (∀ pre id post t, (s.core thief).queue.length < 8 → (s.core victim).queue = pre ++ id :: post → s.team? id = some t → s.mayGive t thief = true →
          (∀ x ∈ post, ∀ y, s.team? x = some y → s.mayGive y thief = false) →
          ∃ u : State, exec (.stealAnswer thief) s = .next (u.deal dealFuel) ∧ u.team? id = some { t with core := thief } ∧
            (∀ x, x ≠ id → u.team? x = s.team? x) ∧ u.core thief = { s.core thief with asked := none, fails := 0, queue := (s.core thief).queue ++ [id] } ∧
            u.core victim = { s.core victim with queue := (s.core victim).queue.filter fun x => x != id })))

/-- R201, R203, R204, R206, R207, R222, R285, R287, R311, R323, R325: pass groups start with 32 sub-tiles, their ranges in pairs 0 to 2, and end after
65,536 scalar instructions; an ended one's lanes are judged, and the outcome map holds two bits a sub-tile, level by level; from the fifth taking of a
backward target on, what differs from its record is widened; a stage whose counter has reached its threshold is eligible; a team of a queued stage that
its queues block is to be saved; a stage command without a queue ends with status 3; a waiting `bar` returns once its generation is left.
Model's readings: log entries 23, 64, 99, 100, 153, 154, 157, 179, 184. -/
def Obligations.PassesStagesAndWaits : Prop :=
  ∀ (s : State),
    (∀ (team : Nat) (t : Team) (l : Launch) (p : PassState), s.team? team = some t → s.launchOf t = some l → t.pass = some p → p.todo ≠ [] → t.state = .resident →
      s.teamStopped t l.asid (.event (.passGroupStart team)) = false →
      let live := (t.groups.filter fun g => !g.ended).length
      let room := (live + 1) * (2 * l.record.vregs + l.record.qbud) * 128
      let g := passGroup l.record t t.groups.length s.fresh p.level (p.todo.take 32)
      (live ≠ 0 → l.record.share < room → exec (.passGroupStart team) s = .next s) ∧
      (live = 0 ∨ room ≤ l.record.share → ∃ u : State, exec (.passGroupStart team) s = .next u ∧ SameBytes s u ∧
        u.team? team = some { t with groups := t.groups ++ [g], pass := some { p with todo := p.todo.drop 32 } } ∧
        g.inPass = true ∧ (∀ i : Fin 32, g.held.has i = (p.level == 0 || decide (i.val < p.todo.length))) ∧
        (∀ n i, n < l.record.vregs → g.tagOf n i = if n < 3 then .n32 else .b32) ∧ (∀ n i, 0 < n → n < 4 → g.tri n false i = .no) ∧
        ∀ (i : Fin 32) q, p.todo[i.val]? = some q → ∀ (d : Nat) x y, g.v[2 * d]? = some x → g.v[2 * d + 1]? = some y →
          (d = 0 → x.phys[i] = BitVec.ofNat 32 q.x.1 ∧ y.phys[i] = BitVec.ofNat 32 q.x.2) ∧
          (d = 1 → x.phys[i] = BitVec.ofNat 32 q.y.1 ∧ y.phys[i] = BitVec.ofNat 32 q.y.2) ∧
          (d = 2 → x.phys[i] = BitVec.ofNat 32 q.z.1 ∧ y.phys[i] = BitVec.ofNat 32 q.z.2))) ∧
    (∀ (team gid : Nat) (g : Group) (p : PassInfo), s.group? team gid = some g → g.pass = some p → g.ended = false →
      (p.issued < 65536 → exec (.passInstructionLimit team gid) s = .next s) ∧
      (65536 ≤ p.issued → exec (.passInstructionLimit team gid) s = .next (s.passOver team gid) ∧
        ∀ i : Fin 32, p.reached.has i = false → p.code i = 3)) ∧
    (∀ (t : Team) (gid : Nat) (g : Group) (p : PassInfo) (ps : PassState), t.group? gid = some g → g.pass = some p → t.pass = some ps →
      ∃ ps' rows : _, (t.judge gid).pass = some ps' ∧ ps'.judged = ps.judged ++ rows ∧ ps'.level = ps.level ∧ ps'.todo = ps.todo ∧
        (∀ q k, (p.level, q, k) ∈ rows ↔ ∃ i : Fin 32, p.tiles[i.val]? = some q ∧ k = p.code i) ∧
        ∀ i : Fin 32, p.code i = if p.undecided.has i ∨ ¬ p.reached.has i then 3 else if p.effects.has i then 2 else 1) ∧
    (∀ (p : PassState) (depth level k : Nat), level ≤ depth → k < 32 * 4 ^ level → (∀ j ∈ p.judged, j.2.2 < 4) →
      let start := (8 * 4 ^ level - 8) / 3
      (p.map depth).length = (8 * 4 ^ (depth + 1) - 8) / 3 ∧
      ∃ b, (p.map depth)[start + k / 4]? = some b ∧
        b.toNat / 4 ^ (k % 4) % 4 = (match p.judged.find? fun j => j.1 == level && j.2.1.group == k / 4 ^ level && j.2.1.sub == k % 4 ^ level with
          | some j => j.2.2 | none => 0)) ∧
    (∀ (c : Issuer) (target : DWord), s.issuerOf c.ref = some c → c.inPass = true →
      (c.pc.toNat < target.toNat → s.jump c target = s.retire c.ref target) ∧
      (target.toNat ≤ c.pc.toNat →
        let was := c.split.set.widen.find? (·.target == target)
        ∃ u g' p' r, s.jump c target = u.retire c.ref target ∧ SameBytes s u ∧ u.group? c.team.id c.group.gid = some g' ∧
          g'.split? c.ref.split = some p' ∧ g'.s = c.group.s ∧ g'.pass = c.group.pass ∧ p'.set.widen.find? (·.target == target) = some r ∧
          r.count = (match was with | some w => w.count | none => 0) + 1 ∧ (c.split.set.widen.length ≤ 8 → p'.set.widen.length ≤ 8) ∧
          (∀ (j : Nat) (v : VReg) (i : Fin 32), c.group.v[j]? = some v → c.exec.has i = true → (r.regs[j]?).map (fun (x : Lanes Word) => x[i]) = some (v.read i)) ∧
          ((∀ w, was = some w → w.count < 4) → g'.v = c.group.v ∧ g'.p = c.group.p) ∧
          ∀ w, was = some w → 4 ≤ w.count →
            let old (j : Nat) (i : Fin 32) : Word := ((w.regs[j]?).getD (Lanes.all 0))[i]
            let now (g : Group) (j : Nat) (i : Fin 32) : Word := (g.vreg j).read i
            (∀ n i, n < (c.group.pass.map (·.tags.length)).getD 0 → 2 * n + 1 < c.group.v.length → LMap.injective (c.group.vreg (2 * n)).map = true →
              LMap.injective (c.group.vreg (2 * n + 1)).map = true →
              let same : Prop := now c.group (2 * n) i = old (2 * n) i ∧ now c.group (2 * n + 1) i = old (2 * n + 1) i
              (c.exec.has i = false ∨ same → now g' (2 * n) i = now c.group (2 * n) i ∧ now g' (2 * n + 1) i = now c.group (2 * n + 1) i) ∧
              (c.exec.has i = true → ¬ same → now g' (2 * n) i = BitVec.ofNat 32 (fullField (c.group.tagOf n i) n).1 ∧
                now g' (2 * n + 1) i = BitVec.ofNat 32 (fullField (c.group.tagOf n i) n).2)) ∧
            ∀ (n : Fin 4) (i : Fin 32), n ≠ 0 →
              let same : Prop := ∀ b : Fin 2, (vget c.group.p (2 * n.val + b.val) 0).has i = Mask.has ((w.preds[2 * n.val + b.val]?).getD 0) i
              (c.exec.has i = false ∨ same → g'.tri n.val false i = c.group.tri n.val false i) ∧
              (c.exec.has i = true → ¬ same → g'.tri n.val false i = .unk))) ∧
    (∀ (launch stage : Nat) (l : Launch) (x : StageState) (st : StageRec) (bs : List Byte) (p : Leaf), s.launch? launch = some l → l.stages[stage]? = some x → l.record.stages[stage]? = some st → x.eligible = false →
      st.cntr ≠ 0 → l.final = none → l.cancel = none → s.stageHeld launch stage = false → s.walk none l.asid st.cntr = .leaf p →
      s.deviceRead none l.asid st.cntr 4 Leaf.plainFmt = .ok bs →
      (leNat bs < st.thresh → exec (.stageCounterRead launch stage) s = .next s ∧ exec (.stageCounterPoll launch stage) s = .next s) ∧
      (st.thresh ≤ leNat bs → ∃ u : State, exec (.stageCounterRead launch stage) s = .next (u.deal dealFuel) ∧
        exec (.stageCounterPoll launch stage) s = .next (u.deal dealFuel) ∧ SameBytes s u ∧ u.teams = s.teams ∧
        ∃ l' : Launch, u.launch? launch = some l' ∧ l'.stages[stage]? = some { x with eligible := true, after := [s.fresh] } ∧
          ∀ j, j ≠ stage → l'.stages[j]? = l.stages[j]?)) ∧
    (∀ (team : Nat) (t : Team) (l : Launch) (st : StageRec), s.team? team = some t → s.launchOf t = some l → t.state = .resident → t.saving = false → l.record.stages[t.stage]? = some st →
      st.qaddr ≠ 0 → s.teamBlocked t = true → s.stageWaits l t.stage = true →
      ∃ u : State, exec (.stageTeamSave team) s = .next u ∧ SameBytes s u ∧ u.team? team = some { t with saving := true } ∧
        ∀ x, x ≠ team → u.team? x = s.team? x) ∧
    (∀ (id : Nat) (a : Active) (push nb : Bool) (off : Nat) (slot : Option Nat), s.late.find? (fun x => x.id == id) = none → s.op? id = none → s.owned? id = some a →
      a.cmd.kind = .stage push nb off slot → a.cmd.ending = none → s.cmdHeld id = false → s.halted.contains a.launch.asid = false →
      a.launch.queueOf a.team push = none → exec (.operationComplete id) s = .next (s.endCmd id 768)) ∧
    (∀ (r : SplitRef) (c : Issuer) (w : BarWait), s.issuerOf r = some c → c.split.status = .barWait w → s.halted.contains c.asid = false →
      (c.team.generation w.obj = w.gen → exec (.barrierReturn r) s = .next s) ∧
      (c.team.generation w.obj ≠ w.gen → c.group.whole = true → ∃ (u : State) (g' : Group) (p' : Split), exec (.barrierReturn r) s = .next u ∧
        SameBytes s u ∧ u.group? c.team.id c.group.gid = some g' ∧ g'.split? r.split = some p' ∧ p'.status = .running ∧ p'.set.pc = c.pc + 4 ∧
        p'.set.own = c.split.set.own ∧ p'.set.exec = c.split.set.exec ∧
        (w.sd ≠ 0 → g'.readS r.split w.sd = barStatus 0 (if w.join = true then w.gen else c.team.generation w.obj)) ∧
        (∀ x, x ≠ w.sd → g'.readS r.split x = c.group.readS r.split x) ∧ g'.v = c.group.v ∧ g'.p = c.group.p))

/-- R266, R340, R376, R377, R113: which register each host write of BAR0 changes and what it refuses; how a kick is refused, read again and accepted; host reads and writes of
device memory; where a trap record goes and what its sectors hold; FABW.
Model's readings: log entries 116, 117, 118, 137, 173. -/
def Obligations.HostAccesses : Prop :=
  ∀ (s : State),
    (∀ (asid : Nat) (v : DWord), asid < 512 → s.barOpen = true →
      let w (off : Nat) : Out State := exec (.hostRegisterWrite (0x10000 + 4096 * asid + off) v) s
      let a := s.asid asid
      let lo : Word := v.truncate 32
      let refused : State := s.setAsid { a with stat := a.stat ||| 1 }
      (s.liveLaunch asid = false →
        w 0x000 = .next (s.setAsid { a with ident := v }) ∧ w 0x040 = .next (s.setAsid { a with cpsize := lo }) ∧
        w 0x008 = .next (if v.toNat % 512 = 0 then s.setAsid { a with subbase := v } else refused) ∧
        w 0x010 = .next (if lo.toNat ≤ 4096 then s.setAsid { a with subn := lo } else refused) ∧
        w 0x028 = .next (if v.toNat % 64 = 0 then s.setAsid { a with frbase := v } else refused) ∧
        w 0x038 = .next (if v.toNat % 65536 = 0 then s.setAsid { a with cpbase := v } else refused) ∧
        (lo = 0 ∨ (∃ k : Nat, k ≤ 20 ∧ lo.toNat = 2 ^ k) → w 0x030 = .next (s.setAsid { a with frsize := lo })) ∧
        (lo ≠ 0 → (∀ k : Nat, k ≤ 20 → lo.toNat ≠ 2 ^ k) → w 0x030 = .next refused)) ∧
      (s.liveLaunch asid = true → ∀ off ∈ [0x000, 0x008, 0x010, 0x028, 0x030, 0x038, 0x040], w off = .next refused) ∧
      w 0x034 = .next (s.setAsid { a with frhead := lo }) ∧
      w 0x050 = .next (if lo.extractLsb' 16 15 = 0 then s.setAsid { a with vec := lo } else refused) ∧
      w 0x054 = .next (s.setAsid { a with stat := a.stat &&& ~~~(lo &&& 0xFB) }) ∧
      w 0x020 = .next s ∧ w 0x058 = .next s ∧
      exec (.kick asid v) s = w 0x018) ∧
    (∀ (offset : Nat) (v : DWord), offset < 0x10000 → bits s.boot.toNat 7 0 ≥ 2 →
      (offset = 0x018 → exec (.hostRegisterWrite offset v) s = .next { s with peersel := v.truncate 32 &&& 0x3FFFF }) ∧
      (offset = 0x020 → exec (.hostRegisterWrite offset v) s = .next { s with winbase := v &&& 0xFFFFFFF000000000 }) ∧
      (offset ≠ 0x018 → offset ≠ 0x020 → exec (.hostRegisterWrite offset v) s = .next s)) ∧
    (∀ (asid : Nat) (v : DWord), asid < 512 → s.barOpen = true →
      let k : Kick := { asid := asid, seq := v.truncate 32, slot := (v.extractLsb' 32 12).toNat, bad := v.extractLsb' 44 20 != 0, reads := 0
                        found := none, got := [] }
      let queued : State := { s with kicks := s.kicks ++ [k] }
      (s.kicks ≠ [] ∨ s.accepting = false → exec (.kick asid v) s = .next queued) ∧
      (s.kicks = [] → exec (.kick asid v) s = exec (.submissionSeqReread asid) queued) ∧
      (s.kicks = [] → s.accepting = true → v.extractLsb' 44 20 ≠ 0 ∨ (s.asid asid).subn.toNat ≤ (v.extractLsb' 32 12).toNat →
        ∃ t : State, exec (.kick asid v) s = .next t ∧ SameBytes s t ∧ t.launches = s.launches ∧ t.kicks = [] ∧ t.asid asid = { s.asid asid with
          kerr := BitVec.ofNat 64 ((v.extractLsb' 0 44).toNat + 2 * 2 ^ 44), stat := (s.asid asid).stat ||| 16, acpt := (s.asid asid).acpt + 1 })) ∧
    (∀ (asid : Nat) (k : Kick) (rest : List Kick), s.kicks = k :: rest →
      (k.asid ≠ asid ∨ s.accepting = false → exec (.submissionSeqReread asid) s = .next s) ∧
      (k.asid = asid → s.accepting = true → k.bad = false → k.slot < (s.asid asid).subn.toNat →
        let at_ (n : Nat) : DWord := (s.asid asid).subbase + BitVec.ofNat 64 (512 * k.slot + 32 * n)
        let again : State := { s with kicks := { k with reads := k.reads + 1 } :: rest }
        let dropped : State := (s.refuseKick asid k).consumeKick k
        (k.found = none → s.reachable none asid (at_ 15) 32 = true →
          (∀ x, s.deviceRead none asid (at_ 15) 32 Leaf.plainFmt = .ok x →
            (bits (leNat x) 239 208 = k.seq.toNat → exec (.submissionSeqReread asid) s = .next { s with kicks := { k with found := some x } :: rest }) ∧
            (bits (leNat x) 239 208 ≠ k.seq.toNat →
              exec (.submissionSeqReread asid) s = .next (if k.reads + 1 < 65536 then again else dropped))) ∧
          (∀ e, s.deviceRead none asid (at_ 15) 32 Leaf.plainFmt = .error e →
            exec (.submissionSeqReread asid) s = .next (if k.reads + 1 < 65536 then again else dropped))) ∧
        (∀ last n, k.found = some last → k.got.length = 32 * n → n < 15 → s.reachable none asid (at_ n) 32 = true →
          (∀ e, s.deviceRead none asid (at_ n) 32 Leaf.plainFmt = .error e → exec (.submissionSeqReread asid) s = .next dropped) ∧
          (∀ x, s.deviceRead none asid (at_ n) 32 Leaf.plainFmt = .ok x →
            (n < 14 → exec (.submissionSeqReread asid) s = .next { s with kicks := { k with got := k.got ++ x } :: rest }) ∧
            (n = 14 → let bs := k.got ++ x ++ last
              (s.rejection asid bs = none → exec (.submissionSeqReread asid) s = .next ((s.accept asid (launchRecOf bs) none).consumeKick k)) ∧
              (s.rejection asid bs = some 2 → exec (.submissionSeqReread asid) s = .next dropped) ∧
              (∀ st, st ≠ 2 → s.rejection asid bs = some st →
                exec (.submissionSeqReread asid) s = .next ((s.writeCpl asid (launchRecOf bs).cpl st 0).consumeKick k))))))) ∧
    (∀ (k : Kick) (w : State), (w.consumeKick k).kicks = w.kicks.drop 1 ∧
      (w.consumeKick k).asid k.asid = { w.asid k.asid with acpt := (w.asid k.asid).acpt + 1 }) ∧
    (∀ (off len : Nat), off + len ≤ 2 ^ 36 → regionOf (s.winbase.toNat + off) len = some 0 → s.arrived .host = true →
      ∃ (t : State) (os : List MemOp), exec (.hostMemoryAccess (.read off len)) s = .next t ∧
        t = { s with hostReads := s.hostReads ++ [s.mem.readN (s.winbase.toNat + off) len], ops := s.ops ++ os, fresh := t.fresh } ∧
        ∀ o ∈ os, o.agent = .host ∧ o.kind = .load ∧ o.result = some (s.mem.readN o.addr o.size)) ∧
    (∀ (off : Nat) (data : List Byte), let own := 2 ^ 36 < off + data.length ∨ regionOf (s.winbase.toNat + off) data.length ≠ some 0
      (own → exec (.hostMemoryAccess (.write off data)) s = .next s ∧ exec (.hostMemoryAccess (.read off data.length)) s = .next s) ∧
      (regionOf off data.length ≠ some 3 → exec (.hostMemoryAccess (.own off data)) s = .next s)) ∧
    (∀ (acc : HostAccess) (pa : Nat) (data : List Byte),
      (∃ off, acc = .write off data ∧ off + data.length ≤ 2 ^ 36 ∧ pa = s.winbase.toNat + off ∧ regionOf pa data.length = some 0) ∨
        (acc = .own pa data ∧ regionOf pa data.length = some 3) →
      ∃ (t : State) (os : List MemOp), exec (.hostMemoryAccess acc) s = .next t ∧ t = { s with ops := s.ops ++ os, fresh := t.fresh } ∧
        (os.flatMap fun o => (List.range o.size).map (o.addr + ·)) = (List.range data.length).map (pa + ·) ∧
        os.flatMap (·.data) = data.map (fun b => (b, (0xFF : Byte))) ∧ ∀ o ∈ os, o.agent = .host ∧ o.kind = .store ∧ o.space = .mem ∧ o.addr % 32 + o.size ≤ 32) ∧
    (∀ (asid seq : Nat) (t : Trap) (rest : List (Nat × Trap)), (s.asid asid).traps = (seq, t) :: rest →
      ((s.asid asid).frsize = 0 ∨ (s.asid asid).ringFull = true → exec (.trapRecordWrite asid) s = .next s) ∧
      ((s.asid asid).frsize ≠ 0 → (s.asid asid).ringFull = false → s.delivered t.behind = true →
        let u := s.setAsid { s.asid asid with traps := rest, written := seq }
        let ptr := (s.asid asid).frbase + BitVec.ofNat 64 (64 * ((seq - 1) % (s.asid asid).frsize.toNat))
        (∀ v, u.deviceSend asid ptr (t.bytes seq) .relaxed [] = some v → exec (.trapRecordWrite asid) s = .next v.flushFinals) ∧
        (u.deviceSend asid ptr (t.bytes seq) .relaxed [] = none → (∀ h ∈ s.held, h.asid = asid → h.seq ≠ seq) →
          exec (.trapRecordWrite asid) s = .next ((u.setStat asid 5).fireVector asid).flushFinals))) ∧
    (∀ (t : Trap) (seq : Nat), let x := leNat ((t.bytes seq).take 32); let y := leNat ((t.bytes seq).drop 32)
      (t.bytes seq).length = 64 ∧ bits x 255 192 = t.addr.toNat ∧ bits x 191 128 = t.spc.toNat ∧ bits x 127 64 = t.lpc.toNat ∧
      bits x 63 32 = t.launch % 2 ^ 32 ∧ bits x 31 24 = t.cause.code ∧ bits x 23 16 = t.sub % 256 ∧ bits x 15 0 = t.ucode % 65536 ∧
      bits y 255 224 = seq % 2 ^ 32 ∧ bits y 118 110 = t.asid % 512 ∧ bits y 106 102 = t.group % 32 ∧ bits y 101 100 = t.split % 4 ∧
      (bit y 99 = true ↔ t.lane.isSome = true) ∧ (∀ l, t.lane = some l → bits y 98 94 = l % 32) ∧ bits y 109 107 = t.stage % 8 ∧
      bits y 159 128 = t.team.1 % 2 ^ 32 ∧ bits y 191 160 = t.team.2.1 % 2 ^ 32 ∧ bits y 223 192 = t.team.2.2 % 2 ^ 32 ∧
      bits y 88 71 = t.node % 2 ^ 18 ∧ bits y 70 64 = t.reg.toNat ∧ (bit y 93 = true ↔ t.bpm = true) ∧ (bit y 92 = true ↔ t.held = true) ∧ bits y 91 89 = t.src % 8) ∧
    (∀ (asid : Nat) (w : Word) (ws : List Word), (s.asid asid).fabwIn = w :: ws →
      exec (.fabwApply asid) s = .next (s.setAsid { s.asid asid with fabw := w, fabwIn := ws }))

/-- R248, R331, R332, R335, R344, R345, R379: what each kind of host command does at the head of its queue, its completion word, and the choice of a means of taking a team off. Model's readings: log entries 80, 113, 114, 115, 119. -/
def Obligations.HostCommands : Prop :=
  ∀ (s : State) (asid : Nat) (c : HostCmd) (k : Order4),
    (∀ w : State, (s.asid asid).cmds = [c] →
      (s.setAsid { s.asid asid with cmds := [] }).deviceSend asid k.done (natLe 4 (if c.missed = true then 256 else 0) ++ natLe 4 c.count) .release
        ((s.ops.filter fun o => o.asid == asid).map (·.id)) = some w → s.endCommand asid c k = w) ∧
    (s.headCommand asid 1 = some (c, k) →
      (c.begun = none → ∃ t : State, exec (.invalidate asid) s = .next t ∧ SameBytes s t ∧ t.teams = s.teams ∧
        t.cores = s.cores.map (fun x => { x with tlb := x.tlb.filter fun e =>
          !(e.asid == asid && decide (e.va < k.arg1 + k.arg2) && decide (k.arg1 < e.va + e.size)) }) ∧
        (t.asid asid).cmds.head? = some { c with begun := some [] }) ∧
      (c.begun ≠ none → s.level = true → (∀ o ∈ s.ops, o.asid = asid → o.isFence = true ∨ o.opPerformed .system = true) →
        exec (.invalidateCompletion asid) s = .next ((s.dropLeaves asid k.arg1 k.arg2).endCommand asid c k)) ∧
      (s.level = true ↔ ∀ h d : Nat, h < 5 → d < 5 → s.applied d h = s.applied h h) ∧ (s.level = false → exec (.invalidateCompletion asid) s = .next s) ∧
      (∀ o ∈ s.ops, o.asid = asid → o.isFence = false → o.opPerformed .system = false → exec (.invalidateCompletion asid) s = .next s)) ∧
    (s.headCommand asid 2 = some (c, k) →
      (c.begun = none →
        let teams := s.teams.filter fun t => s.asidOf t == asid && t.state == .resident && bit k.arg1 (clusterOf t.core)
        let s1 := if k.arg2 / 2 ^ 32 = 0 then s else s.setAsid { s.asid asid with holds := (s.asid asid).holds ++ [{ id := c.count, mask := k.arg1, left := 1024 * (k.arg2 / 2 ^ 32) }] }
        let r := s1.takeOff teams (k.arg2 % 2 ^ 32)
        let c' := { c with begun := some (teams.map (·.id)), missed := r.2 }
        let u := r.1.modHead asid fun _ => c'
        exec (.preEmpt asid) s = .next (if u.awaited (teams.map (·.id)) = true then u else u.endCommand asid c' k)) ∧
      (∀ ids, c.begun = some ids →
        ((∃ t ∈ s.teams, t.id ∈ ids ∧ t.state = .resident) → exec (.preEmpt asid) s = .next s) ∧
        ((∀ t ∈ s.teams, t.id ∈ ids → t.state ≠ .resident) → exec (.preEmpt asid) s = .next (s.endCommand asid c k)))) ∧
    (∀ (x : Costs) (bound : Nat),
      (∀ n, x.drain = some n → n ≤ bound → x.choose bound = (.drain, false)) ∧
      ((∀ n, x.drain = some n → bound < n) → x.save ≤ bound → x.choose bound = (.save, false)) ∧
      ((∀ n, x.drain = some n → bound < n) → bound < x.save → (∀ n, x.flush = some n → n ≤ bound → x.choose bound = (.flush, false)) ∧
        ((∀ n, x.flush = some n → bound < n) → (x.choose bound).2 = true ∧
          match (x.choose bound).1 with
          | .drain => ∃ n, x.drain = some n ∧ n ≤ x.save ∧ ∀ m, x.flush = some m → n ≤ m
          | .save => (∀ n, x.drain = some n → x.save < n) ∧ ∀ m, x.flush = some m → x.save ≤ m
          | .flush => ∃ m, x.flush = some m ∧ m < x.save ∧ ∀ n, x.drain = some n → m < n))) ∧
    (∀ (t : Team) (l : Launch), (s.costs t l).save = 256 +
        (l.record.groups * ((l.record.vregs + l.record.qbud) * 128 + 4096) + 8192 * l.record.tiles + 1024 * l.record.scratch + 63) / 64 ∧
      (s.costs t l).flush = if l.record.idemp = true then some 64 else none) ∧
    exec (.preEmptHoldEnd asid) s = .next ((s.setAsid { s.asid asid with holds := (s.asid asid).holds.filter fun h => h.left != 0 }).deal dealFuel) ∧
    (s.headCommand asid 3 = some (c, k) →
      let ids := (s.launches.filter fun l => l.asid == asid && (decide (k.arg1 = 0xFFFFFFFF) || l.id == k.arg1)).map (·.id)
      let u := ids.foldl (fun s id => s.cancelLaunch id none) s
      (∀ id l, s.launch? id = some l → l.final = none → l.cancel = none → ∀ t ∈ (s.cancelLaunch id none).teams, t.launch ≠ id) ∧
      (u.halted.contains asid = true → ids ≠ [] ∨ k.arg1 = 0xFFFFFFFF → (∀ l ∈ u.launches, l.asid = asid → l.cancel ≠ none ∨ l.final ≠ none) →
        exec (.cancel asid) s = .next (((u.unhalt asid).endCommand asid c k).deal dealFuel)) ∧
      (u.halted.contains asid = false → exec (.cancel asid) s = .next ((u.endCommand asid c k).deal dealFuel))) ∧
    (s.headCommand asid 4 = some (c, k) →
      (s.halted.contains asid = false → exec (.resumeContext asid) s = .next (s.endCommand asid c k)) ∧
      (s.halted.contains asid = true → exec (.resumeContext asid) s = .next ((s.unhalt asid).endCommand asid c k) ∧
        (s.unhalt asid).halted.contains asid = false)) ∧
    (s.headCommand asid 5 = some (c, k) →
      ((∀ h ∈ s.held, h.asid = asid → h.seq % 2 ^ 32 ≠ k.arg1 % 2 ^ 32) →
        (k.arg1 / 2 ^ 32 = 0 → exec (.faultResume asid) s = .next (s.endCommand asid c k)) ∧
        (k.arg1 / 2 ^ 32 = 1 → exec (.faultAbandon asid) s = .next (s.endCommand asid c k))) ∧
      (∀ h, s.held.find? (fun h => h.asid == asid && h.seq % 2 ^ 32 == k.arg1 % 2 ^ 32) = some h → s.savedWork h = false →
        (k.arg1 / 2 ^ 32 = 1 → exec (.faultAbandon asid) s = .next ((s.abandonFault h).endCommand asid c k)) ∧
        (∀ r uid, k.arg1 / 2 ^ 32 = 0 → h.work = .split r uid ∨ h.work = .clause r uid → h.trap.cause = .translation →
          exec (.faultResume asid) s = .next (({ s with held := s.held.filter fun x => !(x.asid == h.asid && x.seq == h.seq) } : State).endCommand asid c k))))

/-- R66, R37, R38, R187, R331 to R334, R353, R354: a team to be saved is written to its area and leaves its core once everything that it issued has completed; a drained team that overruns is to be
saved; a saved team comes back from its area to a core that has room; an area that cannot be written or read takes CONTEXT_AREA; the watchdog fires at WDLIM × 1,024 cycles.
Model's readings: log entries 76, 77, 79, 136, 176, 178. -/
def Obligations.ContextSwitches : Prop :=
  ∀ (s : State) (team : Nat) (t : Team) (l : Launch), s.team? team = some t → s.launchOf t = some l → t.red = none →
    (l.record.ordered = false → t.state = .resident → s.saveSet t l = [t]) ∧
    (l.record.ordered = true → t.state = .resident → ∀ u, u ∈ s.saveSet t l ↔ u ∈ s.teams ∧ u.launch = l.id ∧ u.state = .resident) ∧
    (t.state = .resident → t.saving = true →
      ((∃ u ∈ s.saveSet t l, s.quiet u = false) → exec (.contextSave team) s = .next s) ∧
      (l.record.ordered = false → s.quiet t = true → s.homesFree (Nat.min (l.record.areaSize / 32 + 256) (2 ^ 22)) = true →
        exec (.contextSave team) s = .next (s.saveTeam t l))) ∧
    (∀ x ∈ (s.recallLoops team).loops, x.team = team → x.next = 0) ∧
    (t.pass = none → (∀ x ∈ s.loops, x.team ≠ team) → (∀ o ∈ s.ops, o.reading = true → o.group?.map (·.1) ≠ some team) →
      s.saveTeam t l = match s.writeArea t l with
        | .ok v => v.modTeam team fun t => { t with state := .saved, saving := false, drain := none, groups := t.groups.map Group.saved }
        | .error a => (s.teamAreaFault t 1 a).modTeam team fun t => { t with saving := false }) ∧
    (∀ n, t.drain = some n → t.state = .resident →
      (s.cycleOf t.core < n → exec (.drainOverrun team) s = .next s) ∧
      (n ≤ s.cycleOf t.core → ∃ u : State, exec (.drainOverrun team) s = .next u ∧ SameBytes s u ∧
        (∀ x ∈ s.saveSet t l, ∀ y, s.team? x.id = some y → u.team? x.id = some { y with saving := true, drain := none }) ∧
        ∀ k, (∀ x ∈ s.saveSet t l, x.id ≠ k) → u.team? k = s.team? k)) ∧
    (∀ core, t.state = .saved →
      (s.mayRestore t core = false → exec (.contextRestore team core) s = .next s) ∧
      (s.mayRestore t core = true → s.stageReady t l = true → l.record.ordered = false → (∀ h ∈ s.held, h.answer = none) →
        s.reachable none l.asid (s.areaAddr t 0) l.record.areaSize = true → exec (.contextRestore team core) s = .next (match s.deviceRead none l.asid (s.areaAddr t 0) l.record.areaSize Leaf.isPool with
          | .error e => s.teamAreaFault t 2 e.2
          | .ok bs => match s.readArea t l bs with
            | none => s.teamAreaFault t 2 (s.areaAddr t 0)
            | some v => (v.cmds.filter fun c => c.team == team && c.ending.isSome).foldl (fun s c => s.finishCmd c.id) (v.modTeam team fun t =>
                { t with state := .resident, core := core, since := v.cycleOf core, groups := bindSlots (v.slotCounts core) t.groups })))) ∧
    (∀ gid g k p rest, t.group? gid = some g → g.live = (k, p) :: rest → s.watchPaused t g = false →
      (g.watch < 1024 * l.record.wdlim → exec (.watchdog team gid) s = .next s) ∧
      (1024 * l.record.wdlim ≤ g.watch → ∃ trap : Trap, trap.cause = .watchdog ∧ trap.spc = p.set.pc ∧ trap.src = 6 ∧ trap.group = gid ∧
        trap.split = k.val ∧ trap.launch = t.launch ∧ exec (.watchdog team gid) s =
          .next ((s.modGroup team gid fun g => { g with watch := 0 }).takeFault trap team gid (.split { team := team, group := gid, split := k } p.set.uid))))

/-- R266, R299, R355, R366, R367, R368, R378: how a peer's state and the links move; a remote copy that waits on a lost or recovering node ends with 0x10 and REMOTE_LOST; what the requests of other devices read, write
and are answered, a write once it is performed at system scope.
Model's readings: log entries 94, 134, 135, 169, 174, 176. -/
def Obligations.FabricEvents : Prop :=
  ∀ (s : State) (node : Nat),
    let moved (old : List PeerState) (new : PeerState) : State :=
      { s with peers := s.peers.map fun p => if p.node = node ∧ p.state ∈ old then { p with state := new } else p }
    let down := s.links &&& ~~~s.linksOf node
    let up := s.links ||| s.linksOf node
    (∀ (n k : Nat) (p : Peer), s.peers.find? (fun p => p.node == n) = some p → k < 32 → ((s.linksOf n).getLsbD k = true ↔ k ∈ p.links)) ∧
    exec (.linkFailure node) s = .next { s with links := down, peers := s.peers.map fun p =>
      if p.state = .up ∧ (s.linksOf p.node &&& down) = 0 then { p with state := .recovering } else p } ∧
    exec (.linkRecovery node) s = .next ({ s with links := up, peers := s.peers.map fun p =>
      if p.state = .recovering ∧ (s.linksOf p.node &&& up) ≠ 0 then { p with state := .up } else p } : State).learnLosses ∧
    exec (.fabricRecoveryLimit node) s = .next (moved [.recovering] .lost).learnLosses ∧
    exec (.peerLossNotice node) s = .next (moved [.up, .recovering] .lost).learnLosses ∧
    (∀ v : State, v.collectives = [] → v.learnLosses = v) ∧
    (∀ (team gid : Nat) (t : Team) (c : Cmd) (addr : DWord) (t' : Team) (g' : Group), s.team? team = some t → t.state = .resident →
      s.remoteCopies team gid node = [(c, addr)] → (s.endCmd c.id 16).team? team = some t' → t'.group? gid = some g' → g'.ended = false →
      ((s.peer? node ≠ some .lost ∧ s.peer? node ≠ some .recovering) → exec (.remoteLost team gid node) s = .next s) ∧
      (∀ sub, (s.peer? node = some .lost ∧ sub = 2) ∨ (s.peer? node = some .recovering ∧ sub = 1) →
        ∃ trap : Trap, trap.cause = .remoteLost ∧ trap.sub = sub ∧ trap.addr = addr ∧ trap.node = node ∧ trap.spc = c.pc ∧ trap.src = 4 ∧
          exec (.remoteLost team gid node) s = .next ((s.endCmd c.id 16).takeFault trap team gid (.cmd c.id)))) ∧
    (∀ (asid : Nat) (addr : DWord) (efmt : Nat),
      let ptr : DWord := addr &&& ~~~31
      let check := s.checkAccess none asid ptr 32 .load fun l => pageAgrees efmt true false l.fmt || pageAgrees efmt true true l.fmt
      let asked : Out State := exec (.fabricRequest (.read node asid addr efmt)) s
      (s.arrived (.fabric node) = false ∨ s.reachable none asid ptr 32 = false → asked = .next s) ∧
      (s.arrived (.fabric node) = true → s.reachable none asid ptr 32 = true →
        (∀ l, check = .ok l → l.cmp = false → ∃ (t : State) (os : List MemOp) (bs : List Byte), asked = .next t ∧
          t = { s with sent := s.sent ++ [.answer node (!pageAgrees efmt true false l.fmt) bs 0], ops := s.ops ++ os, fresh := t.fresh } ∧
          bs.take 32 = s.mem.readN (l.pa ptr) 32 ∧ (fmtScaled l.fmt = false → bs.length = 32) ∧
          ∀ o ∈ os, o.agent = .fabric node ∧ o.kind = .load ∧ o.result = some (s.mem.readN o.addr o.size)) ∧
        (∀ f, check = .error f → asked = .next (s.remoteFault node asid f addr (.read node asid addr efmt))))) ∧
    (∀ (asid : Nat) (addr : DWord) (efmt : Nat) (data : List (Option Byte)),
      let ptr : DWord := addr &&& ~~~31
      let check := s.checkAccess none asid ptr 32 .store fun l => pageAgrees efmt false false l.fmt
      let sent : Out State := exec (.fabricRequest (.write node asid addr efmt data)) s
      (∀ f, check = .error f → sent = .next (s.remoteFault node asid f addr (.write node asid addr efmt data))) ∧
      (∀ l, check = .ok l → l.cmp = false → data.length = 32 → l.pa ptr % 32 = 0 →
        ∃ (u : State) (o : MemOp), sent = .next u ∧ SameBytes s u ∧ u.sent = s.sent ∧ (∀ k, k ≠ s.fresh → u.op? k = s.op? k) ∧
          u.ops.getLast? = some o ∧ o.agent = .fabric node ∧ o.kind = .store ∧ o.space = .mem ∧ o.scope = .system ∧ o.dest = .ack node ∧
          o.done = false ∧ o.addr = l.pa ptr ∧ o.size = 32 ∧ o.data = data.map fun x => match x with | some b => (b, (0xFF : Byte)) | none => (0, 0))) ∧
    (∀ (asid : Nat) (f : AccessFault) (addr : DWord) (req : FabricRequest), let v := s.remoteFault node asid f addr req
      (identValid (s.asid asid).ident = false → v = { s with sent := s.sent ++ [.answer node false [] f.1.code] }) ∧
      (identValid (s.asid asid).ident = true → ∃ trap : Trap, trap.cause = f.1 ∧ trap.sub = f.2 ∧ trap.addr = addr ∧ trap.src = 4 ∧ trap.node = node ∧
        trap.asid = asid ∧
        (f.1.isHeld = false ∨ (s.asid asid).frsize = 0 → v = let u := s.record trap; { u with sent := u.sent ++ [.answer node false [] f.1.code] }) ∧
        (f.1.isHeld = true → (s.asid asid).frsize ≠ 0 → ∃ h : HeldFault, v.held = s.held ++ [h] ∧ v.sent = s.sent ∧ h.work = .remote req ∧
          h.trap = { trap with held := true } ∧ h.answer = none))) ∧
    (∀ (op : Nat) (o : MemOp), s.late.find? (fun x => x.id == op) = none → s.op? op = some o → o.agent = .fabric node → o.kind = .store → o.dest = .ack node →
      o.done = false → o.result = none → (o.opPerformed o.effScope = false → exec (.operationComplete op) s = .next s.prune) ∧
      (o.opPerformed o.effScope = true → ∃ u : State, exec (.operationComplete op) s = .next u ∧ SameBytes s u ∧ u.sent = s.sent ++ [.answer node false [] 0] ∧
        ∀ x ∈ u.ops, x.id = op → x.done = true))

/-- R163, R175, R180, R181, R183, R184, R186, R264, R294, R297, R298, R305: an engine reads a sector by an operation of its own, whose result it takes once
that has come and its check word agrees, after a second fetch else; a copy's record is read a sector at a time and a refused one ends with status 1; each
destination sector is formed and written in its turn, and the last ends the copy with status 0; a loop's step takes place once its sectors are read and its
turn has come, and accumulates into its C tiles and no others; a fault of either is taken as its own.
Model's readings: log entries 89, 96, 97, 168, 170. -/
def Obligations.CopiesAndLoopsStep : Prop :=
  ∀ (s : State),
    (∀ (agent : Agent) (uid key : Nat) (issue : Except Halt (MemOp × (State → State))),
      let got := s.readBy agent uid key issue
      (s.reading agent uid key = none → (∀ h, issue = .error h → got = .error h) ∧ ∀ o used, issue = .ok (o, used) →
        got = .error (if s.canIssue [o] = true then .issued (used (s.pushOp { o with dest := .engine key })) else .wait)) ∧
      (∀ x, s.reading agent uid key = some x → (x.result = none → got = .error .wait) ∧
        (x.result ≠ none → x.intact = true → got = .ok (x.carried.map fun d => d.1)) ∧
        (x.result ≠ none → x.intact = false → got = .error (if x.again = true then .bad key x else .issued (s.refetch x))))) ∧
    (∀ (a : Active) (src : Nat), s.cmdHalt a src .wait = s ∧ (∀ u, s.cmdHalt a src (.issued u) = u) ∧
      (∀ f e, s.cmdHalt a src (.fault f e) = s.cmdFault a f e src) ∧
      ∀ key o, s.cmdHalt a src (.bad key o) = (s.mismatch o).cmdFault a (.uncorrectableScratch, 2) (BitVec.ofNat 64 key) src) ∧
    (∀ (cmd : Nat) (a : Active) (k : CopyState), s.active? cmd = some a → a.cmd.kind = .copy k →
      (k.shape = none → ∀ h, s.cmdFetch a (k.record + if k.half.isNone = true then 0 else 32) 32 Leaf.plainFmt = .error h →
        exec (.copyStart cmd) s = .next (s.cmdHalt a 4 h)) ∧
      (k.shape = none → k.half = none → ∀ bs, s.cmdFetch a k.record 32 Leaf.plainFmt = .ok bs →
        exec (.copyStart cmd) s = .next (s.modCmd cmd fun c => { c with kind := .copy { k with half := some bs } })) ∧
      (k.shape = none → ∀ lo bs, k.half = some lo → s.cmdFetch a (k.record + 32) 32 Leaf.plainFmt = .ok bs →
        let p := shapeOf (lo ++ bs)
        (p.valid k.bar.isSome a.launch.record.tiles = false → exec (.copyStart cmd) s = .next (s.endCmd cmd 1)) ∧
        (p.valid k.bar.isSome a.launch.record.tiles = true →
          let u := (s.cmdTaken cmd).modCmd cmd fun c => { c with kind := .copy { k with shape := some p, todo := if p.empty = true then [] else p.sectors } }
          exec (.copyStart cmd) s = .next (if p.empty = true then u.endCmd cmd 0 else u))) ∧
      (∀ p, k.shape = some p → k.todo ≠ [] → s.remotePending cmd = true ∨ (p.skind = 2 ∧ s.tileBusy a.team.id p.src.toNat = true) ∨
        (p.dkind = 2 ∧ s.tileBusy a.team.id p.dst.toNat = true) ∨ ((p.skind = 3 ∨ p.dkind = 3) ∧ s.peer? p.node ≠ some .up) ∨
        s.pumpFree (dieOf a.team.core) = false → exec (.pumpSector cmd .none) s = .next s) ∧
      (∀ p, k.shape = some p → s.remotePending cmd = false → (p.skind = 2 → s.tileBusy a.team.id p.src.toNat = false) →
        (p.dkind = 2 → s.tileBusy a.team.id p.dst.toNat = false) → ((p.skind = 3 ∨ p.dkind = 3) → s.peer? p.node = some .up) →
        s.pumpFree (dieOf a.team.core) = true → k.todo ≠ [] → ∀ remote, (∀ cause, remote ≠ .done cause) →
        (∀ h, s.pump a k p remote = .error h → exec (.pumpSector cmd remote) s = .next (s.cmdHalt a 4 h)) ∧
        (∀ u c' k', s.pump a k p remote = .ok u → u.cmd? cmd = some c' → c'.kind = .copy k' →
          exec (.pumpSector cmd remote) s = .next (if k'.todo = [] ∧ u.remotePending cmd = false then u.endCmd cmd 0 else u)) ∧
        (∀ sec rest, k.todo = sec :: rest → p.skind = 4 → p.dkind = 1 → fmtScaled p.efmt = false → 32 * sec + 32 ≤ 1024 * a.launch.record.scratch →
          (∀ x ∈ s.ops, x.reading = true → ∀ t g c, x.agent ≠ .engine t g c cmd) → a.cmd.id = cmd →
          s.canIssue [s.cmdOp a .store (.scratch a.team.id) (32 * sec) 32 false] = true →
          ∃ (u : State) (o : MemOp), s.pump a k p remote = .ok u ∧ u.ops = s.ops ++ [o] ∧ o.kind = .store ∧ o.space = .scratch a.team.id ∧
            o.addr = 32 * sec ∧ o.size = 32 ∧ o.data = (List.range 32).map fun j =>
              match p.fill (32 * sec + j) with
              | some f => (p.value (fun i0 i1 _ => if p.outside i0 i1 = true then 0 else p.const.toNat % 2 ^ p.width) (fun _ _ _ => 0) f, (0xFF : Byte))
              | none => (0, 0)) ∧
        (∀ i1 i2, p.value (fun _ _ _ => 0) (fun _ _ _ => 0) .zero = 0 ∧ ∀ o, p.value (fun _ _ _ => 0) (fun _ _ _ => 0) (.row i1 i2 o) = 0)) ∧
      (∀ cause, exec (.pumpSector cmd (.done cause)) s = .next (s.remoteDone cmd cause))) ∧
    (∀ (loop : Nat) (l : Loop) (t : Team) (g : Group), s.loops.find? (fun l => l.id == loop) = some l → s.team? l.team = some t →
      t.group? l.group = some g → t.state = .resident → s.halted.contains (s.asidOf t) = false →
      (∀ x ∈ s.teams, ∀ r, x.red = some r → l.id ∉ r.mail) → (∀ h ∈ s.held, h.work ≠ .loop l.id) →
      let fa := tileFmt (t.cfg l.ta)
      let fb := tileFmt (t.cfg (l.ta + 1))
      let side := if l.mode = 1 then 2 else 1
      let xa := l.blockAddr l.a l.inca l.next
      let xb := l.blockAddr l.b l.incb l.next
      (s.loopHalt l t g .wait = s ∧ (∀ u, s.loopHalt l t g (.issued u) = u) ∧ (∀ f e, s.loopHalt l t g (.fault f e) = s.loopFault l t g f e) ∧
        ∀ key o, s.loopHalt l t g (.bad key o) = (s.mismatch o).loopFault l t g (.uncorrectableScratch, 2) (BitVec.ofNat 64 key)) ∧
      (s.loopTurn l t.core = true ↔ ∀ o ∈ s.loops, o.id = l.id ∨ l.served < o.served ∨ ∀ t' g', s.runningLoop o = some (t', g') → t'.core ≠ t.core) ∧
      (∀ fmt zero o, o ∈ rowBytes fmt zero ↔ (fmtScaled fmt = false ∧ o < (if fmtWidth fmt = 6 then 96 else 128)) ∨
        (fmtScaled fmt = true ∧ ∃ k, k < rowElems fmt ∧ zero (k / fmtBlock fmt) = false ∧ o ∈ (elemPlaces (fmtWidth fmt) k).map (·.1))) ∧
      (∀ h, s.fetchAhead l t = some h → exec (.mloopStep loop) s = .next (s.loopHalt l t g h)) ∧
      (s.fetchAhead l t = none → ∀ h, s.stepFetch l t l.next = .error h → exec (.mloopStep loop) s = .next (s.loopHalt l t g h)) ∧
      (∀ m, s.stepFetch l t l.next = .ok m → (∀ x ∈ m, ∃ o, s.reading (l.agent t) l.uid (loopKey l.next (32 * x.1)) = some o ∧ o.result ≠ none ∧
          o.intact = true ∧ x.2 = o.carried.map fun d => d.1) ∧
        (s.fetchAhead l t = none → s.loopTurn l t.core = false → exec (.mloopStep loop) s = .next s) ∧
        (s.fetchAhead l t = none → s.loopTurn l t.core = true → ∃ a b : Block, a.fmt = fa ∧ a.side = 0 ∧ b.fmt = fb ∧ b.side = side ∧
          (∀ o, (∃ x ∈ m, x.1 = (xa + o) / 32) → a.get o = m.get (xa + o)) ∧ (∀ o, (∃ x ∈ m, x.1 = (xb + o) / 32) → b.get o = m.get (xb + o)) ∧
          let v := (s.modTeam t.id fun x => x.afterStep l a b).takenOf (l.agent t) l.uid fun k => k / 2 ^ 64 == l.next
          exec (.mloopStep loop) s = .next (if l.next + 1 < l.steps then { v with
              fresh := s.fresh + 1, loops := v.loops.map fun x => if x.id = l.id then { x with next := x.next + 1, served := s.fresh } else x }
            else v.endLoop l t) ∧
          (∀ (i : Nat) (old new : Memory), t.tiles[i]? = some old → (t.afterStep l a b).tiles[i]? = some new →
            (¬(l.tc ≤ i ∧ i < l.tc + l.shadow.length) → i ≠ l.ta → i ≠ l.ta + 1 → new = old) ∧
            (l.tc ≤ i → i < l.tc + l.shadow.length → ∀ row col, row < l.ma →
              let w := l.accFmt.width / 8
              let n := col + 16 * (i - l.tc)
              col < 128 / w → n < (if l.mode = 1 then 32 else l.nb) →
              let acc := if l.z = true ∧ l.next = 0 then 0 else leNat (old.readN (128 * row + w * col) w)
              let dot := withBands a b (if l.mode = 1 then sbpDot a b l.nb row n else denseDot a b row n)
              leNat (new.readN (128 * row + w * col) w) = l.accumulate acc dot % 2 ^ (8 * w))))))

/-- R363, R364, R369 to R373, R375: a collective's record and table start it or end it with status 1; its gate waits for its flag; a send takes its chunk from
the buffer to the next member; a receive adds its chunk to the local one or writes it over, sector by sector; chunks, notices and deadlines reach the collective
that they name, which takes what has come in whole for the step that it is at and starts no further step.
Model's readings: log entries 98, 106, 107, 166, 167, 171. -/
def Obligations.CollectiveSteps : Prop :=
  ∀ (s : State),
    (∀ (cmd : Nat) (a : Active) (record : DWord) (half : Option (List Byte)), s.active? cmd = some a → a.cmd.kind = .coll record half none →
      (∀ h, s.cmdFetch a (record + if half.isNone = true then 0 else 32) 32 Leaf.isRaw = .error h → exec (.collectiveStart cmd) s = .next (s.cmdHalt a 4 h)) ∧
      (∀ bs, half = none → s.cmdFetch a record 32 Leaf.isRaw = .ok bs →
        exec (.collectiveStart cmd) s = .next ((s.cmdTaken cmd).modCmd cmd fun c => { c with kind := .coll record (some bs) none })) ∧
      (∀ lo bs, half = some lo → s.cmdFetch a (record + 32) 32 Leaf.isRaw = .ok bs →
        let c := collOf (lo ++ bs)
        (c.ok = false → exec (.collectiveStart cmd) s = .next (s.endCmd cmd 1)) ∧
        (c.ok = true → s.bufferBusy a c.buf = true → exec (.collectiveStart cmd) s = .next s) ∧
        (c.ok = true → s.bufferBusy a c.buf = false →
          (∀ h, s.cmdFetch a c.members (4 * c.n) Leaf.isRaw = .error h → exec (.collectiveStart cmd) s = .next (s.cmdHalt a 4 h)) ∧
          ∀ table, s.cmdFetch a c.members (4 * c.n) Leaf.isRaw = .ok table →
            (tableOk s.nodeNo (tableOf c.n table) = false → exec (.collectiveStart cmd) s = .next (s.endCmd cmd 1)) ∧
            (tableOk s.nodeNo (tableOf c.n table) = true →
              let st : CollState := { coll := c, ring := tableOf c.n table, rank := (tableOf c.n table).idxOf s.nodeNo, gate := false, step := 0, sent := 0
                                      masks := c.firstMasks ((tableOf c.n table).idxOf s.nodeNo), lost := [], last := c.steps, put := 0 }
              exec (.collectiveStart cmd) s = .next ((s.cmdTaken cmd).setColl cmd (st.learn (s.newlyLost a.cmd st))))))) ∧
    (∀ (cmd : Nat) (a : Active) (record : DWord) (half : Option (List Byte)) (st : CollState), s.active? cmd = some a →
      a.cmd.kind = .coll record half (some st) →
      let die := dieOf a.team.core
      let agrees : Prop := ∀ m ∈ s.chunks, st.takes die a.cmd.asid m = true → st.coll.agrees m = true
      exec (.siphonGateRead cmd) s = .next (s.collGo cmd) ∧
      (∀ pre m post, s.chunks = pre ++ m :: post → st.lost = [] → st.takes die a.cmd.asid m = true → st.coll.agrees m = false →
        (∀ x ∈ pre, st.takes die a.cmd.asid x = true → st.coll.agrees x = true) → (∀ x ∈ pre, x ≠ m) →
        s.collGo cmd = ({ s with chunks := pre ++ post } : State).setColl a.cmd.id (st.learn [(st.rank + st.coll.n - 1) % st.coll.n])) ∧
      (agrees → st.lost = [] → st.gate = false →
        (st.coll.flag = 0 → s.collGo cmd = s.setColl a.cmd.id { st with gate := true }) ∧
        (st.coll.flag ≠ 0 → (∀ h, s.cmdLoad a st.coll.flag 4 .acquire Leaf.isRaw = .error h → s.collGo cmd = s.cmdHalt a 4 h) ∧
          ∀ bs, s.cmdLoad a st.coll.flag 4 .acquire Leaf.isRaw = .ok bs → s.collGo cmd = if leNat bs < st.coll.flagv then s.cmdTaken a.cmd.id
            else (s.cmdTaken a.cmd.id).setColl a.cmd.id { st with gate := true })) ∧
      (agrees → st.lost = [] → st.gate = true → s.chunkFor a st = none → st.sent < st.coll.steps → st.sent ≤ st.step →
        let k := st.coll.sends st.rank st.sent
        (s.peer? st.next ≠ some .up → s.collGo cmd = s) ∧
        (s.peer? st.next = some .up → let got := s.cmdFetch a (st.coll.place k).1 (st.coll.place k).2 (Leaf.isBuffer st.coll.efmt)
          (∀ h, got = .error h → s.collGo cmd = s.cmdHalt a 4 h) ∧
          ∀ bs, got = .ok bs → ∃ m : ChunkMsg, m.chunk = k ∧ m.data = bs ∧ m.buf = st.coll.buf ∧ m.mask = st.masks.getD k [] ∧ m.asid = a.cmd.asid ∧
            m.die = die ∧ s.collGo cmd = (({ s with sent := s.sent ++ [.chunk st.next m] } : State).cmdTaken a.cmd.id).setColl a.cmd.id
              { st with sent := st.sent + 1 })) ∧
      (∀ m, agrees ∨ st.lost ≠ [] → st.gate = true → st.step < st.last → st.step ≤ st.sent → s.chunkFor a st = some m →
        let p := st.coll.place m.chunk
        let mine := s.cmdFetch a p.1 p.2 (Leaf.isBuffer st.coll.efmt)
        (m.gather = false → ∀ h, mine = .error h → s.collGo cmd = s.cmdHalt a 4 h) ∧
        ∀ bs mask, (m.gather = true ∧ bs = m.data ∧ mask = m.mask) ∨ (m.gather = false ∧ ∃ x, mine = .ok x ∧ bs = addChunks st.coll.fmt m.data x ∧
            mask = unite m.mask (st.masks.getD m.chunk [])) →
          (∀ q, (sectorPieces p.1.toNat bs.length bs.length)[st.put]? = some q → let x := p.1 + BitVec.ofNat 64 q.1
            (∀ h, s.cmdCheck a x q.2 .store (Leaf.isBuffer st.coll.efmt) = .error h → s.collGo cmd = s.cmdHalt a 4 h) ∧
            ∀ l, s.cmdCheck a x q.2 .store (Leaf.isBuffer st.coll.efmt) = .ok l → let o := s.cmdOp a .store .mem (l.pa x) q.2 l.sc
              (s.canIssue [o] = false → s.collGo cmd = s) ∧
              (s.canIssue [o] = true → s.collGo cmd = ((s.pushOp { o with data := plainData ((bs.drop q.1).take q.2) }).usedLeaf (some a.team.core)
                a.cmd.asid x l).setColl a.cmd.id { st with put := st.put + 1 })) ∧
          ((sectorPieces p.1.toNat bs.length bs.length)[st.put]? = none → s.collGo cmd = (({ s with chunks := s.chunks.erase m } : State).cmdTaken
            a.cmd.id).setColl a.cmd.id { st with step := st.step + 1, put := 0, masks := st.masks.mapIdx fun k x => if k = m.chunk then mask else x })) ∧
      (∀ k, (st.coll.place k).1 = st.coll.buf + BitVec.ofNat 64 (st.coll.size * (k * st.coll.count / st.coll.n)) ∧
        (st.coll.place k).2 = st.coll.size * ((k + 1) * st.coll.count / st.coll.n - k * st.coll.count / st.coll.n)) ∧
      (∀ k, k + 1 < st.coll.n → st.rank < st.coll.n → st.coll.kind = 0 →
        st.coll.sends st.rank k = (st.rank + st.coll.n - k) % st.coll.n ∧ st.coll.receives st.rank k = (st.rank + st.coll.n - k - 1) % st.coll.n ∧
        st.coll.sends st.rank (st.coll.n - 1 + k) = (st.rank + 1 + st.coll.n - k) % st.coll.n ∧
        st.coll.receives st.rank (st.coll.n - 1 + k) = (st.rank + st.coll.n - k) % st.coll.n) ∧
      (∀ node, s.peer? node = some .recovering → st.gate = true → st.lost = [] →
        (st.sent < st.last ∧ st.sent ≤ st.step ∧ st.next = node) ∨ (st.step < st.last ∧ st.step ≤ st.sent ∧ st.prev = node) →
        exec (.siphonMemberDeadline cmd node) s = .next (s.setColl cmd (st.learn [st.ring.idxOf node]))) ∧
      (∀ node, s.peer? node ≠ some .recovering → exec (.siphonMemberDeadline cmd node) s = .next s)) ∧
    (∀ (st : CollState) (lost : List Nat),
      (st.lost = [] → st.token = 0) ∧ (∀ k ks, st.lost = k :: ks → st.token = 0x10 + 256 * st.ring.getD k 0) ∧
      (lost = [] ∨ (st.last ≤ st.step ∧ st.last ≤ st.sent) → st.learn lost = st) ∧
      (lost ≠ [] → st.step < st.last ∨ st.sent < st.last →
        st.learn lost = { st with lost := st.lost ++ lost, last := Nat.min st.last (if st.gate = true then Nat.min st.step st.sent + 1 else 0) })) ∧
    (∀ msg : ChunkMsg,
      ((∀ x ∈ s.collectives, x.2.takes (s.siphonOf x.1) x.1.asid msg = true → x.2.lost = []) →
        exec (.siphonChunk msg) s = .next { s with chunks := s.chunks ++ [msg] }) ∧
      ((∃ x ∈ s.collectives, x.2.takes (s.siphonOf x.1) x.1.asid msg = true ∧ x.2.lost ≠ []) → exec (.siphonChunk msg) s = .next s)) ∧
    (∀ (site : SiphonAt) (buf : DWord) (node : Nat),
      let u : State := { s with notices := s.notices ++ [(site.die, site.asid, buf, node)] }
      exec (.siphonFaultNotice site buf node) s = .next u.learnLosses ∧
      ∀ x, u.collectives = [x] → u.learnLosses = u.setColl x.1.id (x.2.learn (u.newlyLost x.1 x.2)))

/-- R70, R186, R250, R251, R347, R349, R356 to R360: what each error adds to its unit's score, that a score of 64 drains the unit; a bit corrupted in transit, which
is found where the check word is compared, and a write that fails there is not written; the tests' results; the comparison of two copies' epochs. The
reports to management are the model's own (log entry 127).
Model's readings: log entries 81, 111, 120, 158, 159, 160, 161, 162, 163. -/
def Obligations.Reliability : Prop :=
  ∀ (s : State),
    (∀ (u : HwUnit) (n : Nat), unitExists u = true → (s.unitRec u).state = .service →
      ((s.unitRec u).score + n < 64 → s.suspect u n = s.setUnit { s.unitRec u with score := (s.unitRec u).score + n }) ∧
      (64 ≤ (s.unitRec u).score + n → ((s.suspect u n).unitRec u).state = .drained ∧ ((s.suspect u n).unitRec u).score = (s.unitRec u).score + n)) ∧
    (∀ u, exec (.softError (.corrected u)) s = .next (s.suspect u 1)) ∧
    (∀ u op bit, s.op? op = none → exec (.softError (.flip u op bit)) s = .next s) ∧
    (∀ u op bit o, s.op? op = some o → ∃ o', exec (.softError (.flip u op bit)) s = .next (s.setOp o') ∧
      (o.check = [] ∨ 8 * o.carried.length ≤ bit → o' = o) ∧
      (o.check ≠ [] → bit < 8 * o.carried.length → o' = { o with flips := o'.flips, suspect := some u } ∧ (bit ∈ o'.flips ↔ bit ∉ o.flips) ∧
        ∀ k, k ≠ bit → (k ∈ o'.flips ↔ k ∈ o.flips))) ∧
    (∀ o u, o.suspect = some u → unitExists u = true → ((s.mismatch o).unitRec u).score = (s.unitRec u).score + 16) ∧
    (∀ op o, s.op? op = some o → s.mayHome o = true → o.intact = false → exec (.writeHome op) s =
      .next (({ s.mismatch o with ops := s.ops.filter fun x => x.id != o.id } : State).sectorFault o)) ∧
    (∀ u r c, let v := s.suspect u 32; v.issuerOf r = some c → v.stopped c = false →
      exec (.softError (.badWord u r)) s = .next (v.scalarFault c (.uncorrectableReg, 2) c.pc)) ∧
    (∀ u r t g l q, let v := s.suspect u 32; v.headClause r = some (t, g, l, q) → q.fetched = none →
      exec (.softError (.badClause u r)) s = .next (v.clauseFault r t g q (.uncorrectableReg, 2) q.addr)) ∧
    (∀ u, exec (.softError (.uncorrectable u .none)) s = .next (s.suspect u 64)) ∧
    (∀ u team gid code v (t : Team) (g : Group), s.suspect u 64 = v → v.team? team = some t → t.group? gid = some g → g.ended = false → t.state = .resident →
      let at_ : HeldWork := .split { team := team, group := gid, split := ((g.live.head?.map (·.1)).getD 0) } 0
      (∃ trap : Trap, trap.cause = .uncorrectableReg ∧ trap.sub = 1 ∧ trap.reg = code ∧ trap.src = 6 ∧ trap.group = gid ∧
        exec (.softError (.uncorrectable u (.reg team gid code))) s = .next (v.takeFault trap team gid at_)) ∧
      (∃ trap : Trap, trap.cause = .uncorrectableScratch ∧ trap.sub = 1 ∧ trap.src = 6 ∧ trap.group = gid ∧
        exec (.softError (.uncorrectable u (.scratch team gid))) s = .next (v.takeFault trap team gid at_))) ∧
    (∀ u id addr v (l : Loop) (t : Team) (g : Group), s.suspect u 64 = v → v.loops.find? (fun l => l.id == id) = some l → v.runningLoop l = some (t, g) →
      exec (.softError (.uncorrectable u (.loop id addr))) s = .next (v.loopFault l t g (.uncorrectableScratch, 1) addr)) ∧
    (∀ u, unitExists u = true → (s.unitRec u).score ≤ 64 → (s.unitRec u).state = .service →
      exec (.suspicionDecay u) s = .next (if (s.unitRec u).score = 0 then s else s.setUnit { s.unitRec u with score := (s.unitRec u).score - 1 })) ∧
    (∀ n, (s.unitRec (.well n)).state = .drained →
      exec (.wellDrainTimeout (.well n)) s = .next (s.setUnit { s.unitRec (.well n) with state := .overdue })) ∧
    (∀ u pass, (s.unitRec u).state = .service ∨ (s.unitRec u).state = .removed → exec (.unitTest u pass) s = .next s) ∧
    (∀ u, (s.unitRec u).state = .drained ∨ (s.unitRec u).state = .overdue →
      exec (.unitTest u true) s = .next ((({ s with reports := s.reports ++ [0x100] } : State).setUnit
        { s.unitRec u with score := 0, state := .service }).deal dealFuel) ∧
      (let v : State := ({ s with reports := s.reports ++ [0x101] } : State).setUnit { s.unitRec u with state := .removed };
        (∀ n, u = .pump n → exec (.unitTest u false) s = .next v) ∧
        (∀ n, u = .core n → exec (.unitTest u false) s = .next (((s.core n).queue.foldl (fun w id => w.flushTeam id) v).deal dealFuel)) ∧
        ((∃ n, u = .well n) → ∃ w : State, exec (.unitTest u false) s = .next w ∧ w.accepting = false ∧
          ∀ id l, s.launch? id ≠ none → w.launch? id = some l → l.cancel ≠ none ∨ l.final ≠ none))) ∧
    (∀ (team : Nat) (t u : Team) (r q : Redundant) (a : Action), s.team? team = some t → t.red = some r → s.team? r.twin = some u → u.red = some q →
      r.closing = some a → q.closing = some (a.inTeam u.id) → r.granted = false → q.granted = false → r.copy = 0 →
      (signature (s.epochOps t.id) = signature (s.epochOps u.id) →
        ∃ v : State, exec (.epochCompare team) s = .next v ∧ SameBytes s v ∧
          (∀ o ∈ s.ops, (∀ x ∈ s.epochOps u.id, x.id ≠ o.id) → o.group?.map (·.1) = some t.id → { o with epoch := o.epoch - 1 } ∈ v.ops) ∧
          (∀ o ∈ v.ops, ∀ x ∈ s.epochOps u.id, x.id ≠ o.id) ∧
          (∃ t', v.team? team = some t' ∧ t'.red = some { r with granted := true }) ∧
          ∃ u', v.team? r.twin = some u' ∧ u'.red = some { q with granted := true }) ∧
      (signature (s.epochOps t.id) ≠ signature (s.epochOps u.id) → ∀ g, t.groups.find? (fun g => !g.ended) = some g →
        ∃ trap : Trap, trap.cause = .uncorrectableScratch ∧ trap.sub = 3 ∧ trap.src = 6 ∧ (∃ gid, exec (.epochCompare team) s =
          .next (s.takeFault trap team gid (.outcomeMap team))) ∧
          ∀ x h c, a = .lane x → t.group? x.group = some h → (vget h.clauses x.split.val []).head? = some c →
            trap.group = h.gid ∧ trap.spc = c.runPc ∧ trap.lpc = c.addr + BitVec.ofNat 64 (12 + 12 * c.next))) ∧
    (∀ o : MemOp, o.kind = .store → o.addr < 2 ^ 48 → 0 < o.size → o.addr % 32 + o.size ≤ 32 → o.data.length = o.size → (∀ d ∈ o.data, d.2 = 0xFF) →
      signature [o] = crc64 (natLe 6 (32 * (o.addr / 32)) ++ natLe 4 (2 ^ (o.addr % 32) * (2 ^ o.size - 1)) ++
        (List.replicate (o.addr % 32) 0 ++ o.data.map (fun d => d.1) ++ List.replicate (32 - o.addr % 32 - o.size) 0)) % 2 ^ 64)

/-- R366, R376, R380 to R384: RESET, the image that the boot ROM asks of BOOTNODE, the acceptance of firmware and its three errors, also of a later image, the stages of
bring-up, the power cap, the thermal steps and the thermal halt. The reports to management are the model's own (log entry 127).
Model's readings: log entries 121, 122, 125, 126, 128, 175. -/
def Obligations.Management : Prop :=
  ∀ (s : State),
    (∃ t : State, exec .reset s = .next t ∧ t.mem = s.mem ∧ t.teams = [] ∧ t.launches = [] ∧ t.ops = [] ∧ t.asids = [] ∧ t.accepting = false ∧
      t.node = 0 ∧ t.peersel = 0 ∧ t.winbase = 0 ∧ bits t.boot.toNat 7 0 = 1 ∧ bits t.boot.toNat 15 8 = 0 ∧ t.rollback = s.rollback) ∧
    (∀ image, 2 ≤ bits s.boot.toNat 7 0 →
      (∀ e, s.firmwareError image = some e → exec (.firmwareVerify image) s = .next { s with reports := s.reports ++ [0x200 + e] }) ∧
      (s.firmwareError image = none → ∃ t : State, exec (.firmwareVerify image) s = .next t ∧ t.boot = s.boot ∧ s.rollback ≤ t.rollback ∧
        t.rollback ≤ Nat.max s.rollback (firmwareOf image).rollback)) ∧
    (∀ image, bits s.boot.toNat 7 0 < 2 → ∃ t : State, exec (.firmwareVerify image) s = .next t ∧ t.links = 0xFFFFFFFF ∧
      t.sent = s.sent ++ [.image Config.bootNode.toNat] ∧
      (∀ e, s.firmwareError image = some e → e < 4 → bits t.boot.toNat 7 0 = 1 ∧ bits t.boot.toNat 15 8 = e ∧ t.rollback = s.rollback ∧
        t.reports = s.reports ++ [0x200 + e]) ∧
      (s.firmwareError image = none → bits t.boot.toNat 7 0 = 2 ∧ bits t.boot.toNat 15 8 = 0 ∧ s.rollback ≤ t.rollback)) ∧
    (∀ image, (image.length < 1536 → s.firmwareError image = some 1) ∧ (∀ e, s.firmwareError image = some e → e = 1 ∨ e = 2 ∨ e = 3)) ∧
    (∀ cfg : BringUpInput,
      let failed (word e : Nat) : State := { s with boot := BitVec.ofNat 32 word, reports := s.reports ++ [0x200 + e] }
      (s.boot ≠ 2 → s.boot ≠ 3 → s.boot ≠ 4 → s.boot ≠ 5 → exec (.bringUp cfg) s = .next s) ∧
      (s.boot = 2 → (cfg.memoryOk = false → exec (.bringUp cfg) s = .next (failed 0x403 4)) ∧
        (cfg.memoryOk = true → ∃ t : State, exec (.bringUp cfg) s = .next t ∧ t.boot = 3 ∧
          (∀ a, a < 2 ^ 47 ∨ 2 ^ 48 ≤ a → t.mem.read a = 0 ∧ ∀ d : Fin 5, (t.views[d]).read a = 0) ∧
          ∀ a, 2 ^ 47 ≤ a → a < 2 ^ 48 → t.mem.read a = s.mem.read a)) ∧
      (s.boot = 3 → ∃ t : State, exec (.bringUp cfg) s = .next t ∧ t.boot = 4 ∧ t.node.toNat = cfg.node % 2 ^ 18 ∧ t.mem = s.mem ∧
        (∀ p ∈ t.peers, p.state = .up ∧ p.node ≠ cfg.node % 2 ^ 18 ∧ p.links.length ≤ 4 ∧ ∀ k ∈ p.links, k < 32) ∧
        ∀ p ∈ cfg.peers, p.1 < 2 ^ 18 → p.1 ≠ cfg.node % 2 ^ 18 → (∃ k ∈ p.2, k < 32) → ∃ q ∈ t.peers, q.node = p.1 ∧ ∀ k ∈ q.links, k ∈ p.2) ∧
      (s.boot = 4 → (cfg.testOk = false → exec (.bringUp cfg) s = .next (failed 0x505 5)) ∧
        (cfg.testOk = true → exec (.bringUp cfg) s = .next { s with units := [], boot := 5 } ∧ ∀ u, (({ s with units := [] } : State).unitRec u).score = 0)) ∧
      (s.boot = 5 → exec (.bringUp cfg) s = .next { s with boot := 6, asids := [], accepting := true })) ∧
    (∀ watts, exec (.powerCap watts) s = .next (if 900 ≤ watts ∧ watts ≤ 1750 ∧ watts % 25 = 0 then { s with cap := watts } else s)) ∧
    exec (.thermalThrottle false) s = .next (if s.slower < 24 then { s with slower := s.slower + 1 } else s) ∧
    exec (.thermalThrottle true) s = .next { s with slower := s.slower - 1 } ∧
    (∃ t : State, exec .thermalHalt s = .next t ∧ t.boot &&& 0xFF = s.boot &&& 0xFF ∧ t.mem = s.mem ∧ t.reports = s.reports ++ [0x300] ∧
      ∀ a ∈ s.asids, a.id ∈ t.halted)

/-- R7, R176, R187, R229, the model's invariant of its memories: a step keeps the canonical form of every memory (log entry 11). -/
def Obligations.StepKeepsMemories : Prop :=
  ∀ s t : State, s.memoriesWf = true → step s = .next t → t.memoriesWf = true

/-- R366, R376, R384: no step puts into NODE, PEERSEL, WINBASE or the power cap a value that the register cannot hold. Model's readings: log entry 128. -/
def Obligations.StepKeepsRegisters : Prop :=
  ∀ s t : State, s.registersLegal = true → step s = .next t → t.registersLegal = true

/-- R254, R376, R380, R383: after reset no ASID's register holds anything, nothing is resident, queued or in flight, launches are not accepted, NODE, BOOT,
PEERSEL and WINBASE are zero, the applied vectors are level, and both invariants hold. Model's readings: log entry 145. -/
def Obligations.ResetState : Prop :=
  State.reset.memoriesWf = true ∧ State.reset.registersLegal = true ∧ State.reset.teams = [] ∧ State.reset.launches = [] ∧ State.reset.ops = [] ∧
  State.reset.cmds = [] ∧ State.reset.held = [] ∧ State.reset.accepting = false ∧ State.reset.barOpen = false ∧
  (State.reset.registerRead 0x008 = 0 ∧ State.reset.registerRead 0x010 = 0 ∧ State.reset.registerRead 0x018 = 0 ∧ State.reset.registerRead 0x020 = 0 ∧
    State.reset.registerRead 0x000 = 0x5A4B0192) ∧
  (∀ asid off, State.reset.registerRead (0x10000 + 4096 * asid + off % 4096) = 0) ∧
  (∀ d h : Fin 5, (State.reset.vectors[d])[h] = 0) ∧ (∀ core, State.reset.cycleOf core = 0)
end

