-- ==== Sys2Proof/Laws/State.lean ====
section
/-! SUPPORT. One lemma per field of State per update that leaves it alone. -/

namespace Sys2Proof.Machine

@[simp] theorem State.modTeam_agenda (s : State) (id : Nat) (f : Team → Team) : (s.modTeam id f).agenda = s.agenda := rfl
@[simp] theorem State.modTeam_focus (s : State) (id : Nat) (f : Team → Team) : (s.modTeam id f).focus = s.focus := rfl
@[simp] theorem State.modTeam_fresh (s : State) (id : Nat) (f : Team → Team) : (s.modTeam id f).fresh = s.fresh := rfl
@[simp] theorem State.modTeam_choice (s : State) (id : Nat) (f : Team → Team) : (s.modTeam id f).choice = s.choice := rfl
@[simp] theorem State.modTeam_mem (s : State) (id : Nat) (f : Team → Team) : (s.modTeam id f).mem = s.mem := rfl
@[simp] theorem State.modTeam_views (s : State) (id : Nat) (f : Team → Team) : (s.modTeam id f).views = s.views := rfl
@[simp] theorem State.modTeam_vectors (s : State) (id : Nat) (f : Team → Team) : (s.modTeam id f).vectors = s.vectors := rfl
@[simp] theorem State.modTeam_ops (s : State) (id : Nat) (f : Team → Team) : (s.modTeam id f).ops = s.ops := rfl
@[simp] theorem State.modTeam_late (s : State) (id : Nat) (f : Team → Team) : (s.modTeam id f).late = s.late := rfl
@[simp] theorem State.modTeam_launches (s : State) (id : Nat) (f : Team → Team) : (s.modTeam id f).launches = s.launches := rfl
@[simp] theorem State.modTeam_cores (s : State) (id : Nat) (f : Team → Team) : (s.modTeam id f).cores = s.cores := rfl
@[simp] theorem State.modTeam_loops (s : State) (id : Nat) (f : Team → Team) : (s.modTeam id f).loops = s.loops := rfl
@[simp] theorem State.modTeam_cmds (s : State) (id : Nat) (f : Team → Team) : (s.modTeam id f).cmds = s.cmds := rfl
@[simp] theorem State.modTeam_fetches (s : State) (id : Nat) (f : Team → Team) : (s.modTeam id f).fetches = s.fetches := rfl
@[simp] theorem State.modTeam_held (s : State) (id : Nat) (f : Team → Team) : (s.modTeam id f).held = s.held := rfl
@[simp] theorem State.modTeam_asids (s : State) (id : Nat) (f : Team → Team) : (s.modTeam id f).asids = s.asids := rfl
@[simp] theorem State.modTeam_kicks (s : State) (id : Nat) (f : Team → Team) : (s.modTeam id f).kicks = s.kicks := rfl
@[simp] theorem State.modTeam_chunks (s : State) (id : Nat) (f : Team → Team) : (s.modTeam id f).chunks = s.chunks := rfl
@[simp] theorem State.modTeam_notices (s : State) (id : Nat) (f : Team → Team) : (s.modTeam id f).notices = s.notices := rfl
@[simp] theorem State.modTeam_sent (s : State) (id : Nat) (f : Team → Team) : (s.modTeam id f).sent = s.sent := rfl
@[simp] theorem State.modTeam_msix (s : State) (id : Nat) (f : Team → Team) : (s.modTeam id f).msix = s.msix := rfl
@[simp] theorem State.modTeam_hostReads (s : State) (id : Nat) (f : Team → Team) : (s.modTeam id f).hostReads = s.hostReads := rfl
@[simp] theorem State.modTeam_peers (s : State) (id : Nat) (f : Team → Team) : (s.modTeam id f).peers = s.peers := rfl
@[simp] theorem State.modTeam_links (s : State) (id : Nat) (f : Team → Team) : (s.modTeam id f).links = s.links := rfl
@[simp] theorem State.modTeam_units (s : State) (id : Nat) (f : Team → Team) : (s.modTeam id f).units = s.units := rfl
@[simp] theorem State.modTeam_nextLaunch (s : State) (id : Nat) (f : Team → Team) : (s.modTeam id f).nextLaunch = s.nextLaunch := rfl
@[simp] theorem State.modTeam_dieTurn (s : State) (id : Nat) (f : Team → Team) : (s.modTeam id f).dieTurn = s.dieTurn := rfl
@[simp] theorem State.modTeam_clusterTurn (s : State) (id : Nat) (f : Team → Team) : (s.modTeam id f).clusterTurn = s.clusterTurn := rfl
@[simp] theorem State.modTeam_halted (s : State) (id : Nat) (f : Team → Team) : (s.modTeam id f).halted = s.halted := rfl
@[simp] theorem State.modTeam_accepting (s : State) (id : Nat) (f : Team → Team) : (s.modTeam id f).accepting = s.accepting := rfl
@[simp] theorem State.modTeam_node (s : State) (id : Nat) (f : Team → Team) : (s.modTeam id f).node = s.node := rfl
@[simp] theorem State.modTeam_boot (s : State) (id : Nat) (f : Team → Team) : (s.modTeam id f).boot = s.boot := rfl
@[simp] theorem State.modTeam_peersel (s : State) (id : Nat) (f : Team → Team) : (s.modTeam id f).peersel = s.peersel := rfl
@[simp] theorem State.modTeam_winbase (s : State) (id : Nat) (f : Team → Team) : (s.modTeam id f).winbase = s.winbase := rfl
@[simp] theorem State.modTeam_recovery (s : State) (id : Nat) (f : Team → Team) : (s.modTeam id f).recovery = s.recovery := rfl
@[simp] theorem State.modTeam_rollback (s : State) (id : Nat) (f : Team → Team) : (s.modTeam id f).rollback = s.rollback := rfl
@[simp] theorem State.modTeam_cap (s : State) (id : Nat) (f : Team → Team) : (s.modTeam id f).cap = s.cap := rfl
@[simp] theorem State.modTeam_slower (s : State) (id : Nat) (f : Team → Team) : (s.modTeam id f).slower = s.slower := rfl
@[simp] theorem State.modTeam_reports (s : State) (id : Nat) (f : Team → Team) : (s.modTeam id f).reports = s.reports := rfl

@[simp] theorem State.modGroup_agenda (s : State) (team gid : Nat) (f : Group → Group) : (s.modGroup team gid f).agenda = s.agenda := rfl
@[simp] theorem State.modGroup_focus (s : State) (team gid : Nat) (f : Group → Group) : (s.modGroup team gid f).focus = s.focus := rfl
@[simp] theorem State.modGroup_fresh (s : State) (team gid : Nat) (f : Group → Group) : (s.modGroup team gid f).fresh = s.fresh := rfl
@[simp] theorem State.modGroup_choice (s : State) (team gid : Nat) (f : Group → Group) : (s.modGroup team gid f).choice = s.choice := rfl
@[simp] theorem State.modGroup_mem (s : State) (team gid : Nat) (f : Group → Group) : (s.modGroup team gid f).mem = s.mem := rfl
@[simp] theorem State.modGroup_views (s : State) (team gid : Nat) (f : Group → Group) : (s.modGroup team gid f).views = s.views := rfl
@[simp] theorem State.modGroup_vectors (s : State) (team gid : Nat) (f : Group → Group) : (s.modGroup team gid f).vectors = s.vectors := rfl
@[simp] theorem State.modGroup_ops (s : State) (team gid : Nat) (f : Group → Group) : (s.modGroup team gid f).ops = s.ops := rfl
@[simp] theorem State.modGroup_late (s : State) (team gid : Nat) (f : Group → Group) : (s.modGroup team gid f).late = s.late := rfl
@[simp] theorem State.modGroup_launches (s : State) (team gid : Nat) (f : Group → Group) : (s.modGroup team gid f).launches = s.launches := rfl
@[simp] theorem State.modGroup_cores (s : State) (team gid : Nat) (f : Group → Group) : (s.modGroup team gid f).cores = s.cores := rfl
@[simp] theorem State.modGroup_loops (s : State) (team gid : Nat) (f : Group → Group) : (s.modGroup team gid f).loops = s.loops := rfl
@[simp] theorem State.modGroup_cmds (s : State) (team gid : Nat) (f : Group → Group) : (s.modGroup team gid f).cmds = s.cmds := rfl
@[simp] theorem State.modGroup_fetches (s : State) (team gid : Nat) (f : Group → Group) : (s.modGroup team gid f).fetches = s.fetches := rfl
@[simp] theorem State.modGroup_held (s : State) (team gid : Nat) (f : Group → Group) : (s.modGroup team gid f).held = s.held := rfl
@[simp] theorem State.modGroup_asids (s : State) (team gid : Nat) (f : Group → Group) : (s.modGroup team gid f).asids = s.asids := rfl
@[simp] theorem State.modGroup_kicks (s : State) (team gid : Nat) (f : Group → Group) : (s.modGroup team gid f).kicks = s.kicks := rfl
@[simp] theorem State.modGroup_chunks (s : State) (team gid : Nat) (f : Group → Group) : (s.modGroup team gid f).chunks = s.chunks := rfl
@[simp] theorem State.modGroup_notices (s : State) (team gid : Nat) (f : Group → Group) : (s.modGroup team gid f).notices = s.notices := rfl
@[simp] theorem State.modGroup_sent (s : State) (team gid : Nat) (f : Group → Group) : (s.modGroup team gid f).sent = s.sent := rfl
@[simp] theorem State.modGroup_msix (s : State) (team gid : Nat) (f : Group → Group) : (s.modGroup team gid f).msix = s.msix := rfl
@[simp] theorem State.modGroup_hostReads (s : State) (team gid : Nat) (f : Group → Group) : (s.modGroup team gid f).hostReads = s.hostReads := rfl
@[simp] theorem State.modGroup_peers (s : State) (team gid : Nat) (f : Group → Group) : (s.modGroup team gid f).peers = s.peers := rfl
@[simp] theorem State.modGroup_links (s : State) (team gid : Nat) (f : Group → Group) : (s.modGroup team gid f).links = s.links := rfl
@[simp] theorem State.modGroup_units (s : State) (team gid : Nat) (f : Group → Group) : (s.modGroup team gid f).units = s.units := rfl
@[simp] theorem State.modGroup_nextLaunch (s : State) (team gid : Nat) (f : Group → Group) : (s.modGroup team gid f).nextLaunch = s.nextLaunch := rfl
@[simp] theorem State.modGroup_dieTurn (s : State) (team gid : Nat) (f : Group → Group) : (s.modGroup team gid f).dieTurn = s.dieTurn := rfl
@[simp] theorem State.modGroup_clusterTurn (s : State) (team gid : Nat) (f : Group → Group) : (s.modGroup team gid f).clusterTurn = s.clusterTurn := rfl
@[simp] theorem State.modGroup_halted (s : State) (team gid : Nat) (f : Group → Group) : (s.modGroup team gid f).halted = s.halted := rfl
@[simp] theorem State.modGroup_accepting (s : State) (team gid : Nat) (f : Group → Group) : (s.modGroup team gid f).accepting = s.accepting := rfl
@[simp] theorem State.modGroup_node (s : State) (team gid : Nat) (f : Group → Group) : (s.modGroup team gid f).node = s.node := rfl
@[simp] theorem State.modGroup_boot (s : State) (team gid : Nat) (f : Group → Group) : (s.modGroup team gid f).boot = s.boot := rfl
@[simp] theorem State.modGroup_peersel (s : State) (team gid : Nat) (f : Group → Group) : (s.modGroup team gid f).peersel = s.peersel := rfl
@[simp] theorem State.modGroup_winbase (s : State) (team gid : Nat) (f : Group → Group) : (s.modGroup team gid f).winbase = s.winbase := rfl
@[simp] theorem State.modGroup_recovery (s : State) (team gid : Nat) (f : Group → Group) : (s.modGroup team gid f).recovery = s.recovery := rfl
@[simp] theorem State.modGroup_rollback (s : State) (team gid : Nat) (f : Group → Group) : (s.modGroup team gid f).rollback = s.rollback := rfl
@[simp] theorem State.modGroup_cap (s : State) (team gid : Nat) (f : Group → Group) : (s.modGroup team gid f).cap = s.cap := rfl
@[simp] theorem State.modGroup_slower (s : State) (team gid : Nat) (f : Group → Group) : (s.modGroup team gid f).slower = s.slower := rfl
@[simp] theorem State.modGroup_reports (s : State) (team gid : Nat) (f : Group → Group) : (s.modGroup team gid f).reports = s.reports := rfl

@[simp] theorem State.modSplit_agenda (s : State) (r : SplitRef) (f : Split → Split) : (s.modSplit r f).agenda = s.agenda := rfl
@[simp] theorem State.modSplit_focus (s : State) (r : SplitRef) (f : Split → Split) : (s.modSplit r f).focus = s.focus := rfl
@[simp] theorem State.modSplit_fresh (s : State) (r : SplitRef) (f : Split → Split) : (s.modSplit r f).fresh = s.fresh := rfl
@[simp] theorem State.modSplit_choice (s : State) (r : SplitRef) (f : Split → Split) : (s.modSplit r f).choice = s.choice := rfl
@[simp] theorem State.modSplit_mem (s : State) (r : SplitRef) (f : Split → Split) : (s.modSplit r f).mem = s.mem := rfl
@[simp] theorem State.modSplit_views (s : State) (r : SplitRef) (f : Split → Split) : (s.modSplit r f).views = s.views := rfl
@[simp] theorem State.modSplit_vectors (s : State) (r : SplitRef) (f : Split → Split) : (s.modSplit r f).vectors = s.vectors := rfl
@[simp] theorem State.modSplit_ops (s : State) (r : SplitRef) (f : Split → Split) : (s.modSplit r f).ops = s.ops := rfl
@[simp] theorem State.modSplit_late (s : State) (r : SplitRef) (f : Split → Split) : (s.modSplit r f).late = s.late := rfl
@[simp] theorem State.modSplit_launches (s : State) (r : SplitRef) (f : Split → Split) : (s.modSplit r f).launches = s.launches := rfl
@[simp] theorem State.modSplit_cores (s : State) (r : SplitRef) (f : Split → Split) : (s.modSplit r f).cores = s.cores := rfl
@[simp] theorem State.modSplit_loops (s : State) (r : SplitRef) (f : Split → Split) : (s.modSplit r f).loops = s.loops := rfl
@[simp] theorem State.modSplit_cmds (s : State) (r : SplitRef) (f : Split → Split) : (s.modSplit r f).cmds = s.cmds := rfl
@[simp] theorem State.modSplit_fetches (s : State) (r : SplitRef) (f : Split → Split) : (s.modSplit r f).fetches = s.fetches := rfl
@[simp] theorem State.modSplit_held (s : State) (r : SplitRef) (f : Split → Split) : (s.modSplit r f).held = s.held := rfl
@[simp] theorem State.modSplit_asids (s : State) (r : SplitRef) (f : Split → Split) : (s.modSplit r f).asids = s.asids := rfl
@[simp] theorem State.modSplit_kicks (s : State) (r : SplitRef) (f : Split → Split) : (s.modSplit r f).kicks = s.kicks := rfl
@[simp] theorem State.modSplit_chunks (s : State) (r : SplitRef) (f : Split → Split) : (s.modSplit r f).chunks = s.chunks := rfl
@[simp] theorem State.modSplit_notices (s : State) (r : SplitRef) (f : Split → Split) : (s.modSplit r f).notices = s.notices := rfl
@[simp] theorem State.modSplit_sent (s : State) (r : SplitRef) (f : Split → Split) : (s.modSplit r f).sent = s.sent := rfl
@[simp] theorem State.modSplit_msix (s : State) (r : SplitRef) (f : Split → Split) : (s.modSplit r f).msix = s.msix := rfl
@[simp] theorem State.modSplit_hostReads (s : State) (r : SplitRef) (f : Split → Split) : (s.modSplit r f).hostReads = s.hostReads := rfl
@[simp] theorem State.modSplit_peers (s : State) (r : SplitRef) (f : Split → Split) : (s.modSplit r f).peers = s.peers := rfl
@[simp] theorem State.modSplit_links (s : State) (r : SplitRef) (f : Split → Split) : (s.modSplit r f).links = s.links := rfl
@[simp] theorem State.modSplit_units (s : State) (r : SplitRef) (f : Split → Split) : (s.modSplit r f).units = s.units := rfl
@[simp] theorem State.modSplit_nextLaunch (s : State) (r : SplitRef) (f : Split → Split) : (s.modSplit r f).nextLaunch = s.nextLaunch := rfl
@[simp] theorem State.modSplit_dieTurn (s : State) (r : SplitRef) (f : Split → Split) : (s.modSplit r f).dieTurn = s.dieTurn := rfl
@[simp] theorem State.modSplit_clusterTurn (s : State) (r : SplitRef) (f : Split → Split) : (s.modSplit r f).clusterTurn = s.clusterTurn := rfl
@[simp] theorem State.modSplit_halted (s : State) (r : SplitRef) (f : Split → Split) : (s.modSplit r f).halted = s.halted := rfl
@[simp] theorem State.modSplit_accepting (s : State) (r : SplitRef) (f : Split → Split) : (s.modSplit r f).accepting = s.accepting := rfl
@[simp] theorem State.modSplit_node (s : State) (r : SplitRef) (f : Split → Split) : (s.modSplit r f).node = s.node := rfl
@[simp] theorem State.modSplit_boot (s : State) (r : SplitRef) (f : Split → Split) : (s.modSplit r f).boot = s.boot := rfl
@[simp] theorem State.modSplit_peersel (s : State) (r : SplitRef) (f : Split → Split) : (s.modSplit r f).peersel = s.peersel := rfl
@[simp] theorem State.modSplit_winbase (s : State) (r : SplitRef) (f : Split → Split) : (s.modSplit r f).winbase = s.winbase := rfl
@[simp] theorem State.modSplit_recovery (s : State) (r : SplitRef) (f : Split → Split) : (s.modSplit r f).recovery = s.recovery := rfl
@[simp] theorem State.modSplit_rollback (s : State) (r : SplitRef) (f : Split → Split) : (s.modSplit r f).rollback = s.rollback := rfl
@[simp] theorem State.modSplit_cap (s : State) (r : SplitRef) (f : Split → Split) : (s.modSplit r f).cap = s.cap := rfl
@[simp] theorem State.modSplit_slower (s : State) (r : SplitRef) (f : Split → Split) : (s.modSplit r f).slower = s.slower := rfl
@[simp] theorem State.modSplit_reports (s : State) (r : SplitRef) (f : Split → Split) : (s.modSplit r f).reports = s.reports := rfl

@[simp] theorem State.modLaunch_agenda (s : State) (id : Nat) (f : Launch → Launch) : (s.modLaunch id f).agenda = s.agenda := rfl
@[simp] theorem State.modLaunch_focus (s : State) (id : Nat) (f : Launch → Launch) : (s.modLaunch id f).focus = s.focus := rfl
@[simp] theorem State.modLaunch_fresh (s : State) (id : Nat) (f : Launch → Launch) : (s.modLaunch id f).fresh = s.fresh := rfl
@[simp] theorem State.modLaunch_choice (s : State) (id : Nat) (f : Launch → Launch) : (s.modLaunch id f).choice = s.choice := rfl
@[simp] theorem State.modLaunch_mem (s : State) (id : Nat) (f : Launch → Launch) : (s.modLaunch id f).mem = s.mem := rfl
@[simp] theorem State.modLaunch_views (s : State) (id : Nat) (f : Launch → Launch) : (s.modLaunch id f).views = s.views := rfl
@[simp] theorem State.modLaunch_vectors (s : State) (id : Nat) (f : Launch → Launch) : (s.modLaunch id f).vectors = s.vectors := rfl
@[simp] theorem State.modLaunch_ops (s : State) (id : Nat) (f : Launch → Launch) : (s.modLaunch id f).ops = s.ops := rfl
@[simp] theorem State.modLaunch_late (s : State) (id : Nat) (f : Launch → Launch) : (s.modLaunch id f).late = s.late := rfl
@[simp] theorem State.modLaunch_teams (s : State) (id : Nat) (f : Launch → Launch) : (s.modLaunch id f).teams = s.teams := rfl
@[simp] theorem State.modLaunch_cores (s : State) (id : Nat) (f : Launch → Launch) : (s.modLaunch id f).cores = s.cores := rfl
@[simp] theorem State.modLaunch_loops (s : State) (id : Nat) (f : Launch → Launch) : (s.modLaunch id f).loops = s.loops := rfl
@[simp] theorem State.modLaunch_cmds (s : State) (id : Nat) (f : Launch → Launch) : (s.modLaunch id f).cmds = s.cmds := rfl
@[simp] theorem State.modLaunch_fetches (s : State) (id : Nat) (f : Launch → Launch) : (s.modLaunch id f).fetches = s.fetches := rfl
@[simp] theorem State.modLaunch_held (s : State) (id : Nat) (f : Launch → Launch) : (s.modLaunch id f).held = s.held := rfl
@[simp] theorem State.modLaunch_asids (s : State) (id : Nat) (f : Launch → Launch) : (s.modLaunch id f).asids = s.asids := rfl
@[simp] theorem State.modLaunch_kicks (s : State) (id : Nat) (f : Launch → Launch) : (s.modLaunch id f).kicks = s.kicks := rfl
@[simp] theorem State.modLaunch_chunks (s : State) (id : Nat) (f : Launch → Launch) : (s.modLaunch id f).chunks = s.chunks := rfl
@[simp] theorem State.modLaunch_notices (s : State) (id : Nat) (f : Launch → Launch) : (s.modLaunch id f).notices = s.notices := rfl
@[simp] theorem State.modLaunch_sent (s : State) (id : Nat) (f : Launch → Launch) : (s.modLaunch id f).sent = s.sent := rfl
@[simp] theorem State.modLaunch_msix (s : State) (id : Nat) (f : Launch → Launch) : (s.modLaunch id f).msix = s.msix := rfl
@[simp] theorem State.modLaunch_hostReads (s : State) (id : Nat) (f : Launch → Launch) : (s.modLaunch id f).hostReads = s.hostReads := rfl
@[simp] theorem State.modLaunch_peers (s : State) (id : Nat) (f : Launch → Launch) : (s.modLaunch id f).peers = s.peers := rfl
@[simp] theorem State.modLaunch_links (s : State) (id : Nat) (f : Launch → Launch) : (s.modLaunch id f).links = s.links := rfl
@[simp] theorem State.modLaunch_units (s : State) (id : Nat) (f : Launch → Launch) : (s.modLaunch id f).units = s.units := rfl
@[simp] theorem State.modLaunch_nextLaunch (s : State) (id : Nat) (f : Launch → Launch) : (s.modLaunch id f).nextLaunch = s.nextLaunch := rfl
@[simp] theorem State.modLaunch_dieTurn (s : State) (id : Nat) (f : Launch → Launch) : (s.modLaunch id f).dieTurn = s.dieTurn := rfl
@[simp] theorem State.modLaunch_clusterTurn (s : State) (id : Nat) (f : Launch → Launch) : (s.modLaunch id f).clusterTurn = s.clusterTurn := rfl
@[simp] theorem State.modLaunch_halted (s : State) (id : Nat) (f : Launch → Launch) : (s.modLaunch id f).halted = s.halted := rfl
@[simp] theorem State.modLaunch_accepting (s : State) (id : Nat) (f : Launch → Launch) : (s.modLaunch id f).accepting = s.accepting := rfl
@[simp] theorem State.modLaunch_node (s : State) (id : Nat) (f : Launch → Launch) : (s.modLaunch id f).node = s.node := rfl
@[simp] theorem State.modLaunch_boot (s : State) (id : Nat) (f : Launch → Launch) : (s.modLaunch id f).boot = s.boot := rfl
@[simp] theorem State.modLaunch_peersel (s : State) (id : Nat) (f : Launch → Launch) : (s.modLaunch id f).peersel = s.peersel := rfl
@[simp] theorem State.modLaunch_winbase (s : State) (id : Nat) (f : Launch → Launch) : (s.modLaunch id f).winbase = s.winbase := rfl
@[simp] theorem State.modLaunch_recovery (s : State) (id : Nat) (f : Launch → Launch) : (s.modLaunch id f).recovery = s.recovery := rfl
@[simp] theorem State.modLaunch_rollback (s : State) (id : Nat) (f : Launch → Launch) : (s.modLaunch id f).rollback = s.rollback := rfl
@[simp] theorem State.modLaunch_cap (s : State) (id : Nat) (f : Launch → Launch) : (s.modLaunch id f).cap = s.cap := rfl
@[simp] theorem State.modLaunch_slower (s : State) (id : Nat) (f : Launch → Launch) : (s.modLaunch id f).slower = s.slower := rfl
@[simp] theorem State.modLaunch_reports (s : State) (id : Nat) (f : Launch → Launch) : (s.modLaunch id f).reports = s.reports := rfl

@[simp] theorem State.modCmd_agenda (s : State) (id : Nat) (f : Cmd → Cmd) : (s.modCmd id f).agenda = s.agenda := rfl
@[simp] theorem State.modCmd_focus (s : State) (id : Nat) (f : Cmd → Cmd) : (s.modCmd id f).focus = s.focus := rfl
@[simp] theorem State.modCmd_fresh (s : State) (id : Nat) (f : Cmd → Cmd) : (s.modCmd id f).fresh = s.fresh := rfl
@[simp] theorem State.modCmd_choice (s : State) (id : Nat) (f : Cmd → Cmd) : (s.modCmd id f).choice = s.choice := rfl
@[simp] theorem State.modCmd_mem (s : State) (id : Nat) (f : Cmd → Cmd) : (s.modCmd id f).mem = s.mem := rfl
@[simp] theorem State.modCmd_views (s : State) (id : Nat) (f : Cmd → Cmd) : (s.modCmd id f).views = s.views := rfl
@[simp] theorem State.modCmd_vectors (s : State) (id : Nat) (f : Cmd → Cmd) : (s.modCmd id f).vectors = s.vectors := rfl
@[simp] theorem State.modCmd_ops (s : State) (id : Nat) (f : Cmd → Cmd) : (s.modCmd id f).ops = s.ops := rfl
@[simp] theorem State.modCmd_late (s : State) (id : Nat) (f : Cmd → Cmd) : (s.modCmd id f).late = s.late := rfl
@[simp] theorem State.modCmd_teams (s : State) (id : Nat) (f : Cmd → Cmd) : (s.modCmd id f).teams = s.teams := rfl
@[simp] theorem State.modCmd_launches (s : State) (id : Nat) (f : Cmd → Cmd) : (s.modCmd id f).launches = s.launches := rfl
@[simp] theorem State.modCmd_cores (s : State) (id : Nat) (f : Cmd → Cmd) : (s.modCmd id f).cores = s.cores := rfl
@[simp] theorem State.modCmd_loops (s : State) (id : Nat) (f : Cmd → Cmd) : (s.modCmd id f).loops = s.loops := rfl
@[simp] theorem State.modCmd_fetches (s : State) (id : Nat) (f : Cmd → Cmd) : (s.modCmd id f).fetches = s.fetches := rfl
@[simp] theorem State.modCmd_held (s : State) (id : Nat) (f : Cmd → Cmd) : (s.modCmd id f).held = s.held := rfl
@[simp] theorem State.modCmd_asids (s : State) (id : Nat) (f : Cmd → Cmd) : (s.modCmd id f).asids = s.asids := rfl
@[simp] theorem State.modCmd_kicks (s : State) (id : Nat) (f : Cmd → Cmd) : (s.modCmd id f).kicks = s.kicks := rfl
@[simp] theorem State.modCmd_chunks (s : State) (id : Nat) (f : Cmd → Cmd) : (s.modCmd id f).chunks = s.chunks := rfl
@[simp] theorem State.modCmd_notices (s : State) (id : Nat) (f : Cmd → Cmd) : (s.modCmd id f).notices = s.notices := rfl
@[simp] theorem State.modCmd_sent (s : State) (id : Nat) (f : Cmd → Cmd) : (s.modCmd id f).sent = s.sent := rfl
@[simp] theorem State.modCmd_msix (s : State) (id : Nat) (f : Cmd → Cmd) : (s.modCmd id f).msix = s.msix := rfl
@[simp] theorem State.modCmd_hostReads (s : State) (id : Nat) (f : Cmd → Cmd) : (s.modCmd id f).hostReads = s.hostReads := rfl
@[simp] theorem State.modCmd_peers (s : State) (id : Nat) (f : Cmd → Cmd) : (s.modCmd id f).peers = s.peers := rfl
@[simp] theorem State.modCmd_links (s : State) (id : Nat) (f : Cmd → Cmd) : (s.modCmd id f).links = s.links := rfl
@[simp] theorem State.modCmd_units (s : State) (id : Nat) (f : Cmd → Cmd) : (s.modCmd id f).units = s.units := rfl
@[simp] theorem State.modCmd_nextLaunch (s : State) (id : Nat) (f : Cmd → Cmd) : (s.modCmd id f).nextLaunch = s.nextLaunch := rfl
@[simp] theorem State.modCmd_dieTurn (s : State) (id : Nat) (f : Cmd → Cmd) : (s.modCmd id f).dieTurn = s.dieTurn := rfl
@[simp] theorem State.modCmd_clusterTurn (s : State) (id : Nat) (f : Cmd → Cmd) : (s.modCmd id f).clusterTurn = s.clusterTurn := rfl
@[simp] theorem State.modCmd_halted (s : State) (id : Nat) (f : Cmd → Cmd) : (s.modCmd id f).halted = s.halted := rfl
@[simp] theorem State.modCmd_accepting (s : State) (id : Nat) (f : Cmd → Cmd) : (s.modCmd id f).accepting = s.accepting := rfl
@[simp] theorem State.modCmd_node (s : State) (id : Nat) (f : Cmd → Cmd) : (s.modCmd id f).node = s.node := rfl
@[simp] theorem State.modCmd_boot (s : State) (id : Nat) (f : Cmd → Cmd) : (s.modCmd id f).boot = s.boot := rfl
@[simp] theorem State.modCmd_peersel (s : State) (id : Nat) (f : Cmd → Cmd) : (s.modCmd id f).peersel = s.peersel := rfl
@[simp] theorem State.modCmd_winbase (s : State) (id : Nat) (f : Cmd → Cmd) : (s.modCmd id f).winbase = s.winbase := rfl
@[simp] theorem State.modCmd_recovery (s : State) (id : Nat) (f : Cmd → Cmd) : (s.modCmd id f).recovery = s.recovery := rfl
@[simp] theorem State.modCmd_rollback (s : State) (id : Nat) (f : Cmd → Cmd) : (s.modCmd id f).rollback = s.rollback := rfl
@[simp] theorem State.modCmd_cap (s : State) (id : Nat) (f : Cmd → Cmd) : (s.modCmd id f).cap = s.cap := rfl
@[simp] theorem State.modCmd_slower (s : State) (id : Nat) (f : Cmd → Cmd) : (s.modCmd id f).slower = s.slower := rfl
@[simp] theorem State.modCmd_reports (s : State) (id : Nat) (f : Cmd → Cmd) : (s.modCmd id f).reports = s.reports := rfl

@[simp] theorem State.setAsid_agenda (s : State) (a : Asid) : (s.setAsid a).agenda = s.agenda := rfl
@[simp] theorem State.setAsid_focus (s : State) (a : Asid) : (s.setAsid a).focus = s.focus := rfl
@[simp] theorem State.setAsid_fresh (s : State) (a : Asid) : (s.setAsid a).fresh = s.fresh := rfl
@[simp] theorem State.setAsid_choice (s : State) (a : Asid) : (s.setAsid a).choice = s.choice := rfl
@[simp] theorem State.setAsid_mem (s : State) (a : Asid) : (s.setAsid a).mem = s.mem := rfl
@[simp] theorem State.setAsid_views (s : State) (a : Asid) : (s.setAsid a).views = s.views := rfl
@[simp] theorem State.setAsid_vectors (s : State) (a : Asid) : (s.setAsid a).vectors = s.vectors := rfl
@[simp] theorem State.setAsid_ops (s : State) (a : Asid) : (s.setAsid a).ops = s.ops := rfl
@[simp] theorem State.setAsid_late (s : State) (a : Asid) : (s.setAsid a).late = s.late := rfl
@[simp] theorem State.setAsid_teams (s : State) (a : Asid) : (s.setAsid a).teams = s.teams := rfl
@[simp] theorem State.setAsid_launches (s : State) (a : Asid) : (s.setAsid a).launches = s.launches := rfl
@[simp] theorem State.setAsid_cores (s : State) (a : Asid) : (s.setAsid a).cores = s.cores := rfl
@[simp] theorem State.setAsid_loops (s : State) (a : Asid) : (s.setAsid a).loops = s.loops := rfl
@[simp] theorem State.setAsid_cmds (s : State) (a : Asid) : (s.setAsid a).cmds = s.cmds := rfl
@[simp] theorem State.setAsid_fetches (s : State) (a : Asid) : (s.setAsid a).fetches = s.fetches := rfl
@[simp] theorem State.setAsid_held (s : State) (a : Asid) : (s.setAsid a).held = s.held := rfl
@[simp] theorem State.setAsid_kicks (s : State) (a : Asid) : (s.setAsid a).kicks = s.kicks := rfl
@[simp] theorem State.setAsid_chunks (s : State) (a : Asid) : (s.setAsid a).chunks = s.chunks := rfl
@[simp] theorem State.setAsid_notices (s : State) (a : Asid) : (s.setAsid a).notices = s.notices := rfl
@[simp] theorem State.setAsid_sent (s : State) (a : Asid) : (s.setAsid a).sent = s.sent := rfl
@[simp] theorem State.setAsid_msix (s : State) (a : Asid) : (s.setAsid a).msix = s.msix := rfl
@[simp] theorem State.setAsid_hostReads (s : State) (a : Asid) : (s.setAsid a).hostReads = s.hostReads := rfl
@[simp] theorem State.setAsid_peers (s : State) (a : Asid) : (s.setAsid a).peers = s.peers := rfl
@[simp] theorem State.setAsid_links (s : State) (a : Asid) : (s.setAsid a).links = s.links := rfl
@[simp] theorem State.setAsid_units (s : State) (a : Asid) : (s.setAsid a).units = s.units := rfl
@[simp] theorem State.setAsid_nextLaunch (s : State) (a : Asid) : (s.setAsid a).nextLaunch = s.nextLaunch := rfl
@[simp] theorem State.setAsid_dieTurn (s : State) (a : Asid) : (s.setAsid a).dieTurn = s.dieTurn := rfl
@[simp] theorem State.setAsid_clusterTurn (s : State) (a : Asid) : (s.setAsid a).clusterTurn = s.clusterTurn := rfl
@[simp] theorem State.setAsid_halted (s : State) (a : Asid) : (s.setAsid a).halted = s.halted := rfl
@[simp] theorem State.setAsid_accepting (s : State) (a : Asid) : (s.setAsid a).accepting = s.accepting := rfl
@[simp] theorem State.setAsid_node (s : State) (a : Asid) : (s.setAsid a).node = s.node := rfl
@[simp] theorem State.setAsid_boot (s : State) (a : Asid) : (s.setAsid a).boot = s.boot := rfl
@[simp] theorem State.setAsid_peersel (s : State) (a : Asid) : (s.setAsid a).peersel = s.peersel := rfl
@[simp] theorem State.setAsid_winbase (s : State) (a : Asid) : (s.setAsid a).winbase = s.winbase := rfl
@[simp] theorem State.setAsid_recovery (s : State) (a : Asid) : (s.setAsid a).recovery = s.recovery := rfl
@[simp] theorem State.setAsid_rollback (s : State) (a : Asid) : (s.setAsid a).rollback = s.rollback := rfl
@[simp] theorem State.setAsid_cap (s : State) (a : Asid) : (s.setAsid a).cap = s.cap := rfl
@[simp] theorem State.setAsid_slower (s : State) (a : Asid) : (s.setAsid a).slower = s.slower := rfl
@[simp] theorem State.setAsid_reports (s : State) (a : Asid) : (s.setAsid a).reports = s.reports := rfl

@[simp] theorem State.setScratch_agenda (s : State) (team : Nat) (m : Memory) : (s.setScratch team m).agenda = s.agenda := rfl
@[simp] theorem State.setScratch_focus (s : State) (team : Nat) (m : Memory) : (s.setScratch team m).focus = s.focus := rfl
@[simp] theorem State.setScratch_fresh (s : State) (team : Nat) (m : Memory) : (s.setScratch team m).fresh = s.fresh := rfl
@[simp] theorem State.setScratch_choice (s : State) (team : Nat) (m : Memory) : (s.setScratch team m).choice = s.choice := rfl
@[simp] theorem State.setScratch_mem (s : State) (team : Nat) (m : Memory) : (s.setScratch team m).mem = s.mem := rfl
@[simp] theorem State.setScratch_views (s : State) (team : Nat) (m : Memory) : (s.setScratch team m).views = s.views := rfl
@[simp] theorem State.setScratch_vectors (s : State) (team : Nat) (m : Memory) : (s.setScratch team m).vectors = s.vectors := rfl
@[simp] theorem State.setScratch_ops (s : State) (team : Nat) (m : Memory) : (s.setScratch team m).ops = s.ops := rfl
@[simp] theorem State.setScratch_late (s : State) (team : Nat) (m : Memory) : (s.setScratch team m).late = s.late := rfl
@[simp] theorem State.setScratch_launches (s : State) (team : Nat) (m : Memory) : (s.setScratch team m).launches = s.launches := rfl
@[simp] theorem State.setScratch_cores (s : State) (team : Nat) (m : Memory) : (s.setScratch team m).cores = s.cores := rfl
@[simp] theorem State.setScratch_loops (s : State) (team : Nat) (m : Memory) : (s.setScratch team m).loops = s.loops := rfl
@[simp] theorem State.setScratch_cmds (s : State) (team : Nat) (m : Memory) : (s.setScratch team m).cmds = s.cmds := rfl
@[simp] theorem State.setScratch_fetches (s : State) (team : Nat) (m : Memory) : (s.setScratch team m).fetches = s.fetches := rfl
@[simp] theorem State.setScratch_held (s : State) (team : Nat) (m : Memory) : (s.setScratch team m).held = s.held := rfl
@[simp] theorem State.setScratch_asids (s : State) (team : Nat) (m : Memory) : (s.setScratch team m).asids = s.asids := rfl
@[simp] theorem State.setScratch_kicks (s : State) (team : Nat) (m : Memory) : (s.setScratch team m).kicks = s.kicks := rfl
@[simp] theorem State.setScratch_chunks (s : State) (team : Nat) (m : Memory) : (s.setScratch team m).chunks = s.chunks := rfl
@[simp] theorem State.setScratch_notices (s : State) (team : Nat) (m : Memory) : (s.setScratch team m).notices = s.notices := rfl
@[simp] theorem State.setScratch_sent (s : State) (team : Nat) (m : Memory) : (s.setScratch team m).sent = s.sent := rfl
@[simp] theorem State.setScratch_msix (s : State) (team : Nat) (m : Memory) : (s.setScratch team m).msix = s.msix := rfl
@[simp] theorem State.setScratch_hostReads (s : State) (team : Nat) (m : Memory) : (s.setScratch team m).hostReads = s.hostReads := rfl
@[simp] theorem State.setScratch_peers (s : State) (team : Nat) (m : Memory) : (s.setScratch team m).peers = s.peers := rfl
@[simp] theorem State.setScratch_links (s : State) (team : Nat) (m : Memory) : (s.setScratch team m).links = s.links := rfl
@[simp] theorem State.setScratch_units (s : State) (team : Nat) (m : Memory) : (s.setScratch team m).units = s.units := rfl
@[simp] theorem State.setScratch_nextLaunch (s : State) (team : Nat) (m : Memory) : (s.setScratch team m).nextLaunch = s.nextLaunch := rfl
@[simp] theorem State.setScratch_dieTurn (s : State) (team : Nat) (m : Memory) : (s.setScratch team m).dieTurn = s.dieTurn := rfl
@[simp] theorem State.setScratch_clusterTurn (s : State) (team : Nat) (m : Memory) : (s.setScratch team m).clusterTurn = s.clusterTurn := rfl
@[simp] theorem State.setScratch_halted (s : State) (team : Nat) (m : Memory) : (s.setScratch team m).halted = s.halted := rfl
@[simp] theorem State.setScratch_accepting (s : State) (team : Nat) (m : Memory) : (s.setScratch team m).accepting = s.accepting := rfl
@[simp] theorem State.setScratch_node (s : State) (team : Nat) (m : Memory) : (s.setScratch team m).node = s.node := rfl
@[simp] theorem State.setScratch_boot (s : State) (team : Nat) (m : Memory) : (s.setScratch team m).boot = s.boot := rfl
@[simp] theorem State.setScratch_peersel (s : State) (team : Nat) (m : Memory) : (s.setScratch team m).peersel = s.peersel := rfl
@[simp] theorem State.setScratch_winbase (s : State) (team : Nat) (m : Memory) : (s.setScratch team m).winbase = s.winbase := rfl
@[simp] theorem State.setScratch_recovery (s : State) (team : Nat) (m : Memory) : (s.setScratch team m).recovery = s.recovery := rfl
@[simp] theorem State.setScratch_rollback (s : State) (team : Nat) (m : Memory) : (s.setScratch team m).rollback = s.rollback := rfl
@[simp] theorem State.setScratch_cap (s : State) (team : Nat) (m : Memory) : (s.setScratch team m).cap = s.cap := rfl
@[simp] theorem State.setScratch_slower (s : State) (team : Nat) (m : Memory) : (s.setScratch team m).slower = s.slower := rfl
@[simp] theorem State.setScratch_reports (s : State) (team : Nat) (m : Memory) : (s.setScratch team m).reports = s.reports := rfl

@[simp] theorem State.pushOp_agenda (s : State) (o : MemOp) : (s.pushOp o).agenda = s.agenda := rfl
@[simp] theorem State.pushOp_focus (s : State) (o : MemOp) : (s.pushOp o).focus = s.focus := rfl
@[simp] theorem State.pushOp_choice (s : State) (o : MemOp) : (s.pushOp o).choice = s.choice := rfl
@[simp] theorem State.pushOp_mem (s : State) (o : MemOp) : (s.pushOp o).mem = s.mem := rfl
@[simp] theorem State.pushOp_views (s : State) (o : MemOp) : (s.pushOp o).views = s.views := rfl
@[simp] theorem State.pushOp_vectors (s : State) (o : MemOp) : (s.pushOp o).vectors = s.vectors := rfl
@[simp] theorem State.pushOp_late (s : State) (o : MemOp) : (s.pushOp o).late = s.late := rfl
@[simp] theorem State.pushOp_teams (s : State) (o : MemOp) : (s.pushOp o).teams = s.teams := rfl
@[simp] theorem State.pushOp_launches (s : State) (o : MemOp) : (s.pushOp o).launches = s.launches := rfl
@[simp] theorem State.pushOp_cores (s : State) (o : MemOp) : (s.pushOp o).cores = s.cores := rfl
@[simp] theorem State.pushOp_loops (s : State) (o : MemOp) : (s.pushOp o).loops = s.loops := rfl
@[simp] theorem State.pushOp_cmds (s : State) (o : MemOp) : (s.pushOp o).cmds = s.cmds := rfl
@[simp] theorem State.pushOp_fetches (s : State) (o : MemOp) : (s.pushOp o).fetches = s.fetches := rfl
@[simp] theorem State.pushOp_held (s : State) (o : MemOp) : (s.pushOp o).held = s.held := rfl
@[simp] theorem State.pushOp_asids (s : State) (o : MemOp) : (s.pushOp o).asids = s.asids := rfl
@[simp] theorem State.pushOp_kicks (s : State) (o : MemOp) : (s.pushOp o).kicks = s.kicks := rfl
@[simp] theorem State.pushOp_chunks (s : State) (o : MemOp) : (s.pushOp o).chunks = s.chunks := rfl
@[simp] theorem State.pushOp_notices (s : State) (o : MemOp) : (s.pushOp o).notices = s.notices := rfl
@[simp] theorem State.pushOp_sent (s : State) (o : MemOp) : (s.pushOp o).sent = s.sent := rfl
@[simp] theorem State.pushOp_msix (s : State) (o : MemOp) : (s.pushOp o).msix = s.msix := rfl
@[simp] theorem State.pushOp_hostReads (s : State) (o : MemOp) : (s.pushOp o).hostReads = s.hostReads := rfl
@[simp] theorem State.pushOp_peers (s : State) (o : MemOp) : (s.pushOp o).peers = s.peers := rfl
@[simp] theorem State.pushOp_links (s : State) (o : MemOp) : (s.pushOp o).links = s.links := rfl
@[simp] theorem State.pushOp_units (s : State) (o : MemOp) : (s.pushOp o).units = s.units := rfl
@[simp] theorem State.pushOp_nextLaunch (s : State) (o : MemOp) : (s.pushOp o).nextLaunch = s.nextLaunch := rfl
@[simp] theorem State.pushOp_dieTurn (s : State) (o : MemOp) : (s.pushOp o).dieTurn = s.dieTurn := rfl
@[simp] theorem State.pushOp_clusterTurn (s : State) (o : MemOp) : (s.pushOp o).clusterTurn = s.clusterTurn := rfl
@[simp] theorem State.pushOp_halted (s : State) (o : MemOp) : (s.pushOp o).halted = s.halted := rfl
@[simp] theorem State.pushOp_accepting (s : State) (o : MemOp) : (s.pushOp o).accepting = s.accepting := rfl
@[simp] theorem State.pushOp_node (s : State) (o : MemOp) : (s.pushOp o).node = s.node := rfl
@[simp] theorem State.pushOp_boot (s : State) (o : MemOp) : (s.pushOp o).boot = s.boot := rfl
@[simp] theorem State.pushOp_peersel (s : State) (o : MemOp) : (s.pushOp o).peersel = s.peersel := rfl
@[simp] theorem State.pushOp_winbase (s : State) (o : MemOp) : (s.pushOp o).winbase = s.winbase := rfl
@[simp] theorem State.pushOp_recovery (s : State) (o : MemOp) : (s.pushOp o).recovery = s.recovery := rfl
@[simp] theorem State.pushOp_rollback (s : State) (o : MemOp) : (s.pushOp o).rollback = s.rollback := rfl
@[simp] theorem State.pushOp_cap (s : State) (o : MemOp) : (s.pushOp o).cap = s.cap := rfl
@[simp] theorem State.pushOp_slower (s : State) (o : MemOp) : (s.pushOp o).slower = s.slower := rfl
@[simp] theorem State.pushOp_reports (s : State) (o : MemOp) : (s.pushOp o).reports = s.reports := rfl

@[simp] theorem State.homeWrite_agenda (s : State) (a : Nat) (data : List (Byte × Byte)) : (s.homeWrite a data).agenda = s.agenda := rfl
@[simp] theorem State.homeWrite_focus (s : State) (a : Nat) (data : List (Byte × Byte)) : (s.homeWrite a data).focus = s.focus := rfl
@[simp] theorem State.homeWrite_fresh (s : State) (a : Nat) (data : List (Byte × Byte)) : (s.homeWrite a data).fresh = s.fresh := rfl
@[simp] theorem State.homeWrite_choice (s : State) (a : Nat) (data : List (Byte × Byte)) : (s.homeWrite a data).choice = s.choice := rfl
@[simp] theorem State.homeWrite_ops (s : State) (a : Nat) (data : List (Byte × Byte)) : (s.homeWrite a data).ops = s.ops := rfl
@[simp] theorem State.homeWrite_late (s : State) (a : Nat) (data : List (Byte × Byte)) : (s.homeWrite a data).late = s.late := rfl
@[simp] theorem State.homeWrite_teams (s : State) (a : Nat) (data : List (Byte × Byte)) : (s.homeWrite a data).teams = s.teams := rfl
@[simp] theorem State.homeWrite_launches (s : State) (a : Nat) (data : List (Byte × Byte)) : (s.homeWrite a data).launches = s.launches := rfl
@[simp] theorem State.homeWrite_cores (s : State) (a : Nat) (data : List (Byte × Byte)) : (s.homeWrite a data).cores = s.cores := rfl
@[simp] theorem State.homeWrite_loops (s : State) (a : Nat) (data : List (Byte × Byte)) : (s.homeWrite a data).loops = s.loops := rfl
@[simp] theorem State.homeWrite_cmds (s : State) (a : Nat) (data : List (Byte × Byte)) : (s.homeWrite a data).cmds = s.cmds := rfl
@[simp] theorem State.homeWrite_fetches (s : State) (a : Nat) (data : List (Byte × Byte)) : (s.homeWrite a data).fetches = s.fetches := rfl
@[simp] theorem State.homeWrite_held (s : State) (a : Nat) (data : List (Byte × Byte)) : (s.homeWrite a data).held = s.held := rfl
@[simp] theorem State.homeWrite_asids (s : State) (a : Nat) (data : List (Byte × Byte)) : (s.homeWrite a data).asids = s.asids := rfl
@[simp] theorem State.homeWrite_kicks (s : State) (a : Nat) (data : List (Byte × Byte)) : (s.homeWrite a data).kicks = s.kicks := rfl
@[simp] theorem State.homeWrite_chunks (s : State) (a : Nat) (data : List (Byte × Byte)) : (s.homeWrite a data).chunks = s.chunks := rfl
@[simp] theorem State.homeWrite_notices (s : State) (a : Nat) (data : List (Byte × Byte)) : (s.homeWrite a data).notices = s.notices := rfl
@[simp] theorem State.homeWrite_sent (s : State) (a : Nat) (data : List (Byte × Byte)) : (s.homeWrite a data).sent = s.sent := rfl
@[simp] theorem State.homeWrite_msix (s : State) (a : Nat) (data : List (Byte × Byte)) : (s.homeWrite a data).msix = s.msix := rfl
@[simp] theorem State.homeWrite_hostReads (s : State) (a : Nat) (data : List (Byte × Byte)) : (s.homeWrite a data).hostReads = s.hostReads := rfl
@[simp] theorem State.homeWrite_peers (s : State) (a : Nat) (data : List (Byte × Byte)) : (s.homeWrite a data).peers = s.peers := rfl
@[simp] theorem State.homeWrite_links (s : State) (a : Nat) (data : List (Byte × Byte)) : (s.homeWrite a data).links = s.links := rfl
@[simp] theorem State.homeWrite_units (s : State) (a : Nat) (data : List (Byte × Byte)) : (s.homeWrite a data).units = s.units := rfl
@[simp] theorem State.homeWrite_nextLaunch (s : State) (a : Nat) (data : List (Byte × Byte)) : (s.homeWrite a data).nextLaunch = s.nextLaunch := rfl
@[simp] theorem State.homeWrite_dieTurn (s : State) (a : Nat) (data : List (Byte × Byte)) : (s.homeWrite a data).dieTurn = s.dieTurn := rfl
@[simp] theorem State.homeWrite_clusterTurn (s : State) (a : Nat) (data : List (Byte × Byte)) : (s.homeWrite a data).clusterTurn = s.clusterTurn := rfl
@[simp] theorem State.homeWrite_halted (s : State) (a : Nat) (data : List (Byte × Byte)) : (s.homeWrite a data).halted = s.halted := rfl
@[simp] theorem State.homeWrite_accepting (s : State) (a : Nat) (data : List (Byte × Byte)) : (s.homeWrite a data).accepting = s.accepting := rfl
@[simp] theorem State.homeWrite_node (s : State) (a : Nat) (data : List (Byte × Byte)) : (s.homeWrite a data).node = s.node := rfl
@[simp] theorem State.homeWrite_boot (s : State) (a : Nat) (data : List (Byte × Byte)) : (s.homeWrite a data).boot = s.boot := rfl
@[simp] theorem State.homeWrite_peersel (s : State) (a : Nat) (data : List (Byte × Byte)) : (s.homeWrite a data).peersel = s.peersel := rfl
@[simp] theorem State.homeWrite_winbase (s : State) (a : Nat) (data : List (Byte × Byte)) : (s.homeWrite a data).winbase = s.winbase := rfl
@[simp] theorem State.homeWrite_recovery (s : State) (a : Nat) (data : List (Byte × Byte)) : (s.homeWrite a data).recovery = s.recovery := rfl
@[simp] theorem State.homeWrite_rollback (s : State) (a : Nat) (data : List (Byte × Byte)) : (s.homeWrite a data).rollback = s.rollback := rfl
@[simp] theorem State.homeWrite_cap (s : State) (a : Nat) (data : List (Byte × Byte)) : (s.homeWrite a data).cap = s.cap := rfl
@[simp] theorem State.homeWrite_slower (s : State) (a : Nat) (data : List (Byte × Byte)) : (s.homeWrite a data).slower = s.slower := rfl
@[simp] theorem State.homeWrite_reports (s : State) (a : Nat) (data : List (Byte × Byte)) : (s.homeWrite a data).reports = s.reports := rfl

end Sys2Proof.Machine
end

