-- ==== Sys2Proof/Laws/Scalar.lean ====
section
/-! SUPPORT. What the shared operations of scalar instructions do: issue (R91), the instruction boundary of a group that is one set of
lanes (R20), retiring, finding teams and groups after a change. -/

namespace Sys2Proof.Machine

/-! Finding after a change. -/

theorem find?_map_mod {α : Type} (l : List α) (key : α → Nat) (id : Nat) (f : α → α) (hf : ∀ a, key (f a) = key a) (x : Nat) :
    (l.map fun a => if key a == id then f a else a).find? (fun a => key a == x) =
      (l.find? fun a => key a == x).map fun a => if x = id then f a else a := by
  induction l with
  | nil => rfl
  | cons a l ih =>
    simp only [List.map_cons, List.find?_cons]
    have hk : key (if key a == id then f a else a) = key a := by split <;> simp [hf]
    rw [hk]
    by_cases ha : key a = x
    · simp [ha]
    · have : (key a == x) = false := by simpa using ha
      simp only [this]
      exact ih

theorem State.team?_modTeam (s : State) (id x : Nat) (f : Team → Team) (hf : ∀ t, (f t).id = t.id) :
    (s.modTeam id f).team? x = (s.team? x).map fun t => if x = id then f t else t :=
  find?_map_mod s.teams (·.id) id f hf x

theorem Team.group?_modGroup (t : Team) (gid x : Nat) (f : Group → Group) (hf : ∀ g, (f g).gid = g.gid) :
    (t.modGroup gid f).group? x = (t.group? x).map fun g => if x = gid then f g else g :=
  find?_map_mod t.groups (·.gid) gid f hf x

theorem State.group?_modGroup (s : State) (team gid x y : Nat) (f : Group → Group) (hf : ∀ g, (f g).gid = g.gid) :
    (s.modGroup team gid f).group? x y = (s.group? x y).map fun g => if x = team ∧ y = gid then f g else g := by
  unfold State.group? State.modGroup
  rw [State.team?_modTeam s team x (fun t => t.modGroup gid f) fun _ => rfl]
  cases s.team? x with
  | none => rfl
  | some t =>
    by_cases hx : x = team
    · simp [hx, Team.group?_modGroup _ _ _ _ hf]
    · simp [hx]

theorem State.team?_id (s : State) (id : Nat) (t : Team) (h : s.team? id = some t) : t.id = id := by
  have := List.find?_some h
  simpa using this

theorem Team.group?_gid (t : Team) (gid : Nat) (g : Group) (h : t.group? gid = some g) : g.gid = gid := by
  have := List.find?_some h
  simpa using this

/-! Issue. -/

/-- What the issue of a ready scalar instruction does. -/
theorem scalarIssue_ready (s : State) (c : Issuer) (i : Instr) (k : Issuer → State → Out State) (h : ScalarReady s c i) :
    scalarIssue i (scalarReads i) (scalarWrites i) s k = k (c.begun s i) (s.begun c i) := by
  obtain ⟨h1, h2, h3, h4, h5⟩ := h
  simp [scalarIssue, h1, h2, h3, h4, h5, State.atDue, Issuer.begun, State.begun]

theorem State.noteReads_nil (s : State) (c : Issuer) : s.noteReads c [] = (c, s) := by
  have : (c.group.tokens.filter fun t => ([] : List SReg).any fun r => r == t.reg && c.group.regOwner c.ref.split r == t.uid) = [] := by
    simp
  simp [State.noteReads]

/-- Noting what is read changes only the program order of the split. -/
theorem State.noteReads_issuer (s : State) (c : Issuer) (rs : List SReg) :
    (s.noteReads c rs).1.group = c.group ∧ (s.noteReads c rs).1.ref = c.ref ∧ (s.noteReads c rs).1.team = c.team ∧
    (s.noteReads c rs).1.launch = c.launch ∧ (s.noteReads c rs).1.pc = c.pc ∧ (s.noteReads c rs).1.exec = c.exec ∧
    (s.noteReads c rs).1.uid = c.uid := by
  unfold State.noteReads
  dsimp only
  split <;> exact ⟨rfl, rfl, rfl, rfl, rfl, rfl, rfl⟩

/-! Boundaries. -/

theorem Group.whole_iff (g : Group) : g.whole = true ↔ ∃ k p, g.live = [(k, p)] ∧ p.deferred = [] := by
  unfold Group.whole
  constructor
  · intro h
    simp only [Bool.and_eq_true, beq_iff_eq, List.all_eq_true, List.isEmpty_iff] at h
    obtain ⟨h1, h2⟩ := h
    obtain ⟨x, hx⟩ := List.length_eq_one_iff.mp h1
    exact ⟨x.1, x.2, hx, h2 x (by simp [hx])⟩
  · rintro ⟨k, p, h1, h2⟩
    simp [h1, h2]

/-- No deferred entry of a group that is one set of lanes stands anywhere. -/
theorem Group.deferredAt_of_whole (g : Group) (pc : DWord) (h : g.whole = true) : g.deferredAt pc = [] := by
  obtain ⟨j, p, hl, hd⟩ := g.whole_iff.mp h
  simp [Group.deferredAt, hl, hd]

/-- Nothing happens at the boundary of a group that is one set of lanes. -/
theorem State.boundary_of_whole (s : State) (team gid n : Nat) (g : Group) (hg : s.group? team gid = some g) (h : g.whole = true) :
    s.boundary team gid n = s := by
  cases n with
  | zero => rfl
  | succ n =>
    unfold State.boundary
    unfold State.group? at hg
    cases ht : s.team? team with
    | none => rfl
    | some t =>
      have hg' : t.group? gid = some g := by simpa [ht] using hg
      obtain ⟨k, p, hl, hd⟩ := g.whole_iff.mp h
      have hm : s.meeting team g = none := by
        simp only [State.meeting, State.mergeable, hl, List.filter_cons, List.filter_nil]
        split <;> simp
      have ha : s.absorbing team g = none := by
        simp [State.absorbing, Group.deferredAt_of_whole g _ h]
      have hr : g.resumable = none := by
        unfold Group.resumable
        simp only [hl, List.filter_cons, hd]
        split <;> rfl
      simp only [hg', hm, ha, hr]

end Sys2Proof.Machine
end

