-- ==== Sys2Proof/Laws/Issue.lean ====
section
/-! SUPPORT. Lemmas the provers cite of issue and retiring: masks by lane (R19), finding a set of lanes or a group after a change,
retiring in a group that is one set of lanes (R20, R21, R354), what an issued instruction's issuer and state are (R91). -/

namespace Sys2Proof.Machine

/-! Masks by lane. -/

theorem Mask.ext_has {a b : Mask} (h : ∀ l, a.has l = b.has l) : a = b := by
  apply BitVec.eq_of_getLsbD_eq; intro i hi; simpa [Mask.has] using h ⟨i, hi⟩

@[simp] theorem Mask.has_and (a b : Mask) (l : Fin 32) : Mask.has (a &&& b) l = (a.has l && b.has l) := by simp [Mask.has]
@[simp] theorem Mask.has_or (a b : Mask) (l : Fin 32) : Mask.has (a ||| b) l = (a.has l || b.has l) := by simp [Mask.has]
@[simp] theorem Mask.has_not (a : Mask) (l : Fin 32) : Mask.has (~~~ a) l = !a.has l := by simp [Mask.has]
@[simp] theorem Mask.has_zero (l : Fin 32) : Mask.has 0 l = false := by simp [Mask.has]

theorem Group.has_predNeg (g : Group) (p : Nat) (neg : Bool) (l : Fin 32) : (g.predNeg p neg).has l = ((g.pred p).has l != neg) := by
  unfold Group.predNeg; cases neg <;> simp [Mask.has]

/-! Finding after a change. -/


theorem vget_vset {α : Type} {n : Nat} (v : Vector α n) (i j : Nat) (a d : α) :
    vget (vset v i a) j d = if j < n ∧ j = i then a else vget v j d := by
  unfold vget vset; by_cases h : j < n <;> simp [h]

theorem getElem_vmod {α : Type} {n : Nat} (v : Vector α n) (i j : Nat) (f : α → α) (h : j < n) :
    (vmod v i f)[j] = if j = i then f v[j] else v[j] := by
  simp [vmod]

theorem getElem_vset {α : Type} {n : Nat} (v : Vector α n) (i j : Nat) (a : α) (h : j < n) :
    (vset v i a)[j] = if j = i then a else v[j] := by
  simp [vset]

theorem Group.split?_modSplit (g : Group) (k j : Fin 4) (f : Split → Split) :
    (g.modSplit k f).split? j = if j = k then (g.split? j).map f else g.split? j := by
  simp only [Group.split?, Group.modSplit, getElem_vmod]
  by_cases h : j = k
  · simp [h]
  · have : ¬ j.val = k.val := fun e => h (Fin.ext e)
    simp [h, this]

theorem Group.split?_setSplit (g : Group) (k j : Fin 4) (p : Option Split) :
    (g.setSplit k.val p).split? j = if j = k then p else g.split? j := by
  simp only [Group.split?, Group.setSplit, getElem_vset]
  by_cases h : j = k
  · simp [h]
  · have : ¬ j.val = k.val := fun e => h (Fin.ext e)
    simp [h, this]

theorem Group.live_congr (g h : Group) (e : ∀ j, h.split? j = g.split? j) : h.live = g.live := by
  simp [Group.live, e]

theorem Group.live_modSplit (g : Group) (k : Fin 4) (f : Split → Split) :
    (g.modSplit k f).live = g.live.map fun kp => if kp.1 = k then (kp.1, f kp.2) else kp := by
  simp only [Group.live, List.map_filterMap]
  congr 1; funext j
  rw [Group.split?_modSplit]
  by_cases h : j = k
  · subst h; cases g.split? j <;> simp
  · cases g.split? j <;> simp [h]

theorem Group.whole_modSplit (g : Group) (k : Fin 4) (f : Split → Split) (hf : ∀ p, (f p).deferred = p.deferred) :
    (g.modSplit k f).whole = g.whole := by
  unfold Group.whole
  rw [Group.live_modSplit]
  simp only [List.length_map, List.all_map]
  congr 1
  apply congrArg (fun f => g.live.all f)
  funext kp
  simp only [Function.comp]
  split <;> simp [hf]

theorem Group.mem_live (g : Group) (k : Fin 4) (p : Split) : (k, p) ∈ g.live ↔ g.split? k = some p := by
  simp [Group.live]

/-- The group of a whole split. -/
theorem Group.live_of_whole (g : Group) (k : Fin 4) (p : Split) (h : g.whole = true) (hk : g.split? k = some p) :
    g.live = [(k, p)] ∧ p.deferred = [] ∧ ∀ j, j ≠ k → g.split? j = none := by
  obtain ⟨j, q, hl, hd⟩ := g.whole_iff.mp h
  have hm := (g.mem_live k p).mpr hk
  rw [hl] at hm
  simp only [List.mem_singleton, Prod.mk.injEq] at hm
  obtain ⟨rfl, rfl⟩ := hm
  refine ⟨hl, hd, fun j hj => ?_⟩
  cases hs : g.split? j with
  | none => rfl
  | some q =>
    have := (g.mem_live j q).mpr hs
    rw [hl] at this
    simp only [List.mem_singleton, Prod.mk.injEq] at this
    exact absurd this.1 hj

/-- The group under a number after the watchdogs restart. -/
theorem Team.group?_issued (t : Team) (gid x : Nat) :
    (t.issued gid).group? x = (t.group? x).map fun g =>
      if x = gid ∨ (g.live.any fun kp => kp.2.status != .running) = true then g.restart else g := by
  unfold Team.group? Team.issued
  dsimp only
  induction t.groups with
  | nil => rfl
  | cons a l ih =>
    rw [List.map_cons, List.find?_cons, List.find?_cons]
    by_cases ha : a.gid = x
    · subst ha
      have h1 : ((if (a.gid == gid || a.live.any fun kp => kp.2.status != .running) = true then a.restart else a).gid == a.gid) = true := by split <;> simp [Group.restart]
      rw [h1]
      simp only [BEq.rfl, Option.map_some, Bool.or_eq_true, beq_iff_eq]
    · have h1 : ((if (a.gid == gid || a.live.any fun kp => kp.2.status != .running) = true then a.restart else a).gid == x) = false := by split <;> simpa [Group.restart] using ha
      have h2 : (a.gid == x) = false := by simpa using ha
      rw [h1, h2]; exact ih

theorem Team.group?_closeOver (t : Team) (a : Action) (x : Nat) : (t.closeOver a).group? x = t.group? x := rfl

theorem Group.goOn_split? (g : Group) (k j : Fin 4) (pc : DWord) :
    (g.goOn k pc).split? j = if j = k then (g.split? j).map (fun p => p.modSet fun e => { e with pc := pc }) else g.split? j :=
  g.split?_modSplit k j _

theorem Group.goOn_whole (g : Group) (k : Fin 4) (pc : DWord) : (g.goOn k pc).whole = g.whole :=
  g.whole_modSplit k _ fun _ => rfl

theorem Group.goOn_sameButScalars (g : Group) (k : Fin 4) (pc : DWord) : g.sameButScalars (g.goOn k pc) := by
  simp [Group.sameButScalars, Group.goOn, Group.modSplit]

theorem Team.group?_goOn (t : Team) (r : SplitRef) (pc : DWord) (x : Nat) :
    (t.goOn r pc).group? x = (t.group? x).map fun g =>
      if x = r.group then (g.goOn r.split pc).restart
      else if (g.live.any fun kp => kp.2.status != .running) then g.restart else g := by
  unfold Team.goOn
  rw [Team.group?_closeOver, Team.group?_issued, Team.group?_modGroup t r.group x (fun g => g.goOn r.split pc) fun _ => rfl]
  cases t.group? x with
  | none => rfl
  | some g =>
    by_cases h : x = r.group
    · simp [h]
    · simp only [Option.map_some, h, false_or, if_false]

/-- What retiring changes when the group is one set of lanes (R20, R21, R354). -/
theorem State.retire_of_whole (s : State) (r : SplitRef) (pc : DWord) (g : Group) (hg : s.group? r.team r.group = some g)
    (h : g.whole = true) : s.retire r pc = s.modTeam r.team fun t => t.goOn r pc := by
  unfold State.group? at hg
  cases ht : s.team? r.team with
  | none => simp [ht] at hg
  | some t =>
    simp only [ht, Option.bind_some] at hg
    refine State.boundary_of_whole _ r.team r.group boundaryFuel (g.goOn r.split pc).restart ?_ ?_
    · unfold State.group?
      rw [State.team?_modTeam s r.team r.team (fun t => t.goOn r pc) fun _ => rfl, ht]
      simp [Team.group?_goOn, hg]
    · exact (Group.goOn_whole g r.split pc).trans h

theorem State.goOn_team? (s : State) (r : SplitRef) (pc : DWord) (x : Nat) :
    (s.modTeam r.team fun t => t.goOn r pc).team? x = (s.team? x).map fun t => if x = r.team then t.goOn r pc else t :=
  State.team?_modTeam s r.team x (fun t => t.goOn r pc) fun _ => rfl

theorem State.goOn_group? (s : State) (r : SplitRef) (pc : DWord) (g : Group) (hg : s.group? r.team r.group = some g) :
    (s.modTeam r.team fun t => t.goOn r pc).group? r.team r.group = some (g.goOn r.split pc).restart := by
  unfold State.group? at *
  rw [State.goOn_team?]
  cases ht : s.team? r.team with
  | none => simp [ht] at hg
  | some t =>
    simp only [ht, Option.bind_some] at hg
    simp [Team.group?_goOn, hg]

/-! Issue. -/

theorem commandIssue_ready (s : State) (c : Issuer) (i : Instr) (tok : SReg) (k : Issuer → State → Out State) (h : CommandReady s c i tok) :
    commandIssue i (scalarReads i) tok s k = k (c.begun s i) (s.begun c i) := by
  obtain ⟨h1, h2, h3, h4, h5, h6⟩ := h
  simp [commandIssue, h1, h2, h3, h4, h5, h6, State.atDue, Issuer.begun, State.begun]

section
variable (s : State) (c : Issuer) (i : Instr)
@[simp] theorem Issuer.begun_group : (c.begun s i).group = c.group := (s.noteReads_issuer c _).1
@[simp] theorem Issuer.begun_ref : (c.begun s i).ref = c.ref := (s.noteReads_issuer c _).2.1
@[simp] theorem Issuer.begun_team : (c.begun s i).team = c.team := (s.noteReads_issuer c _).2.2.1
@[simp] theorem Issuer.begun_launch : (c.begun s i).launch = c.launch := (s.noteReads_issuer c _).2.2.2.1
@[simp] theorem Issuer.begun_pc : (c.begun s i).pc = c.pc := (s.noteReads_issuer c _).2.2.2.2.1
@[simp] theorem Issuer.begun_exec : (c.begun s i).exec = c.exec := (s.noteReads_issuer c _).2.2.2.2.2.1
@[simp] theorem Issuer.begun_uid : (c.begun s i).uid = c.uid := (s.noteReads_issuer c _).2.2.2.2.2.2
@[simp] theorem Issuer.begun_read (r : SReg) : (c.begun s i).read r = c.read r := by simp [Issuer.read]
@[simp] theorem Issuer.begun_pair (r : SReg) : (c.begun s i).pair r = c.pair r := by simp [Issuer.pair]
@[simp] theorem Issuer.begun_inPass : (c.begun s i).inPass = c.inPass := by simp [Issuer.inPass]
@[simp] theorem Issuer.begun_asid : (c.begun s i).asid = c.asid := by simp [Issuer.asid]
@[simp] theorem Issuer.begun_core : (c.begun s i).core = c.core := by simp [Issuer.core]
theorem Issuer.begun_nil (h : scalarReads i = []) : c.begun s i = c := by simp [Issuer.begun, h, State.noteReads_nil]
theorem State.begun_nil (h : scalarReads i = []) : s.begun c i = s := by simp [State.begun, h, State.noteReads_nil]
end

theorem State.issuer?_spec (s : State) (c : Issuer) (h : s.issuer? = some c) :
    s.focus = some c.ref ∧ s.team? c.ref.team = some c.team ∧ c.team.group? c.ref.group = some c.group ∧ s.launchOf c.team = some c.launch ∧
    c.group.split? c.ref.split = some c.split ∧ c.team.state = .resident ∧ c.group.ended = false ∧ c.ref.team = c.team.id ∧ c.ref.group = c.group.gid := by
  unfold State.issuer? at h
  cases hf : s.focus with
  | none => simp [hf] at h
  | some r =>
    simp only [hf, Option.bind_some] at h
    unfold State.issuerOf at h
    cases ht : s.team? r.team with
    | none => simp [ht] at h
    | some t =>
      simp only [ht] at h
      split at h
      next g l hg hl =>
        split at h
        next p hp =>
          split at h
          next hx =>
            simp only [Option.some.injEq] at h
            subst h
            simp only [Bool.and_eq_true, beq_iff_eq, Bool.not_eq_true'] at hx
            exact ⟨rfl, ht, hg, hl, hp, hx.1, hx.2, (s.team?_id _ _ ht).symm, (t.group?_gid _ _ hg).symm⟩
          next => simp at h
        next => simp at h
      next => simp at h

theorem State.issuer?_group? (s : State) (c : Issuer) (h : s.issuer? = some c) : s.group? c.ref.team c.ref.group = some c.group := by
  have := s.issuer?_spec c h
  simp [State.group?, this.2.1, this.2.2.1]

/-! The results of ready scalar instructions. -/

theorem alu2_ready (s : State) (c : Issuer) (i : Instr) (d a b : SReg) (f : Word → Word → Word) (h : ScalarReady s c i)
    (hr : scalarReads i = [a, b]) (hw : scalarWrites i = [d]) :
    alu2 i d a b f s = .next ((s.begun c i).writeRetire (c.begun s i) d (f (c.read a) (c.read b))) := by
  have := scalarIssue_ready s c i (fun c s => .next (s.writeRetire c d (f (c.read a) (c.read b)))) h
  rw [hr, hw] at this
  simpa [alu2] using this

theorem alu1_ready (s : State) (c : Issuer) (i : Instr) (d a : SReg) (f : Word → Word) (h : ScalarReady s c i)
    (hr : scalarReads i = [a]) (hw : scalarWrites i = [d]) :
    alu1 i d a f s = .next ((s.begun c i).writeRetire (c.begun s i) d (f (c.read a))) := by
  have := scalarIssue_ready s c i (fun c s => .next (s.writeRetire c d (f (c.read a)))) h
  rw [hr, hw] at this
  simpa [alu1] using this

end Sys2Proof.Machine
end

