-- ==== Sys2Proof/Laws/Lane.lean ====
section
/-! SUPPORT. Masks of lanes: the bits of a mask that a condition names. -/

namespace Sys2Proof

/-- The sum of 2^i over the i below n that satisfy f has exactly those bits. -/
theorem sum_bits (f : Nat → Bool) (n : Nat) :
    (List.range n).foldl (fun acc i => if f i then acc + 2 ^ i else acc) 0 < 2 ^ n ∧
    ∀ j, ((List.range n).foldl (fun acc i => if f i then acc + 2 ^ i else acc) 0).testBit j = (decide (j < n) && f j) := by
  induction n with
  | zero => simp
  | succ n ih =>
    obtain ⟨hlt, hb⟩ := ih
    rw [List.range_succ, List.foldl_append]
    simp only [List.foldl_cons, List.foldl_nil]
    generalize (List.range n).foldl (fun acc i => if f i then acc + 2 ^ i else acc) 0 = S at hlt hb
    have h2 : 2 ^ (n + 1) = 2 ^ n + 2 ^ n := by rw [Nat.pow_succ]; omega
    by_cases hf : f n = true
    · rw [if_pos hf]
      refine ⟨by omega, fun j => ?_⟩
      rw [Nat.add_comm]
      rcases Nat.lt_trichotomy j n with h | h | h
      · rw [Nat.testBit_two_pow_add_gt h, hb]
        simp [h, Nat.lt_succ_of_lt h]
      · subst h
        rw [Nat.testBit_two_pow_add_eq, Nat.testBit_lt_two_pow hlt]
        simp [hf]
      · rw [Nat.testBit_lt_two_pow (by have := Nat.pow_le_pow_right (n := 2) (by omega) h; omega)]
        have h3 : ¬ j < n + 1 := by omega
        simp [h3]
    · rw [if_neg hf]
      refine ⟨by omega, fun j => ?_⟩
      rw [hb]
      rcases Nat.lt_trichotomy j n with h | h | h
      · simp [h, Nat.lt_succ_of_lt h]
      · subst h; simp [hf]
      · have h3 : ¬ j < n + 1 := by omega
        have h4 : ¬ j < n := by omega
        simp [h3, h4]

/-- A lane is in the mask of a condition when the condition holds of it. -/
theorem Mask.has_gen (f : Fin 32 → Bool) (l : Fin 32) : (Mask.gen f).has l = f l := by
  let g (k : Nat) : Bool := if h : k < 32 then f ⟨k, h⟩ else false
  have e : (List.finRange 32).foldl (fun acc i => if f i then acc + 2 ^ i.val else acc) 0 =
      (List.range 32).foldl (fun acc i => if g i then acc + 2 ^ i else acc) 0 := by
    rw [show List.range 32 = (List.finRange 32).map (·.val) from rfl, List.foldl_map]
    simp [g]
  unfold Mask.gen Mask.has
  rw [e, BitVec.getLsbD_ofNat, (sum_bits g 32).2]
  simp [g]

end Sys2Proof
end

