-- ==== Sys2Proof/Laws/Memory.lean ====
section
/-! SUPPORT. Reading after writing, and the canonical form under every write of a memory (R7, R229). -/

namespace Sys2Proof.Machine.Memory

/-- Every listed address lies above a bound. -/
def above (n : Nat) (m : Memory) : Prop := ∀ c ∈ m, n < c.1

theorem wf_cons (c : Host.Cell) (m : Memory) : wf (c :: m) = true ↔ c.2 ≠ 0 ∧ above c.1 m ∧ wf m = true := by
  induction m generalizing c with
  | nil => simp [wf, above]
  | cons d m ih =>
    simp only [wf, Bool.and_eq_true, bne_iff_ne, ne_eq, decide_eq_true_eq, and_assoc]
    constructor
    · rintro ⟨h1, h2, h3⟩
      refine ⟨h1, ?_, h3⟩
      intro e he
      rcases List.mem_cons.mp he with rfl | he
      · exact h2
      · exact Nat.lt_trans h2 ((ih d).mp h3 |>.2.1 e he)
    · rintro ⟨h1, h2, h3⟩
      exact ⟨h1, h2 d (List.mem_cons_self ..), h3⟩

theorem above_write (m : Memory) (n a : Nat) (b : Byte) (h : above n m) (ha : n < a) : above n (write m a b) := by
  induction m with
  | nil => unfold write; split <;> simp [above]; exact ha
  | cons c m ih =>
    have hc := h c (List.mem_cons_self ..)
    have hm : above n m := fun e he => h e (List.mem_cons_of_mem _ he)
    unfold write
    split
    · split
      · exact h
      · intro e he
        rcases List.mem_cons.mp he with rfl | he
        · exact ha
        · exact h e he
    · split
      · split
        · exact hm
        · intro e he
          rcases List.mem_cons.mp he with rfl | he
          · exact ha
          · exact hm e he
      · intro e he
        rcases List.mem_cons.mp he with rfl | he
        · exact hc
        · exact ih hm e he

/-- Writing a byte keeps the canonical form. -/
theorem wf_write (m : Memory) (a : Nat) (b : Byte) (h : wf m = true) : wf (write m a b) = true := by
  induction m with
  | nil => unfold write; split <;> simp_all [wf]
  | cons c m ih =>
    obtain ⟨h0, h1, h2⟩ := (wf_cons c m).mp h
    unfold write
    split
    · rename_i hlt
      split
      · exact h
      · rename_i hb
        refine (wf_cons _ _).mpr ⟨hb, ?_, h⟩
        intro e he
        rcases List.mem_cons.mp he with rfl | he
        · exact hlt
        · exact Nat.lt_trans hlt (h1 e he)
    · split
      · rename_i hc
        split
        · exact h2
        · rename_i hb
          exact (wf_cons _ _).mpr ⟨hb, by simpa [hc] using h1, h2⟩
      · rename_i hn hne
        exact (wf_cons _ _).mpr ⟨h0, above_write m c.1 a b h1 (by omega), ih h2⟩

/-- Writing a run of bytes keeps the canonical form. -/
theorem wf_writeN (m : Memory) (a : Nat) (bs : List Byte) (h : wf m = true) : wf (writeN m a bs) = true := by
  induction bs generalizing m a with
  | nil => exact h
  | cons b bs ih => exact ih _ _ (wf_write m a b h)

/-- Writing masked bytes keeps the canonical form. -/
theorem wf_writeMasked (m : Memory) (a : Nat) (bs : List (Byte × Byte)) (h : wf m = true) : wf (writeMasked m a bs) = true := by
  induction bs generalizing m a with
  | nil => exact h
  | cons b bs ih => exact ih _ _ (wf_write m a _ h)

/-- Below every listed address a memory reads as zero. -/
theorem read_below (m : Memory) (a : Nat) (h : above a m) : read m a = 0 := by
  induction m with
  | nil => rfl
  | cons c m ih =>
    have hc := h c (List.mem_cons_self ..)
    unfold read
    rw [if_neg (by omega)]
    exact ih fun e he => h e (List.mem_cons_of_mem _ he)

/-- A byte reads as it was written. -/
theorem read_write (m : Memory) (a : Nat) (b : Byte) (h : wf m = true) : read (write m a b) a = b := by
  induction m with
  | nil =>
    unfold write
    split
    · simp_all [read]
    · simp [read]
  | cons c m ih =>
    obtain ⟨_, h1, h2⟩ := (wf_cons c m).mp h
    unfold write
    split
    · rename_i hlt
      split
      · rename_i hb
        subst hb
        apply read_below
        intro e he
        rcases List.mem_cons.mp he with rfl | he
        · exact hlt
        · exact Nat.lt_trans hlt (h1 e he)
      · simp [read]
    · split
      · rename_i hc
        split
        · rename_i hb
          subst hb
          exact read_below m a (by simpa [hc] using h1)
        · simp [read]
      · rename_i hn hne
        simp only [read, hne, if_false]
        exact ih h2

/-- A write leaves every other byte alone. -/
theorem read_write_of_ne (m : Memory) (a x : Nat) (b : Byte) (h : x ≠ a) : read (write m a b) x = read m x := by
  induction m with
  | nil => unfold write; split <;> simp [read, Ne.symm h]
  | cons c m ih =>
    unfold write
    split
    · split
      · rfl
      · simp [read, Ne.symm h]
    · split
      · rename_i hc
        split <;> simp [read, hc, Ne.symm h]
      · simp only [read, ih]

/-- A run of masked bytes leaves every byte outside it alone. -/
theorem read_writeMasked_of_outside (m : Memory) (a x : Nat) (bs : List (Byte × Byte)) (h : x < a ∨ a + bs.length ≤ x) :
    read (writeMasked m a bs) x = read m x := by
  induction bs generalizing m a with
  | nil => rfl
  | cons b bs ih =>
    obtain ⟨v, k⟩ := b
    simp only [List.length_cons] at h
    rw [writeMasked, ih _ _ (by omega), read_write_of_ne _ _ _ _ (by omega)]

/-- A run of bytes leaves every byte outside it alone. -/
theorem read_writeN_of_outside (m : Memory) (a x : Nat) (bs : List Byte) (h : x < a ∨ a + bs.length ≤ x) :
    read (writeN m a bs) x = read m x := by
  induction bs generalizing m a with
  | nil => rfl
  | cons b bs ih =>
    simp only [List.length_cons] at h
    rw [writeN, ih _ _ (by omega), read_write_of_ne _ _ _ _ (by omega)]

/-- A byte of a run of masked bytes reads as its old value merged with its new one. -/
theorem read_writeMasked (m : Memory) (a i : Nat) (bs : List (Byte × Byte)) (h : wf m = true) (hi : i < bs.length) :
    read (writeMasked m a bs) (a + i) = merge (read m (a + i)) bs[i].1 bs[i].2 := by
  induction bs generalizing m a i with
  | nil => simp at hi
  | cons b bs ih =>
    obtain ⟨v, k⟩ := b
    cases i with
    | zero =>
      simp only [Nat.add_zero, List.getElem_cons_zero]
      rw [writeMasked, read_writeMasked_of_outside _ _ _ _ (Or.inl (by omega)), read_write _ _ _ h]
    | succ i =>
      have hi' : i < bs.length := by simpa using hi
      rw [writeMasked, show a + (i + 1) = a + 1 + i by omega, ih _ _ _ (wf_write _ _ _ h) hi',
        read_write_of_ne _ _ _ _ (by omega)]
      rfl

end Sys2Proof.Machine.Memory
end

