-- ==== Sys2Proof/Laws/MemoryForm.lean ====
section
/-! SUPPORT. Every operation that changes a memory keeps its canonical form (R7, R229): rows of tiles replaced (R175, R180), memory
zeroed (R380), bytes at their home (R258), a scratchpad changed, a tile written (R160), a loop taken back (R186), a placed program. -/

namespace Sys2Proof.Machine.Memory

/-- The canonical form, said of all of a list. -/
theorem wf_iff (m : Memory) : wf m = true ↔ (∀ c ∈ m, c.2 ≠ 0) ∧ m.Pairwise fun c d => c.1 < d.1 := by
  induction m with
  | nil => simp [wf]
  | cons c m ih =>
    rw [wf_cons, ih, List.pairwise_cons, List.forall_mem_cons]
    exact ⟨fun ⟨h1, h2, h3, h4⟩ => ⟨⟨h1, h3⟩, h2, h4⟩, fun ⟨⟨h1, h3⟩, h2, h4⟩ => ⟨h1, h2, h3, h4⟩⟩

theorem wf_filter (m : Memory) (p : Host.Cell → Bool) (h : wf m = true) : wf (m.filter p) = true := by
  rw [wf_iff] at *
  exact ⟨fun c hc => h.1 c (List.mem_filter.mp hc).1, h.2.filter p⟩

theorem wf_hostOnly (m : Memory) (h : wf m = true) : wf (hostOnly m) = true := wf_filter m _ h

theorem wf_replaceRows (bs : List Byte) (m : Memory) (h : wf m = true) : wf (replaceRows bs m) = true := by
  rw [wf_iff] at *
  unfold replaceRows
  have hz : bs.zipIdx.Pairwise fun x y => x.2 < y.2 := by
    rw [List.pairwise_iff_getElem]
    intro i j hi hj hij
    simpa using hij
  refine ⟨?_, ?_⟩
  · intro c hc
    rcases List.mem_append.mp hc with hc | hc
    · obtain ⟨x, hx, rfl⟩ := List.mem_map.mp hc
      simpa using (List.mem_filter.mp hx).2
    · exact h.1 c (List.mem_filter.mp hc).1
  · rw [List.pairwise_append]
    refine ⟨(hz.filter _).map _ fun _ _ h => h, h.2.filter _, ?_⟩
    intro c hc d hd
    obtain ⟨x, hx, rfl⟩ := List.mem_map.mp hc
    have h1 := List.snd_lt_of_mem_zipIdx (List.mem_filter.mp hx).1
    have h2 : bs.length ≤ d.1 := by simpa using (List.mem_filter.mp hd).2
    simp only
    omega

end Sys2Proof.Machine.Memory

namespace Sys2Proof.Machine

theorem vmod_all {α : Type} {n : Nat} (v : Vector α n) (i : Nat) (f : α → α) (p : α → Bool) (h : v.toList.all p = true)
    (hf : ∀ a, p a = true → p (f a) = true) : (vmod v i f).toList.all p = true := by
  rw [List.all_eq_true] at *
  intro a ha
  rw [Vector.mem_toList_iff, Vector.mem_iff_getElem] at ha
  obtain ⟨j, hj, rfl⟩ := ha
  have hv := h v[j] (by simp)
  simp only [vmod, Vector.getElem_ofFn]
  split
  · exact hf _ hv
  · exact hv

/-- Every tile of a team is canonical after an operation on each. -/
theorem tiles_mapIdx_wf (l : List Memory) (f : Nat → Memory → Memory) (h : (l.all fun m => m.wf) = true)
    (hf : ∀ i m, m.wf = true → (f i m).wf = true) : ((l.mapIdx f).all fun m => m.wf) = true := by
  rw [List.all_eq_true] at *
  intro m hm
  obtain ⟨i, hi, rfl⟩ := List.mem_mapIdx.mp hm
  exact hf i _ (h _ (List.getElem_mem hi))

theorem Team.writeTile_wf (t : Team) (n a : Nat) (data : List (Byte × Byte)) (h : (t.tiles.all fun m => m.wf) = true) :
    ((t.writeTile n a data).tiles.all fun m => m.wf) = true := by
  refine tiles_mapIdx_wf _ _ h fun i m hm => ?_
  split
  · exact Memory.wf_writeMasked _ _ _ hm
  · exact hm

theorem Team.afterStep_wf (t : Team) (l : Loop) (a b : Block) (h : (t.tiles.all fun m => m.wf) = true) :
    ((t.afterStep l a b).tiles.all fun m => m.wf) = true := by
  refine tiles_mapIdx_wf _ _ h fun i m hm => ?_
  split
  · refine Memory.wf_replaceRows _ _ ?_
    split
    · exact Memory.wf_replaceRows _ _ hm
    · exact hm
  · split
    · exact Memory.wf_replaceRows _ _ hm
    · split
      · exact Memory.wf_replaceRows _ _ hm
      · exact hm

theorem Loop.rollback_wf (l : Loop) (t : Team) (h : (t.tiles.all fun m => m.wf) = true) (hl : (l.shadow.all fun m => m.wf) = true) :
    ((l.rollback t).tiles.all fun m => m.wf) = true := by
  refine tiles_mapIdx_wf _ _ h fun i m hm => ?_
  split
  · rw [List.all_eq_true] at hl
    cases hs : l.shadow[i - l.tc]? with
    | none => exact hm
    | some x => exact hl x (List.mem_of_getElem? hs)
  · exact hm

theorem State.memoriesWf_iff (s : State) : s.memoriesWf = true ↔ s.mem.wf = true ∧ (s.views.toList.all fun m => m.wf) = true ∧
    (∀ t ∈ s.teams, t.scratch.wf = true ∧ (t.tiles.all fun m => m.wf) = true) ∧
    ∀ l ∈ s.loops, (l.shadow.all fun m => m.wf) = true := by
  simp [State.memoriesWf, and_assoc]

theorem State.setScratch_wf (s : State) (team : Nat) (m : Memory) (h : s.memoriesWf = true) (hm : m.wf = true) :
    (s.setScratch team m).memoriesWf = true := by
  rw [State.memoriesWf_iff] at *
  refine ⟨h.1, h.2.1, ?_, h.2.2.2⟩
  intro t ht
  obtain ⟨u, hu, rfl⟩ := List.mem_map.mp ht
  have := h.2.2.1 u hu
  split
  · exact ⟨hm, this.2⟩
  · exact this

theorem State.homeWrite_wf (s : State) (a : Nat) (data : List (Byte × Byte)) (h : s.memoriesWf = true) :
    (s.homeWrite a data).memoriesWf = true := by
  rw [State.memoriesWf_iff] at *
  exact ⟨Memory.wf_writeMasked _ _ _ h.1, vmod_all _ _ _ _ h.2.1 fun m hm => Memory.wf_writeMasked m _ _ hm, h.2.2.1, h.2.2.2⟩

theorem State.place_wf (s : State) (a : Nat) (bs : List Byte) (h : s.memoriesWf = true) : (s.place a bs).memoriesWf = true := by
  rw [State.memoriesWf_iff] at *
  refine ⟨Memory.wf_writeN _ _ _ h.1, ?_, h.2.2.1, h.2.2.2⟩
  simp only [State.place, Vector.toList_map, List.all_map]
  rw [List.all_eq_true] at *
  exact fun m hm => Memory.wf_writeN m _ _ (h.2.1 m hm)

/-- A change of one team keeps the canonical form when the change does. -/
theorem State.modTeam_wf (s : State) (id : Nat) (f : Team → Team) (h : s.memoriesWf = true)
    (hf : ∀ t : Team, t.scratch.wf = true → (t.tiles.all fun m => m.wf) = true →
      (f t).scratch.wf = true ∧ ((f t).tiles.all fun m => m.wf) = true) : (s.modTeam id f).memoriesWf = true := by
  rw [State.memoriesWf_iff] at *
  refine ⟨h.1, h.2.1, ?_, h.2.2.2⟩
  intro t ht
  obtain ⟨u, hu, rfl⟩ := List.mem_map.mp ht
  have := h.2.2.1 u hu
  split
  · exact hf u this.1 this.2
  · exact this

theorem State.modGroup_wf (s : State) (team gid : Nat) (f : Group → Group) (h : s.memoriesWf = true) :
    (s.modGroup team gid f).memoriesWf = true :=
  s.modTeam_wf team _ h fun _ h1 h2 => ⟨h1, h2⟩

end Sys2Proof.Machine
end

