-- ==== Sys2Proof/Laws/PerInstr.lean ====
section
/-! SUPPORT. What holds of every constructor of Instr as syntax: an instruction has a word of exactly the kind that its view names, and an
event has none. -/

namespace Sys2Proof.Laws.Coding

/-- A scalar instruction has a scalar word and no lane word, a lane instruction the reverse, an event neither. -/
def Statement (i : Instr) : Prop :=
  match i.view with
  | .scalar => (encodeScalar i).isSome = true ∧ encodeLane i = none
  | .event => encodeScalar i = none ∧ encodeLane i = none
  | _ => encodeScalar i = none ∧ (encodeLane i).isSome = true

theorem add (sd sa sb : SReg) : Statement (.add sd sa sb) := ⟨rfl, rfl⟩
theorem sub (sd sa sb : SReg) : Statement (.sub sd sa sb) := ⟨rfl, rfl⟩
theorem mul (sd sa sb : SReg) : Statement (.mul sd sa sb) := ⟨rfl, rfl⟩
theorem mulhi (sd sa sb : SReg) : Statement (.mulhi sd sa sb) := ⟨rfl, rfl⟩
theorem mulhu (sd sa sb : SReg) : Statement (.mulhu sd sa sb) := ⟨rfl, rfl⟩
theorem and (sd sa sb : SReg) : Statement (.and sd sa sb) := ⟨rfl, rfl⟩
theorem or (sd sa sb : SReg) : Statement (.or sd sa sb) := ⟨rfl, rfl⟩
theorem xor (sd sa sb : SReg) : Statement (.xor sd sa sb) := ⟨rfl, rfl⟩
theorem shl (sd sa sb : SReg) : Statement (.shl sd sa sb) := ⟨rfl, rfl⟩
theorem shr (sd sa sb : SReg) : Statement (.shr sd sa sb) := ⟨rfl, rfl⟩
theorem sra (sd sa sb : SReg) : Statement (.sra sd sa sb) := ⟨rfl, rfl⟩
theorem min (sd sa sb : SReg) : Statement (.min sd sa sb) := ⟨rfl, rfl⟩
theorem max (sd sa sb : SReg) : Statement (.max sd sa sb) := ⟨rfl, rfl⟩
theorem minu (sd sa sb : SReg) : Statement (.minu sd sa sb) := ⟨rfl, rfl⟩
theorem maxu (sd sa sb : SReg) : Statement (.maxu sd sa sb) := ⟨rfl, rfl⟩
theorem slt (sd sa sb : SReg) : Statement (.slt sd sa sb) := ⟨rfl, rfl⟩
theorem sltu (sd sa sb : SReg) : Statement (.sltu sd sa sb) := ⟨rfl, rfl⟩
theorem seq (sd sa sb : SReg) : Statement (.seq sd sa sb) := ⟨rfl, rfl⟩
theorem divu (sd sa sb : SReg) : Statement (.divu sd sa sb) := ⟨rfl, rfl⟩
theorem remu (sd sa sb : SReg) : Statement (.remu sd sa sb) := ⟨rfl, rfl⟩
theorem popc (sd sa : SReg) : Statement (.popc sd sa) := ⟨rfl, rfl⟩
theorem clz (sd sa : SReg) : Statement (.clz sd sa) := ⟨rfl, rfl⟩
theorem ctz (sd sa : SReg) : Statement (.ctz sd sa) := ⟨rfl, rfl⟩
theorem brev (sd sa : SReg) : Statement (.brev sd sa) := ⟨rfl, rfl⟩
theorem addi (sd sa : SReg) (imm : BitVec 16) : Statement (.addi sd sa imm) := ⟨rfl, rfl⟩
theorem andi (sd sa : SReg) (imm : BitVec 16) : Statement (.andi sd sa imm) := ⟨rfl, rfl⟩
theorem ori (sd sa : SReg) (imm : BitVec 16) : Statement (.ori sd sa imm) := ⟨rfl, rfl⟩
theorem xori (sd sa : SReg) (imm : BitVec 16) : Statement (.xori sd sa imm) := ⟨rfl, rfl⟩
theorem shli (sd sa : SReg) (sh : BitVec 5) : Statement (.shli sd sa sh) := ⟨rfl, rfl⟩
theorem shri (sd sa : SReg) (sh : BitVec 5) : Statement (.shri sd sa sh) := ⟨rfl, rfl⟩
theorem srai (sd sa : SReg) (sh : BitVec 5) : Statement (.srai sd sa sh) := ⟨rfl, rfl⟩
theorem slti (sd sa : SReg) (imm : BitVec 16) : Statement (.slti sd sa imm) := ⟨rfl, rfl⟩
theorem lui (sd : SReg) (imm : BitVec 16) : Statement (.lui sd imm) := ⟨rfl, rfl⟩
theorem muli (sd sa : SReg) (imm : BitVec 16) : Statement (.muli sd sa imm) := ⟨rfl, rfl⟩
theorem sld (sd sa : SReg) (imm : BitVec 16) : Statement (.sld sd sa imm) := ⟨rfl, rfl⟩
theorem sld2 (sd sa : SReg) (imm : BitVec 16) : Statement (.sld2 sd sa imm) := ⟨rfl, rfl⟩
theorem sst (sd sa : SReg) (imm : BitVec 16) : Statement (.sst sd sa imm) := ⟨rfl, rfl⟩
theorem sst2 (sd sa : SReg) (imm : BitVec 16) : Statement (.sst2 sd sa imm) := ⟨rfl, rfl⟩
theorem satom (sd sa sb : SReg) (f : SatomFields) : Statement (.satom sd sa sb f) := ⟨rfl, rfl⟩
theorem b (off : BitVec 21) : Statement (.b off) := ⟨rfl, rfl⟩
theorem bz (c : SReg) (off : BitVec 21) : Statement (.bz c off) := ⟨rfl, rfl⟩
theorem bnz (c : SReg) (off : BitVec 21) : Statement (.bnz c off) := ⟨rfl, rfl⟩
theorem bany (p : BitVec 3) (neg : Bool) (off : BitVec 21) : Statement (.bany p neg off) := ⟨rfl, rfl⟩
theorem ball (p : BitVec 3) (neg : Bool) (off : BitVec 21) : Statement (.ball p neg off) := ⟨rfl, rfl⟩
theorem bnone (p : BitVec 3) (neg : Bool) (off : BitVec 21) : Statement (.bnone p neg off) := ⟨rfl, rfl⟩
theorem split (p : BitVec 3) (neg : Bool) (off : BitVec 21) : Statement (.split p neg off) := ⟨rfl, rfl⟩
theorem call (off : BitVec 21) : Statement (.call off) := ⟨rfl, rfl⟩
theorem ret : Statement (.ret) := ⟨rfl, rfl⟩
theorem bx (sa : SReg) : Statement (.bx sa) := ⟨rfl, rfl⟩
theorem run (p : BitVec 3) (neg : Bool) (index : BitVec 21) : Statement (.run p neg index) := ⟨rfl, rfl⟩
theorem runx (sa : SReg) (p : BitVec 3) (neg : Bool) : Statement (.runx sa p neg) := ⟨rfl, rfl⟩
theorem waitk (mask : BitVec 12) : Statement (.waitk mask) := ⟨rfl, rfl⟩
theorem mtc (sa : SReg) (r : MtcReg) : Statement (.mtc sa r) := by cases r <;> exact ⟨rfl, rfl⟩
theorem mtcExec (sa : SReg) : Statement (.mtcExec sa) := ⟨rfl, rfl⟩
theorem mtcTcfg (sa : SReg) (n : BitVec 4) : Statement (.mtcTcfg sa n) := ⟨rfl, rfl⟩
theorem mtcBd (sa : SReg) (n : BitVec 4) : Statement (.mtcBd sa n) := ⟨rfl, rfl⟩
theorem mtcQdep (sa : SReg) (n : BitVec 4) : Statement (.mtcQdep sa n) := ⟨rfl, rfl⟩
theorem mtcG (sa : SReg) (n : BitVec 3) : Statement (.mtcG sa n) := ⟨rfl, rfl⟩
theorem mtcFabw (sa : SReg) : Statement (.mtcFabw sa) := ⟨rfl, rfl⟩
theorem mfc (sd : SReg) (r : BitVec 12) : Statement (.mfc sd r) := ⟨rfl, rfl⟩
theorem cpy (sd sa sb : SReg) (bar : Bool) (q : BitVec 3) : Statement (.cpy sd sa sb bar q) := ⟨rfl, rfl⟩
theorem cpys (sd sa sb : SReg) (bar : Bool) (q : BitVec 3) : Statement (.cpys sd sa sb bar q) := ⟨rfl, rfl⟩
theorem mloop (sd sa : SReg) (z : Bool) (tc ta : BitVec 4) : Statement (.mloop sd sa z tc ta) := ⟨rfl, rfl⟩
theorem mloopSbp (sd sa : SReg) (z : Bool) (tc ta : BitVec 4) : Statement (.mloopSbp sd sa z tc ta) := ⟨rfl, rfl⟩
theorem mloopDirect (sd sa sb : SReg) (z : Bool) (tc ta : BitVec 4) : Statement (.mloopDirect sd sa sb z tc ta) := ⟨rfl, rfl⟩
theorem siph (sd sa : SReg) (q : BitVec 3) : Statement (.siph sd sa q) := ⟨rfl, rfl⟩
theorem lnch (sd sa : SReg) (atEnd : Bool) : Statement (.lnch sd sa atEnd) := ⟨rfl, rfl⟩
theorem barMark (sd sa : SReg) : Statement (.barMark sd sa) := ⟨rfl, rfl⟩
theorem barHold (sd sa sb : SReg) : Statement (.barHold sd sa sb) := ⟨rfl, rfl⟩
theorem barJoin (sd sa : SReg) : Statement (.barJoin sd sa) := ⟨rfl, rfl⟩
theorem barOwe (sd sa sb : SReg) : Statement (.barOwe sd sa sb) := ⟨rfl, rfl⟩
theorem barMarkn (sd sa sb : SReg) : Statement (.barMarkn sd sa sb) := ⟨rfl, rfl⟩
theorem fence (lanes : Bool) (kind : BitVec 2) (scope : BitVec 3) : Statement (.fence lanes kind scope) := ⟨rfl, rfl⟩
theorem qfence (mask : BitVec 8) : Statement (.qfence mask) := ⟨rfl, rfl⟩
theorem stepq (sd sb : SReg) (nb : Bool) : Statement (.stepq sd sb nb) := ⟨rfl, rfl⟩
theorem stepp (sd sb : SReg) (nb : Bool) : Statement (.stepp sd sb nb) := ⟨rfl, rfl⟩
theorem trap (code : BitVec 16) : Statement (.trap code) := ⟨rfl, rfl⟩
theorem exit : Statement (.exit) := ⟨rfl, rfl⟩
theorem yield : Statement (.yield) := ⟨rfl, rfl⟩
theorem nop : Statement (.nop) := ⟨rfl, rfl⟩
theorem iadd (f : LA) : Statement (.iadd f) := ⟨rfl, rfl⟩
theorem isub (f : LA) : Statement (.isub f) := ⟨rfl, rfl⟩
theorem imul (f : LA) : Statement (.imul f) := ⟨rfl, rfl⟩
theorem imulhi (f : LA) : Statement (.imulhi f) := ⟨rfl, rfl⟩
theorem imad (f : LA) : Statement (.imad f) := ⟨rfl, rfl⟩
theorem imin (f : LA) : Statement (.imin f) := ⟨rfl, rfl⟩
theorem imax (f : LA) : Statement (.imax f) := ⟨rfl, rfl⟩
theorem iabs (f : LA) : Statement (.iabs f) := ⟨rfl, rfl⟩
theorem laneAnd (f : LA) : Statement (.laneAnd f) := ⟨rfl, rfl⟩
theorem laneOr (f : LA) : Statement (.laneOr f) := ⟨rfl, rfl⟩
theorem laneXor (f : LA) : Statement (.laneXor f) := ⟨rfl, rfl⟩
theorem not (f : LA) : Statement (.not f) := ⟨rfl, rfl⟩
theorem laneShl (f : LA) : Statement (.laneShl f) := ⟨rfl, rfl⟩
theorem laneShr (f : LA) : Statement (.laneShr f) := ⟨rfl, rfl⟩
theorem laneSra (f : LA) : Statement (.laneSra f) := ⟨rfl, rfl⟩
theorem rot (f : LA) : Statement (.rot f) := ⟨rfl, rfl⟩
theorem lanePopc (f : LA) : Statement (.lanePopc f) := ⟨rfl, rfl⟩
theorem laneClz (f : LA) : Statement (.laneClz f) := ⟨rfl, rfl⟩
theorem laneBrev (f : LA) : Statement (.laneBrev f) := ⟨rfl, rfl⟩
theorem bfe (f : LA) : Statement (.bfe f) := ⟨rfl, rfl⟩
theorem bfi (f : LA) : Statement (.bfi f) := ⟨rfl, rfl⟩
theorem iaddc (f : LA) : Statement (.iaddc f) := ⟨rfl, rfl⟩
theorem isad (f : LA) : Statement (.isad f) := ⟨rfl, rfl⟩
theorem lea (f : LA) : Statement (.lea f) := ⟨rfl, rfl⟩
theorem idiv (f : LA) : Statement (.idiv f) := ⟨rfl, rfl⟩
theorem irem (f : LA) : Statement (.irem f) := ⟨rfl, rfl⟩
theorem mov (f : LA) : Statement (.mov f) := ⟨rfl, rfl⟩
theorem iclamp (f : LA) : Statement (.iclamp f) := ⟨rfl, rfl⟩
theorem fadd (f : LA) : Statement (.fadd f) := ⟨rfl, rfl⟩
theorem fsub (f : LA) : Statement (.fsub f) := ⟨rfl, rfl⟩
theorem fmul (f : LA) : Statement (.fmul f) := ⟨rfl, rfl⟩
theorem ffma (f : LA) : Statement (.ffma f) := ⟨rfl, rfl⟩
theorem fmin (f : LA) : Statement (.fmin f) := ⟨rfl, rfl⟩
theorem fmax (f : LA) : Statement (.fmax f) := ⟨rfl, rfl⟩
theorem fminnum (f : LA) : Statement (.fminnum f) := ⟨rfl, rfl⟩
theorem frnd (f : LA) : Statement (.frnd f) := ⟨rfl, rfl⟩
theorem fscale (f : LA) : Statement (.fscale f) := ⟨rfl, rfl⟩
theorem fclass (f : LA) : Statement (.fclass f) := ⟨rfl, rfl⟩
theorem fdot2 (f : LA) : Statement (.fdot2 f) := ⟨rfl, rfl⟩
theorem fdot4 (f : LA) : Statement (.fdot4 f) := ⟨rfl, rfl⟩
theorem fmid (f : LA) : Statement (.fmid f) := ⟨rfl, rfl⟩
theorem ffract (f : LA) : Statement (.ffract f) := ⟨rfl, rfl⟩
theorem fcopysign (f : LA) : Statement (.fcopysign f) := ⟨rfl, rfl⟩
theorem cvt (f : LA) : Statement (.cvt f) := ⟨rfl, rfl⟩
theorem cvtb (f : LA) : Statement (.cvtb f) := ⟨rfl, rfl⟩
theorem pack (f : LA) : Statement (.pack f) := ⟨rfl, rfl⟩
theorem unpk (f : LA) : Statement (.unpk f) := ⟨rfl, rfl⟩
theorem icmp (f : LA) : Statement (.icmp f) := ⟨rfl, rfl⟩
theorem fcmp (f : LA) : Statement (.fcmp f) := ⟨rfl, rfl⟩
theorem sel (f : LA) : Statement (.sel f) := ⟨rfl, rfl⟩
theorem pset (f : LA) : Statement (.pset f) := ⟨rfl, rfl⟩
theorem pmov (f : LA) : Statement (.pmov f) := ⟨rfl, rfl⟩
theorem vote (f : LA) : Statement (.vote f) := ⟨rfl, rfl⟩
theorem shfl (f : LA) : Statement (.shfl f) := ⟨rfl, rfl⟩
theorem shfli (f : LA) : Statement (.shfli f) := ⟨rfl, rfl⟩
theorem qmix (f : LA) : Statement (.qmix f) := ⟨rfl, rfl⟩
theorem xpose (f : LA) : Statement (.xpose f) := ⟨rfl, rfl⟩
theorem bcast (f : LA) : Statement (.bcast f) := ⟨rfl, rfl⟩
theorem compact (f : LA) : Statement (.compact f) := ⟨rfl, rfl⟩
theorem mapget (f : LA) : Statement (.mapget f) := ⟨rfl, rfl⟩
theorem mapset (f : LA) : Statement (.mapset f) := ⟨rfl, rfl⟩
theorem mat (f : LA) : Statement (.mat f) := ⟨rfl, rfl⟩
theorem permld (f : LA) : Statement (.permld f) := ⟨rfl, rfl⟩
theorem scan (f : LA) : Statement (.scan f) := ⟨rfl, rfl⟩
theorem dacc (f : LA) : Statement (.dacc f) := ⟨rfl, rfl⟩
theorem wrnd (f : LA) : Statement (.wrnd f) := ⟨rfl, rfl⟩
theorem wclr (f : LA) : Statement (.wclr f) := ⟨rfl, rfl⟩
theorem wadd (f : LA) : Statement (.wadd f) := ⟨rfl, rfl⟩
theorem wmov (f : LA) : Statement (.wmov f) := ⟨rfl, rfl⟩
theorem ld (f : LM) : Statement (.ld f) := ⟨rfl, rfl⟩
theorem st (f : LM) : Statement (.st f) := ⟨rfl, rfl⟩
theorem ldb (f : LM) : Statement (.ldb f) := ⟨rfl, rfl⟩
theorem stb (f : LM) : Statement (.stb f) := ⟨rfl, rfl⟩
theorem lds (f : LM) : Statement (.lds f) := ⟨rfl, rfl⟩
theorem sts (f : LM) : Statement (.sts f) := ⟨rfl, rfl⟩
theorem ldw (f : LM) : Statement (.ldw f) := ⟨rfl, rfl⟩
theorem stw (f : LM) : Statement (.stw f) := ⟨rfl, rfl⟩
theorem ldt (f : LM) : Statement (.ldt f) := ⟨rfl, rfl⟩
theorem atom (f : LM) : Statement (.atom f) := ⟨rfl, rfl⟩
theorem atoms (f : LM) : Statement (.atoms f) := ⟨rfl, rfl⟩
theorem atomw (f : LM) : Statement (.atomw f) := ⟨rfl, rfl⟩
theorem conf (f : LM) : Statement (.conf f) := ⟨rfl, rfl⟩
theorem tagld (f : LM) : Statement (.tagld f) := ⟨rfl, rfl⟩
theorem tagst (f : LM) : Statement (.tagst f) := ⟨rfl, rfl⟩
theorem pref (f : LM) : Statement (.pref f) := ⟨rfl, rfl⟩
theorem qcnt (f : LM) : Statement (.qcnt f) := ⟨rfl, rfl⟩
theorem rcp (f : LA) : Statement (.rcp f) := ⟨rfl, rfl⟩
theorem rsq (f : LA) : Statement (.rsq f) := ⟨rfl, rfl⟩
theorem sqrt (f : LA) : Statement (.sqrt f) := ⟨rfl, rfl⟩
theorem exp2 (f : LA) : Statement (.exp2 f) := ⟨rfl, rfl⟩
theorem log2 (f : LA) : Statement (.log2 f) := ⟨rfl, rfl⟩
theorem sin (f : LA) : Statement (.sin f) := ⟨rfl, rfl⟩
theorem cos (f : LA) : Statement (.cos f) := ⟨rfl, rfl⟩
theorem tanh (f : LA) : Statement (.tanh f) := ⟨rfl, rfl⟩
theorem erf (f : LA) : Statement (.erf f) := ⟨rfl, rfl⟩
theorem expr (f : LX) : Statement (.expr f) := ⟨rfl, rfl⟩
theorem ivmk (f : LA) : Statement (.ivmk f) := ⟨rfl, rfl⟩
theorem ivlo (f : LA) : Statement (.ivlo f) := ⟨rfl, rfl⟩
theorem ivhi (f : LA) : Statement (.ivhi f) := ⟨rfl, rfl⟩
theorem ivtest (f : LA) : Statement (.ivtest f) := ⟨rfl, rfl⟩
theorem nopl (f : LA) : Statement (.nopl f) := ⟨rfl, rfl⟩
theorem ltrap (f : LA) : Statement (.ltrap f) := ⟨rfl, rfl⟩
theorem lclk (f : LA) : Statement (.lclk f) := ⟨rfl, rfl⟩
theorem clauseFetch (r : SplitRef) : Statement (.clauseFetch r) := ⟨rfl, rfl⟩
theorem clauseIssue (r : SplitRef) : Statement (.clauseIssue r) := ⟨rfl, rfl⟩
theorem operationComplete (op : Nat) : Statement (.operationComplete op) := ⟨rfl, rfl⟩
theorem teamDispatch (team : Nat) : Statement (.teamDispatch team) := ⟨rfl, rfl⟩
theorem stealRequest (thief victim : Nat) : Statement (.stealRequest thief victim) := ⟨rfl, rfl⟩
theorem stealAnswer (thief : Nat) : Statement (.stealAnswer thief) := ⟨rfl, rfl⟩
theorem passGroupStart (team : Nat) : Statement (.passGroupStart team) := ⟨rfl, rfl⟩
theorem passInstructionLimit (team group : Nat) : Statement (.passInstructionLimit team group) := ⟨rfl, rfl⟩
theorem stageCounterRead (launch stage : Nat) : Statement (.stageCounterRead launch stage) := ⟨rfl, rfl⟩
theorem stageCounterPoll (launch stage : Nat) : Statement (.stageCounterPoll launch stage) := ⟨rfl, rfl⟩
theorem stageTeamSave (team : Nat) : Statement (.stageTeamSave team) := ⟨rfl, rfl⟩
theorem kick (asid : Nat) (value : DWord) : Statement (.kick asid value) := ⟨rfl, rfl⟩
theorem submissionSeqReread (asid : Nat) : Statement (.submissionSeqReread asid) := ⟨rfl, rfl⟩
theorem hostRegisterWrite (offset : Nat) (value : DWord) : Statement (.hostRegisterWrite offset value) := ⟨rfl, rfl⟩
theorem hostMemoryAccess (acc : HostAccess) : Statement (.hostMemoryAccess acc) := ⟨rfl, rfl⟩
theorem invalidate (asid : Nat) : Statement (.invalidate asid) := ⟨rfl, rfl⟩
theorem invalidateCompletion (asid : Nat) : Statement (.invalidateCompletion asid) := ⟨rfl, rfl⟩
theorem preEmpt (asid : Nat) : Statement (.preEmpt asid) := ⟨rfl, rfl⟩
theorem cancel (asid : Nat) : Statement (.cancel asid) := ⟨rfl, rfl⟩
theorem resumeContext (asid : Nat) : Statement (.resumeContext asid) := ⟨rfl, rfl⟩
theorem faultResume (asid : Nat) : Statement (.faultResume asid) := ⟨rfl, rfl⟩
theorem faultAbandon (asid : Nat) : Statement (.faultAbandon asid) := ⟨rfl, rfl⟩
theorem contextSave (team : Nat) : Statement (.contextSave team) := ⟨rfl, rfl⟩
theorem drainOverrun (team : Nat) : Statement (.drainOverrun team) := ⟨rfl, rfl⟩
theorem contextRestore (team core : Nat) : Statement (.contextRestore team core) := ⟨rfl, rfl⟩
theorem trapRecordWrite (asid : Nat) : Statement (.trapRecordWrite asid) := ⟨rfl, rfl⟩
theorem watchdog (team group : Nat) : Statement (.watchdog team group) := ⟨rfl, rfl⟩
theorem remoteLost (team group : Nat) (node : Nat) : Statement (.remoteLost team group node) := ⟨rfl, rfl⟩
theorem linkFailure (node : Nat) : Statement (.linkFailure node) := ⟨rfl, rfl⟩
theorem linkRecovery (node : Nat) : Statement (.linkRecovery node) := ⟨rfl, rfl⟩
theorem fabricRecoveryLimit (node : Nat) : Statement (.fabricRecoveryLimit node) := ⟨rfl, rfl⟩
theorem peerLossNotice (node : Nat) : Statement (.peerLossNotice node) := ⟨rfl, rfl⟩
theorem fabricRequest (req : FabricRequest) : Statement (.fabricRequest req) := ⟨rfl, rfl⟩
theorem pumpSector (cmd : Nat) (remote : RemoteInput) : Statement (.pumpSector cmd remote) := ⟨rfl, rfl⟩
theorem mloopStep (loop : Nat) : Statement (.mloopStep loop) := ⟨rfl, rfl⟩
theorem barrierReturn (r : SplitRef) : Statement (.barrierReturn r) := ⟨rfl, rfl⟩
theorem siphonGateRead (cmd : Nat) : Statement (.siphonGateRead cmd) := ⟨rfl, rfl⟩
theorem siphonChunk (msg : ChunkMsg) : Statement (.siphonChunk msg) := ⟨rfl, rfl⟩
theorem siphonFaultNotice (at_ : SiphonAt) (buf : DWord) (node : Nat) : Statement (.siphonFaultNotice at_ buf node) := ⟨rfl, rfl⟩
theorem siphonMemberDeadline (cmd node : Nat) : Statement (.siphonMemberDeadline cmd node) := ⟨rfl, rfl⟩
theorem loadSatisfy (op : Nat) : Statement (.loadSatisfy op) := ⟨rfl, rfl⟩
theorem writeMove (op : Nat) : Statement (.writeMove op) := ⟨rfl, rfl⟩
theorem writeHome (op : Nat) : Statement (.writeHome op) := ⟨rfl, rfl⟩
theorem recordApply (die home : Nat) : Statement (.recordApply die home) := ⟨rfl, rfl⟩
theorem epochCompare (team : Nat) : Statement (.epochCompare team) := ⟨rfl, rfl⟩
theorem softError (err : SoftErr) : Statement (.softError err) := ⟨rfl, rfl⟩
theorem suspicionDecay (u : HwUnit) : Statement (.suspicionDecay u) := ⟨rfl, rfl⟩
theorem wellDrainTimeout (u : HwUnit) : Statement (.wellDrainTimeout u) := ⟨rfl, rfl⟩
theorem unitTest (u : HwUnit) (pass : Bool) : Statement (.unitTest u pass) := ⟨rfl, rfl⟩
theorem reset : Statement (.reset) := ⟨rfl, rfl⟩
theorem firmwareVerify (image : List Byte) : Statement (.firmwareVerify image) := ⟨rfl, rfl⟩
theorem bringUp (cfg : BringUpInput) : Statement (.bringUp cfg) := ⟨rfl, rfl⟩
theorem powerCap (watts : Nat) : Statement (.powerCap watts) := ⟨rfl, rfl⟩
theorem thermalThrottle (up : Bool) : Statement (.thermalThrottle up) := ⟨rfl, rfl⟩
theorem thermalHalt : Statement (.thermalHalt) := ⟨rfl, rfl⟩
theorem illegalEncoding (w : Word) : Statement (.illegalEncoding w) := ⟨rfl, rfl⟩
theorem scalarFetch (why : FetchFault) : Statement (.scalarFetch why) := ⟨rfl, rfl⟩
theorem copyStart (cmd : Nat) : Statement (.copyStart cmd) := ⟨rfl, rfl⟩
theorem collectiveStart (cmd : Nat) : Statement (.collectiveStart cmd) := ⟨rfl, rfl⟩
theorem preEmptHoldEnd (asid : Nat) : Statement (.preEmptHoldEnd asid) := ⟨rfl, rfl⟩
theorem hostCompletion (op : Nat) : Statement (.hostCompletion op) := ⟨rfl, rfl⟩
theorem fabwApply (asid : Nat) : Statement (.fabwApply asid) := ⟨rfl, rfl⟩

end Sys2Proof.Laws.Coding
end

