-- ==== Sys2Proof/Tests/Slice0.lean ====
section
/-! SUPPORT. The model's own tests: ill-formed instructions that WellFormed refuses, words written out from spec/ that decode to what they
stand for, single steps, and for every statement states and operands that meet its hypotheses. -/

namespace Sys2Proof.Tests

set_option Elab.async false

open Sys2Proof.Machine

/-! Small states. -/

/-- The split that runs the placed program: team 1, group 0, split 0. -/
def ref : SplitRef := { team := 1, group := 0, split := 0 }

/-- Reset with a placed program, its split issuing. -/
def base : State := { State.reset.withProgram with focus := some ref }

/-- The group changed. -/
def withGroup (s : State) (f : Group → Group) : State := s.modGroup 1 0 f
/-- The split changed. -/
def withSplit (s : State) (f : Split → Split) : State := s.modSplit ref f
/-- The launch changed. -/
def withRecord (s : State) (f : LaunchRec → LaunchRec) : State := s.modLaunch 1 fun l => { l with record := f l.record }
/-- Scalar registers written. -/
def withRegs (s : State) (rs : List (SReg × Word)) : State := withGroup s fun g => rs.foldl (fun g r => g.writeS 0 r.1 r.2) g
/-- Bytes at a virtual address of the placed ASID, at every home and view. -/
def withBytes (s : State) (va : Nat) (bs : List Byte) : State := s.place (0x40000000 + va) bs

/-- A team of one group, for totals. -/
def idleTeam : Team := placedTeam 1 1
def idleGroup : Group := elementGroup placedRecord idleTeam 0 2 0xFFFFFFFF
def idleSplit : Split := { sid := 2, set := firstSet 2 0x1000 0xFFFFFFFF, stack := [], overflow := [], status := .running }

/-- The split that issues at a state. -/
def at_ (s : State) : Issuer :=
  s.issuer?.getD { ref := ref, team := idleTeam, group := idleGroup, split := idleSplit, launch := placedLaunch 1 }

/-- The state after an instruction, the state before where there is none. -/
def after (o : Out State) (s : State) : State := match o with | .next t => t | _ => s
/-- An instruction gives a next state. -/
def runs (o : Out State) : Bool := match o with | .next _ => true | _ => false
/-- A value is there. -/
def there {α : Type} (o : Option α) (p : α → Bool) : Bool := match o with | some a => p a | none => false
/-- A result is there, and an error is. -/
def good {ε α : Type} (o : Except ε α) (p : α → Bool) : Bool := match o with | .ok a => p a | .error _ => false
def bad {ε α : Type} (o : Except ε α) (p : ε → Bool) : Bool := match o with | .error e => p e | .ok _ => false

/-- The placed group as a pass group that stands for one sub-tile. -/
def passing : State :=
  base.modTeam 1 fun t => { t with
    groups := [passGroup placedRecord t 0 2 0 [{ group := 0, sub := 0, x := (0, 31), y := (0, 0), z := (0, 0) }]]
    pass := some { level := 0, todo := [], judged := [], proofs := [], mapDone := false, mapOps := [], released := false } }

/-- The placed split divided: split 1 holds the upper sixteen lanes and stands at a PC. -/
def divided (pc : DWord) : State :=
  withGroup base fun g =>
    (g.modSplit 0 fun p => p.modSet fun e => { e with own := 0xFFFF, exec := 0xFFFF }).setSplit 1
      (some { sid := 9, set := firstSet 9 pc 0xFFFF0000, stack := [], overflow := [], status := .running })

/-- A scalar instruction issues at a state; one that an engine command's token register may still keep waiting. -/
def ready (s : State) (i : Instr) : Bool :=
  s.issuer?.isSome && !s.stopped (at_ s) && i.scalarWf && !((scalarReads i ++ scalarWrites i).any ((at_ s).group.busyReg (at_ s).ref.split)) &&
  !s.epochDue (at_ s).team
def readyCmd (s : State) (i : Instr) (tok : SReg) : Bool :=
  s.issuer?.isSome && !s.stopped (at_ s) && i.scalarWf && !((scalarReads i).any ((at_ s).group.busyReg (at_ s).ref.split)) &&
  !(at_ s).group.busyResult (at_ s).ref.split tok && !s.epochDue (at_ s).team

theorem issuer_at (s : State) (h : s.issuer?.isSome = true) : s.issuer? = some (at_ s) := by
  unfold at_
  cases hs : s.issuer? with
  | none => simp [hs] at h
  | some c => rfl

/-- `ready` is the hypothesis of the statements about scalar instructions, for the split that issues. -/
theorem scalarReady_of_ready (s : State) (i : Instr) (h : ready s i = true) : ScalarReady s (at_ s) i := by
  simp only [ready, Bool.and_eq_true, Bool.not_eq_true'] at h
  exact ⟨issuer_at s h.1.1.1.1, h.1.1.1.2, h.1.1.2, h.1.2, h.2⟩

theorem commandReady_of_ready (s : State) (i : Instr) (tok : SReg) (h : readyCmd s i tok = true) : CommandReady s (at_ s) i tok := by
  simp only [readyCmd, Bool.and_eq_true, Bool.not_eq_true'] at h
  exact ⟨issuer_at s h.1.1.1.1.1, h.1.1.1.1.2, h.1.1.1.2, h.1.1.2, h.1.2, h.2⟩

/-- No core holds a leaf. -/
def cold (s : State) : State := { s with cores := [] }

/-- A read that an instruction, a command or a loop of an agent makes under a key, with the bytes that have come for it. -/
def readOp (agent : Agent) (uid key : Nat) (got : Option (List Byte)) : MemOp :=
  { blankOp agent 1 .load .mem (0x40000000 + key) 32 with id := 70 + key, uid := uid, dest := .engine key, result := got }

/-- The reads that a split's instruction has made, in order. -/
def withReads (s : State) (l : List (Nat × Option (List Byte))) : State :=
  { s with ops := s.ops ++ l.map fun x => readOp (.group 1 0 0) (at_ s).uid x.1 x.2 }

/-- The placed state, with no leaf in a core, with a command at the head of its queue. -/
def commanded (s : State) (kind : CmdKind) : State :=
  let s := cold s
  { withGroup s fun g => { g with engines := vset g.engines 7 [.cmd 50] } with
    cmds := [{ id := 50, team := 1, group := 0, uid := 2, asid := 1, pc := 0x1000, tok := 9, queue := 7, word := 0, kind := kind, past := []
               ending := none }] }

/-- The command that acts. -/
def acting (s : State) : Active :=
  let cmd : Cmd := { id := 0, team := 0, group := 0, uid := 0, asid := 0, pc := 0, tok := 0, queue := 0, word := 0, kind := .echo 0, past := []
                     ending := none }
  (s.active? 50).getD { cmd := cmd, team := idleTeam, group := idleGroup, launch := placedLaunch 1 }

/-- A command's reads, with what has come for them. -/
def cmdReads (s : State) (l : List (Nat × Option (List Byte))) : State :=
  { s with ops := s.ops ++ l.map fun x => readOp (.engine 1 0 0 50) 2 x.1 x.2 }

/-! Hypotheses that can be met: scalar instructions. -/

theorem witness_ScalarArithmeticResults :
    ready base (.add 6 8 10) = true ∧ aluResult (at_ base).read (.add 6 8 10) = some (6, 0) ∧
    ready passing (.muli 6 8 0x8000) = true ∧ (aluResult (at_ passing).read (.muli 6 8 0x8000)).isSome = true := by decide +kernel

theorem witness_RetireUndivided :
    (base.group? 1 0).isSome = true ∧ (at_ base).group.whole = true ∧ ((at_ base).group.split? 0).isSome = true := by decide +kernel

theorem witness_ScalarRegisterFile : ((at_ base).group.split? 0).isSome = true ∧ ((at_ (divided 0x2000)).group.split? 1).isSome = true ∧
    base.issuer?.isSome = true ∧ base.stopped (at_ base) = false ∧ (∀ i ∈ [Instr.sst2 4 31 0, .mloopDirect 9 4 7 false 0 0], pairsNamed i ≠ []) := by
  decide +kernel

/-- Frame: an ALU instruction, a call, and an aligned return. -/
theorem witness_ScalarRegisterFrame :
    (∀ i ∈ [Instr.lui 31 0xFFFF, .call 0, .ret, .nop, .bz 9 0x1FFFFF], ready base i = true ∧ (plainWrites i).isSome = true ∧
      (at_ base).group.whole = true ∧ (at_ base).inPass = false ∧ jumpAligned (at_ base) i = true ∧ runs (exec i base) = true) := by decide +kernel

theorem witness_BranchesAndCalls :
    let s := withRegs base [(5, 0x3001), (31, 2), (7, 0xFFFFFFFC)]
    ready s (.b 0x100000) = true ∧ ready s (.bz 5 0) = true ∧ ready s (.bnz 0 0) = true ∧ ready s (.call 0x0FFFFF) = true ∧
    ready base .ret = true ∧ ((at_ base).read 31).toNat % 4 = 0 ∧ ready s (.bx 7) = true ∧ ((at_ s).read 7).toNat % 4 = 0 ∧
    ready s .ret = true ∧ ((at_ s).read 31).toNat % 4 ≠ 0 ∧ ready s (.bx 5) = true ∧ ((at_ s).read 5).toNat % 4 ≠ 0 ∧
    (at_ s).inPass = false := by decide +kernel

/-- Branches on predicates: none of the lanes holds, one does, all do, and EXEC is empty. -/
theorem witness_PredicateBranches :
    let p (m : Mask) : State := withGroup base fun g => { g with p := vset g.p 1 m }
    let e : State := withSplit base fun q => q.modSet fun x => { x with exec := 0 }
    let holds (s : State) (l : Fin 32) : Bool := ((at_ s).group.pred 1).has l != false
    (∀ s ∈ [p 0, p 0x80000000, p 0xFFFFFFFF, e], (at_ s).inPass = false ∧ s.predPending (at_ s) 1 = false ∧
      ready s (.bany 1 false 5) = true ∧ ready s (.ball 1 false 5) = true ∧ ready s (.bnone 1 false 5) = true) ∧
    (∀ l, holds (p 0) l = false) ∧ holds (p 0x80000000) 31 = true ∧ holds (p 0x80000000) 0 = false ∧ (∀ l, holds (p 0xFFFFFFFF) l = true) ∧
    (∀ l, (at_ e).exec.has l = false) := by decide +kernel

/-- A pass group whose p1 is decided true on lane 0, decided false on lane 2 and undecided on the others. -/
def deciding : State := withGroup passing fun g => { g with p := vset (vset g.p 2 1) 3 4 }

/-- Branches and divisions of a pass, on a field that a pass holds and on one that it does not. -/
theorem witness_PassBranches :
    let s := deciding
    (∀ p ∈ [1, 4, 7], ∀ i ∈ [Instr.bany p true 5, .ball p false 5, .bnone p true 5, .split p false 7], ready s i = true) ∧ (at_ s).inPass = true ∧
    s.predPending (at_ s) 1 = false ∧ (at_ s).bankBusy = false ∧ s.spillWaits (at_ s) = false ∧
    (at_ s).group.tri 1 false 0 = .yes ∧ (at_ s).group.tri 1 false 2 = .no ∧ (at_ s).group.tri 1 true 2 = .yes ∧
    (at_ s).group.tri 1 false 31 = .unk ∧ (at_ s).exec.has 31 = true := by decide +kernel

/-- A split of none, of all and of some of its lanes, with an unused number and with none. -/
theorem witness_SplitDivides :
    let p (m : Mask) : State := withGroup base fun g => { g with p := vset g.p 1 m }
    let four : State := withGroup (p 0x0000000F) fun g =>
      ((g.modSplit 0 fun q => q.modSet fun e => { e with own := 0xFF, exec := 0xFF }).setSplit 1 (some { idleSplit with set := firstSet 7 0x2000 0xFF00 })
        |>.setSplit 2 (some { idleSplit with set := firstSet 8 0x2000 0xFF0000 })).setSplit 3 (some { idleSplit with set := firstSet 9 0x2000 0xFF000000 })
    (∀ s ∈ [p 0, p 0xFFFFFFFF, p 1, four], ready s (.split 1 false 7) = true ∧ (at_ s).inPass = false ∧ s.predPending (at_ s) 1 = false ∧
      (at_ s).bankBusy = false) ∧
    (at_ (p 1)).group.split? 1 = none ∧ (at_ (p 1)).group.split? 0 ≠ none ∧ (∀ k, (at_ four).group.split? k ≠ none) ∧
    (at_ four).split.stack.length < 4 := by decide +kernel

/-- Four live splits above a full stack, with a context pool that can be written and one that cannot. -/
theorem witness_SplitDivides_overflow :
    let four (base_ : DWord) : State := (withGroup base fun g =>
      let e (k : Nat) : LaneSet := firstSet (20 + k) 0x3000 (BitVec.ofNat 32 (0x100 * 2 ^ k))
      ((({ g with p := vset g.p 1 1 } : Group).modSplit 0 fun q => { q.modSet (fun e => { e with own := 0xF, exec := 0xF }) with stack := [e 0, e 1, e 2, e 3] }).setSplit 1
          (some { idleSplit with set := firstSet 7 0x2000 0xF0000 })
        |>.setSplit 2 (some { idleSplit with set := firstSet 8 0x2000 0xF00000 })).setSplit 3 (some { idleSplit with set := firstSet 9 0x2000 0xF000000 })).setAsid
      { base.asid 1 with cpbase := base_, cpsize := 2 }
    let writes (s : State) : Except (AccessFault × DWord) State :=
      ({ s with fresh := s.fresh + 1 } : State).deviceWrite (at_ s).asid (s.slotAddr (at_ s).team (at_ s).launch.record 0 0) (firstSet 23 0x3000 0x800).bytes Leaf.isPool
    (∀ s ∈ [four 0, four 0x40000000], ready s (.split 1 false 7) = true ∧ (at_ s).inPass = false ∧ s.predPending (at_ s) 1 = false ∧
      (at_ s).bankBusy = false ∧ (∀ k, (at_ s).group.split? k ≠ none) ∧ (at_ s).split.stack.length = 4 ∧ s.spillFree = true ∧
      (at_ s).group.usedSlots = []) ∧ good (writes (four 0)) (fun _ => true) = true ∧ bad (writes (four 0x40000000)) (fun _ => true) = true := by
  decide +kernel

theorem witness_SplitsMerge :
    let s := divided 0x1000
    let g := (at_ s).group
    g.live.map (·.1) = [0, 1] ∧ (g.live.all fun x => x.2.set.pc == 0x1000 && x.2.stack.isEmpty && x.2.overflow.isEmpty &&
      !s.issuedAt { team := 1, group := 0, split := x.1 } x.2) = true ∧ (s.team? 1).isSome = true ∧ (s.launchOf (at_ s).team).isSome = true := by
  decide +kernel

theorem witness_RunQueuesClause :
    let s := withRegs base [(4, 0x1FFFFF)]
    ready s (.run 7 true 0x1FFFFF) = true ∧ ready s (.runx 4 7 true) = true ∧ (at_ s).inPass = false ∧
    (s.begun (at_ s) (.run 7 true 0x1FFFFF)).predPending ((at_ s).begun s (.run 7 true 0x1FFFFF)) 7 = false ∧
    (s.begun (at_ s) (.runx 4 7 true)).predPending ((at_ s).begun s (.runx 4 7 true)) 7 = false ∧ (at_ s).group.queueFull 0 = false := by
  decide +kernel

/-- In a pass, on a field that it holds and on one that it does not; and with the queue full. -/
theorem witness_RunQueuesClause_pass :
    let i : Instr := .run 1 true 0
    let full (s : State) : State := withGroup s fun g => { g with clauses := vset g.clauses 0 (List.replicate 8 (placedClause 3 2 .nop)) }
    ready deciding i = true ∧ ready deciding (.run 4 false 0) = true ∧ (at_ deciding).inPass = true ∧
    (deciding.begun (at_ deciding) i).predPending ((at_ deciding).begun deciding i) 1 = false ∧ (at_ deciding).group.queueFull 0 = false ∧
    (∀ s ∈ [full base, full deciding], ready s i = true ∧ (at_ s).group.queueFull 0 = true) := by decide +kernel

/-- A split with one deferred entry. -/
def deferred : State :=
  withSplit base fun p => { p.modSet (fun e => { e with own := 0xFFFF, exec := 0xFFFF }) with stack := [firstSet 9 0x2000 0xFFFF0000] }

theorem witness_WaitYieldNop :
    let k : State := withGroup base fun g => { g with k := vset g.k 11 1 }
    ready base .nop = true ∧ ready base .yield = true ∧ (at_ base).split.deferred = [] ∧
    ready deferred .yield = true ∧ (at_ deferred).bankBusy = false ∧ (at_ deferred).split.stack.length = 1 ∧
    (at_ deferred).split.overflow = [] ∧ ready k (.waitk 0) = true ∧ ready k (.waitk 0x7FF) = true ∧
    (at_ k).clauseNames 0x7FF = false ∧ (at_ k).group.idle 0x7FF = true ∧ ready k (.waitk 0x800) = true ∧
    (at_ k).group.idle 0x800 = false := by decide +kernel

/-- An exit with a clause still queued, one of a whole group, and one above a deferred entry. -/
theorem witness_ExitRetiresLanes :
    let w := after (exec (.run 0 true 4) base) base
    (∀ s ∈ [base, w, deferred], ready s .exit = true ∧ (at_ s).team.red = none) ∧
    (w.clausesDone (at_ w) && w.workDone (at_ w)) = false ∧ (base.clausesDone (at_ base) && base.workDone (at_ base)) = true ∧
    (at_ base).group.whole = true ∧ (at_ base).inPass = false ∧ (deferred.clausesDone (at_ deferred) && deferred.workDone (at_ deferred)) = true ∧
    (at_ deferred).split.stack.length = 1 ∧ (at_ deferred).split.overflow = [] ∧
    (at_ deferred).group.live = [((at_ deferred).ref.split, (at_ deferred).split)] := by decide +kernel

/-- One of two live splits. -/
theorem witness_ExitRetiresLanes_other :
    let s := divided 0x2000
    ready s .exit = true ∧ (at_ s).team.red = none ∧ (s.clausesDone (at_ s) && s.workDone (at_ s)) = true ∧ (at_ s).split.deferred = [] ∧
    (∀ k, ((at_ s).group.split? k).isSome = (k == 0 || k == 1)) ∧ there ((at_ s).group.split? 1) (fun q => q.deferred.isEmpty) = true := by
  decide +kernel

theorem witness_WriteExec :
    ready base (.mtcExec 3) = true ∧ ready passing (.mtcExec 3) = true ∧
    ((base.begun (at_ base) (.mtcExec 3)).group? 1 0).isSome = true := by decide +kernel

/-- Control registers: a queue depth of 8 with a budget of 8, one of 9, one beyond the budget; writes in one cycle by groups 2 and 5. -/
theorem witness_WriteControlRegisters :
    let s := withGroup (withRegs base [(3, 8), (4, 9)]) fun g => { g with qbud := 8 }
    let f := withGroup s fun g => { g with q := vset g.q 0 { depth := 1, entries := [] } }
    (∀ r ∈ [MtcReg.rmode, .ftzm, .lbase], ready s (.mtc 3 r) = true) ∧ ready s (.mtcTcfg 3 3) = true ∧ (at_ s).inPass = false ∧
    (3#4).toNat < (at_ s).launch.record.tiles ∧ s.tileBusy 1 3 = false ∧ ready s (.mtcQdep 3 15) = true ∧ ((at_ s).read 3).toNat ≤ 8 ∧
    (queueOf (at_ s).group 15).entries = [] ∧
    (((List.finRange 16).filter (· != (15#4).toFin)).map fun k => (at_ s).group.q[k].depth).sum + ((at_ s).read 3).toNat ≤ (at_ s).group.qbud ∧
    ready s (.mtcQdep 4 15) = true ∧ 8 < ((at_ s).read 4).toNat ∧ ready f (.mtcQdep 3 15) = true ∧
    (at_ f).group.qbud < (((List.finRange 16).filter (· != (15#4).toFin)).map fun k => (at_ f).group.q[k].depth).sum + ((at_ f).read 3).toNat ∧
    ready s (.mtcG 3 7) = true ∧ ready s (.mtcFabw 3) = true ∧
    (∀ x ∈ [s, passing], ready x (.mtcTcfg 3 4) = true ∧ (at_ x).launch.record.tiles ≤ (4#4).toNat) ∧
    (idleTeam.gregs[7]).cycle < 1 ∧ idleTeam.gpend = [] ∧ 2 < 5 ∧ 1 + 2 ≤ 3 := by decide +kernel

/-- Descriptors: an address that is misaligned, one beyond the ASID's tables, one whose read may issue and one whose read may not; a read that is
under way, one that came spoiled, once and again, and one that came with a valid descriptor or an invalid one. -/
theorem witness_LoadDescriptor :
    let s := withRegs base [(2, 8), (5, 0xFFFFF), (6, 0x3000)]
    let u (a : SReg) (s : State) : State := s.begun (at_ s) (.mtcBd a 14)
    let k (a : SReg) (s : State) : Issuer := (at_ s).begun s (.mtcBd a 14)
    let o (s : State) : MemOp := (k 6 s).op .load 0x40003000 16 .relaxed .device false
    let fenced : State := { withSplit s (fun p => p.modSet fun e => { e with past := [60] }) with ops :=
      [{ blankOp (.group 1 0 0) 1 .load .mem 0x40000100 4 with id := 60, uid := 2, order := .acquire }] }
    let got (f : MemOp → MemOp) : State := { s with ops := [f (readOp (.group 1 0 0) (at_ s).uid 0x3000 none)] }
    (∀ a ∈ [2#5, 4#5, 6#5], ∀ x ∈ [s, fenced, got id], ready x (.mtcBd a 14) = true ∧ (u a x).descFree (k a x) 14 = true) ∧
    (at_ s).inPass = false ∧ ((at_ s).pair 2).toNat % 16 ≠ 0 ∧ ((at_ s).pair 6).toNat = 0x3000 ∧
    (u 6 s).reading (k 6 s).agent (k 6 s).uid 0x3000 = none ∧ (u 4 s).reading (k 4 s).agent (k 4 s).uid ((at_ s).pair 4).toNat = none ∧
    bad ((u 4 s).checkAccess (some 0) 1 ((at_ s).pair 4) 16 .load Leaf.plainFmt) (fun f => f.1 == .translation) = true ∧
    good ((u 6 s).checkAccess (some 0) 1 0x3000 16 .load Leaf.plainFmt) (fun l => l.pa 0x3000 == 0x40003000 && !l.sc) = true ∧
    (u 6 s).canIssue [o s] = true ∧ (u 6 fenced).canIssue [o fenced] = false ∧
    (∀ f ∈ [fun o : MemOp => o, fun o => { o with result := some (List.replicate 16 0), flips := [3], again := false },
        fun o => { o with result := some (List.replicate 16 0), flips := [3], again := true }],
      there ((u 6 (got f)).reading (k 6 (got f)).agent (k 6 (got f)).uid 0x3000) (fun x => x.result.isNone || !x.intact) = true) ∧
    (∀ w ∈ [natLe 16 (16 * 2 ^ 64), List.replicate 16 0xFF],
      there ((u 6 (got fun o => { o with result := some w })).reading (k 6 (got fun o => { o with result := some w })).agent (at_ s).uid 0x3000)
        (fun x => x.result.isSome && x.intact && x.carried.map (·.1) == w) = true) ∧
    descValid (BitVec.ofNat 128 (leNat (natLe 16 (16 * 2 ^ 64)))) = true ∧ descValid (BitVec.ofNat 128 (leNat (List.replicate 16 0xFF))) = false := by
  decide +kernel

theorem witness_ReadControlRegisters :
    (∀ i ∈ [Instr.mfc 3 0x000, .mfc 3 0x008, .mfc 3 0x013, .mfc 3 0x03F, .mfc 3 0x047, .mfc 3 0x060, .mfc 3 0x070, .mfc 3 0x080, .mfc 3 0x081],
      ready base i = true) ∧
    ((at_ base).inPass = false) ∧ 3 < (at_ base).launch.record.tiles ∧ ready passing (.mfc 3 0x081) = true ∧
    (∀ s ∈ [base, passing], ready s (.mfc 3 0x014) = true ∧ ready s (.mfc 3 0x01F) = true ∧ (at_ s).launch.record.tiles ≤ 4) := by decide +kernel

/-- A fault ring of two records. -/
def ringed : State := base.setAsid { base.asid 1 with frbase := 0x8000, frsize := 2 }

theorem witness_TrapTaken :
    ready ringed (.trap 0xFFFF) = true ∧ (at_ ringed).inPass = false ∧ (ringed.asid 1).frsize ≠ 0 ∧
    ready base (.trap 0) = true ∧ (base.asid 1).frsize = 0 ∧
    (let s := withRecord base fun r => { r with policy := 2 }
     ready s (.trap 0) = true ∧ 2 ≤ (at_ s).launch.record.policy ∧ (at_ s).group.whole = true) := by decide +kernel

theorem witness_FaultPolicy :
    ∀ n ∈ [0, 1, 2], let s := withRecord base fun r => { r with policy := n }
      s.issuer?.isSome = true ∧ Cause.isHeld .alignment = false ∧ (at_ s).team.red = none ∧ (at_ s).team.inPasses = false ∧
      (at_ s).launch.record.policy = n := by decide +kernel

/-- Scalar accesses: misaligned, refused, held back by an earlier acquire, and issuing. -/
theorem witness_ScalarAccesses :
    let s := withRegs base [(2, 0x9000), (4, 0x9002), (7, 0x100000)]
    let held := after (exec (.satom 8 2 0 { size := false, aop := 8, order := 2, scope := 4 }) s) s
    let f : State := { held.modGroup 1 0 (fun g => { g with busy := [] }) with cores := [] }
    (∀ i ∈ [Instr.sld 8 2 0x7FFC, .sld2 8 2 0x8000, .sst 9 2 0, .sst2 8 2 0, .satom 8 2 6 { size := true, aop := 4, order := 4, scope := 5 }],
      ready s i = true ∧ there (scalarAccess (at_ s) i) (fun x => x.ea.toNat % (4 * x.words) == 0 &&
        good (s.checkAccess (some 0) 1 x.ea (4 * x.words) x.access Leaf.plainFmt) fun l => s.canIssue [x.op (at_ s) l]) = true) ∧
    there (scalarAccess (at_ s) (.sld 8 4 0)) (fun x => x.ea.toNat % (4 * x.words) != 0) = true ∧
    there (scalarAccess (at_ s) (.sld 8 6 0)) (fun x => x.ea.toNat % (4 * x.words) == 0 &&
      bad (s.checkAccess (some 0) 1 x.ea (4 * x.words) x.access Leaf.plainFmt) fun f => f.1 == .translation) = true ∧
    ready f (.sld 9 2 0) = true ∧ there (scalarAccess (at_ f) (.sld 9 2 0)) (fun x =>
      good (f.checkAccess (some 0) 1 x.ea (4 * x.words) x.access Leaf.plainFmt) fun l => !f.canIssue [x.op (at_ f) l]) = true ∧
    (at_ s).inPass = false ∧ (at_ s).team.red = none ∧ (at_ s).group.whole = true := by decide +kernel

/-- An access whose tag does not match, which may issue or which an earlier acquire holds back. -/
theorem witness_ScalarAccesses_tag :
    let s := (withRegs base [(2, 0x40000000), (3, 0x02000000)]).place 0x14010 (natLe 16 0x800020A7)
    let held : State := { withSplit s (fun p => p.modSet fun e => { e with past := [60] }) with ops :=
      [{ blankOp (.group 1 0 0) 1 .load .mem 0x40000100 4 with id := 60, uid := 2, order := .acquire }] }
    ∀ x ∈ [s, held], ready x (.sst 8 2 0) = true ∧
      there (scalarAccess (at_ x) (.sst 8 2 0)) (fun y => bad (x.checkAccess (some 0) 1 y.ea 4 y.access y.fmtOk) (fun f => f.1 == .tagMismatch) &&
        x.mayIssue (at_ x).split.set.past [] y.order y.scope == x.ops.isEmpty) = true := by decide +kernel

/-! Hypotheses that can be met: engine commands, barriers, fences, passes. -/

theorem witness_CommandsEnterQueues :
    let s := withRegs base [(2, 0x3000), (4, 0x3FF0), (5, 0x3FE0)]
    (at_ s).inPass = false ∧ (at_ s).team.red = none ∧ ((at_ s).pair 2).toNat % 64 = 0 ∧
    ((at_ s).read 4).toNat % 16 = 0 ∧ ((at_ s).read 4).toNat + 16 = 1024 * (at_ s).launch.record.scratch ∧
    readyCmd s (.cpy 9 2 4 true 7) 9 = true ∧ readyCmd s (.siph 9 2 7) 9 = true ∧ readyCmd s (.stepp 9 5 true) 9 = true ∧
    readyCmd s (.stepq 9 5 false) 9 = true ∧ ((at_ s).read 5).toNat + 32 = 1024 * (at_ s).launch.record.scratch ∧
    (at_ s).group.queueStalls 7 = false := by decide +kernel

/-- The record of a `cpys` at its first sector: none made, held back, under way, spoiled once and twice; then at its second, the first
having come; then both there, of a record that is valid and of one that is not. -/
theorem witness_CommandsEnterQueues_cpys :
    let i : Instr := .cpys 9 2 4 true 7
    let s (a : Word) : State := withRegs base [(2, a), (4, 0x3FF0)]
    let r (l : List (Nat × Option (List Byte))) : State := withReads (s 0x3000) l
    let spoilt (again : Bool) : State := { s 0x3000 with ops := [{ readOp (.group 1 0 0) 2 0x3000 (some (List.replicate 32 0)) with
      flips := [0], again := again }] }
    let held : State := { withSplit (s 0x3000) (fun p => p.modSet fun e => { e with past := [60] }) with ops :=
      [{ blankOp (.group 1 0 0) 1 .load .mem 0x40000100 4 with id := 60, uid := 2, order := .acquire }] }
    let zeros : List Byte := natLe 32 (2 ^ 136)
    let u (x : State) : State := x.begun (at_ x) i
    let k (x : State) : Issuer := (at_ x).begun x i
    let got (x : State) (key : Nat) : Option MemOp := (u x).reading (k x).agent (k x).uid key
    let o (x : State) : MemOp := (k x).op .load 0x40003000 32 .relaxed .device false
    (∀ x ∈ [s 0x3000, s 0x40000000, held, r [(0x3000, none)], spoilt false, spoilt true, r [(0x3000, some zeros)]],
      readyCmd x i 9 = true ∧ (at_ x).group.queueStalls 7 = false) ∧
    got (s 0x3000) 0x3000 = none ∧ (u (s 0x3000)).canIssue [o (s 0x3000)] = true ∧ got held 0x3000 = none ∧ (u held).canIssue [o held] = false ∧
    good ((u (s 0x3000)).checkAccess (some 0) 1 0x3000 32 .load Leaf.plainFmt) (fun l => l.pa 0x3000 == 0x40003000) = true ∧
    bad ((u (s 0x40000000)).checkAccess (some 0) 1 0x40000000 32 .load Leaf.plainFmt) (fun _ => true) = true ∧
    there (got (r [(0x3000, none)]) 0x3000) (fun x => x.result.isNone) = true ∧
    (∀ g ∈ [true, false], there (got (spoilt g) 0x3000) (fun x => x.result.isSome && !x.intact && x.again == g) = true) ∧
    got (r [(0x3000, some zeros)]) 0x3020 = none ∧
    (∀ lo ∈ [0, 3], let x := r [(0x3000, some (natLe 32 (2 ^ 136 + lo * 2 ^ 128))), (0x3020, some (List.replicate 32 0))]
      there (got x 0x3000) (fun y => y.intact) = true ∧ there (got x 0x3020) (fun y => y.intact) = true ∧
      (shapeOf (natLe 32 (2 ^ 136 + lo * 2 ^ 128) ++ List.replicate 32 0)).valid true 4 = (lo == 0)) := by decide +kernel

/-- A launch record of one group of one instance: its bytes that are not zero, without its CHECK. -/
def launchCells : List (Nat × Byte) := [(32, 1), (37, 0x20), (41, 0x10), (78, 2), (86, 3)]
def launchBytes (check : Nat) : List Byte :=
  ((List.range 510).map fun k => ((launchCells.find? (·.1 == k)).map (·.2)).getD 0) ++ natLe 2 check

/-- The fold of a CRC over 64 bytes and then the others. -/
theorem crc_step (l : List Byte) (c c' : Nat) (h : (l.take 64).foldl (crcByte 16 0x8BB7) c = c') :
    l.foldl (crcByte 16 0x8BB7) c = (l.drop 64).foldl (crcByte 16 0x8BB7) c' := by
  rw [← h, ← List.foldl_append, List.take_append_drop]

theorem crc_launch : crc16 ((launchBytes 0x8D8B).take 510) = 0x8D8B := by
  have e (k c c' : Nat) (h : ((((launchBytes 0x8D8B).take 510).drop (64 * k)).take 64).foldl (crcByte 16 0x8BB7) c = c') :
      (((launchBytes 0x8D8B).take 510).drop (64 * k)).foldl (crcByte 16 0x8BB7) c =
        (((launchBytes 0x8D8B).take 510).drop (64 * (k + 1))).foldl (crcByte 16 0x8BB7) c' := by
    rw [crc_step _ c c' h, List.drop_drop, Nat.mul_succ]
  show (((launchBytes 0x8D8B).take 510).drop (64 * 0)).foldl (crcByte 16 0x8BB7) 0 = _
  rw [e 0 0 25185 (by decide +kernel), e 1 _ 30613 (by decide +kernel), e 2 _ 22615 (by decide +kernel), e 3 _ 50058 (by decide +kernel),
    e 4 _ 29770 (by decide +kernel), e 5 _ 4616 (by decide +kernel), e 6 _ 13164 (by decide +kernel), e 7 _ 36235 (by decide +kernel)]
  decide +kernel

theorem checkMatches_launch : checkMatches (launchBytes 0x8D8B) = true := by
  unfold checkMatches
  rw [crc_launch]
  decide +kernel

theorem checkMatches_launch_not : checkMatches (launchBytes 0x8D8A) = false := by
  have h : (launchBytes 0x8D8A).take 510 = (launchBytes 0x8D8B).take 510 := by decide +kernel
  unfold checkMatches
  rw [h, crc_launch]
  decide +kernel

/-- At issue: an aligned record and a misaligned one. -/
theorem witness_LaunchCommand_issue :
    let s (r : Word) : State := withRegs base [(2, r)]
    (∀ x ∈ [s 0x3000, s 0x3020], readyCmd x (.lnch 9 2 true) 9 = true ∧ readyCmd x (.lnch 9 2 false) 9 = true ∧ (at_ x).inPass = false ∧
      (at_ x).team.red = none) ∧
    ((at_ (s 0x3000)).pair 2).toNat % 64 = 0 ∧ ((at_ (s 0x3020)).pair 2).toNat % 64 ≠ 0 := by decide +kernel

/-- The command as the device runs it, with the first sectors of its record read. -/
def launching (record : DWord) (parts : List (List Byte)) : State :=
  cmdReads ((commanded base (.lnch record true false)).setAsid { base.asid 1 with cpsize := 2 })
    (parts.mapIdx fun i bs => (record.toNat + 32 * i, some bs))

/-- The next sector's read may issue, finds no page, or is held back. -/
theorem witness_LaunchCommand_reads :
    (∀ j ∈ [0, 15], let s := launching 0x6000 (List.replicate j (List.replicate 32 0))
      there (s.owned? 50) (fun a => a.cmd.ending.isNone && a.agent == .engine 1 0 0 50 && a.cmd.uid == 2) = true ∧ s.halted.contains 1 = false ∧ s.late = [] ∧ s.op? 50 = none ∧
      s.reading (.engine 1 0 0 50) 2 (0x6000 + 32 * j) = none ∧
      (∀ i : Fin 16, i.val < j → there (s.reading (.engine 1 0 0 50) 2 (0x6000 + 32 * i.val)) (fun x => x.result.isSome && x.intact) = true) ∧
      good (s.checkAccess (some 0) 1 (0x6000 + BitVec.ofNat 64 (32 * j)) 32 .load Leaf.plainFmt) (fun l => there (s.owned? 50) fun a =>
        s.canIssue [s.cmdOp a .load .mem (l.pa (0x6000 + BitVec.ofNat 64 (32 * j))) 32 l.sc]) = true) ∧
    (let s := launching 0x6000 []
     let held : State := { s with
       ops := [{ blankOp (.group 1 0 0) 1 .load .mem 0x40000100 4 with id := 60, uid := 2, order := .acquire }]
       cmds := s.cmds.map fun c => { c with past := [60] } }
     good (held.checkAccess (some 0) 1 0x6000 32 .load Leaf.plainFmt) (fun l => there (held.owned? 50) fun a =>
       !held.canIssue [held.cmdOp a .load .mem (l.pa 0x6000) 32 l.sc]) = true) ∧
    bad ((launching 0x40000000 []).checkAccess (some 0) 1 0x40000000 32 .load Leaf.plainFmt) (fun _ => true) = true := by decide +kernel

/-- The sectors of a record. -/
def launchParts (check : Nat) : List (List Byte) := (List.range 16).map fun j => ((launchBytes check).drop (32 * j)).take 32

/-- All sixteen read, of a record that is accepted, and of one whose CHECK does not match. -/
theorem witness_LaunchCommand_record :
    ∀ check ∈ [0x8D8B, 0x8D8A], (launchParts check).flatten = launchBytes check ∧
      ∀ j : Fin 16, there ((launching 0x6000 (launchParts check)).reading (.engine 1 0 0 50) 2 (0x6000 + 32 * j.val)) (fun x =>
        x.result.isSome && x.intact && x.carried.map (·.1) == ((launchParts check)[j.val]?).getD []) = true := by decide +kernel

theorem witness_LaunchCommand_rejection :
    (launching 0x6000 (launchParts 0x8D8B)).rejection 1 (launchBytes 0x8D8B) = none ∧
    (launching 0x6000 (launchParts 0x8D8A)).rejection 1 (launchBytes 0x8D8A) = some 2 := by
  have f : ((launchRecOf (launchBytes 0x8D8B)).fieldsOk (leNat (launchBytes 0x8D8B)) && (launchRecOf (launchBytes 0x8D8B)).fits 2) = true := by
    decide +kernel
  simp only [Bool.and_eq_true] at f
  have g : ((launching 0x6000 (launchParts 0x8D8B)).asid 1).cpsize.toNat = 2 ∧ (launching 0x6000 (launchParts 0x8D8B)).launches.length = 1 := by
    decide +kernel
  constructor
  · simp only [State.rejection, checkMatches_launch, f.1, f.2, g.1, g.2]; rfl
  · simp only [State.rejection, checkMatches_launch_not]; rfl

/-- The tile formats of the placed team: C, its odd neighbour, A, B. -/
def withTiles (s : State) (l : List Nat) : State :=
  s.modTeam 1 fun t => { t with tcfg := Vector.ofFn fun k => BitVec.ofNat 32 (l.getD k.val 0) }

/-- A block of whole rows, with no shift bytes and no band scale. -/
def rowsOnly (fmt : Nat) : Bool := !fmtScaled fmt && !fmtBand fmt && fmtWidth fmt != 6

theorem blockReads_rowsOnly (fmt rows side o : Nat) (h : rowsOnly fmt = true) : blockReads fmt rows side o ↔ o < 128 * rows := by
  simp only [rowsOnly, Bool.and_eq_true, Bool.not_eq_true', bne_iff_ne] at h
  simp only [blockReads, h.1.1, h.1.2, h.2, if_false, false_and, or_false, Bool.false_eq_true]
  constructor
  · rintro ⟨r, k, hr, hk, rfl⟩
    omega
  · intro ho
    exact ⟨o / 128, o % 128, by omega, by omega, by omega⟩

/-- Every step of a loop reads its rows inside a scratchpad. -/
def rowsFit (x : Word) (inc : BitVec 16) (steps fmt rows size : Nat) : Bool :=
  rowsOnly fmt && (List.range steps).all fun j => decide (blockAt x inc j + 128 * rows ≤ size)

theorem blocksInside_of_rowsFit (x : Word) (inc : BitVec 16) (steps fmt rows side size : Nat) (h : rowsFit x inc steps fmt rows size = true) :
    blocksInside x inc steps fmt rows side size := by
  simp only [rowsFit, Bool.and_eq_true, List.all_eq_true, List.mem_range, decide_eq_true_eq] at h
  intro j o hj ho
  rw [blockReads_rowsOnly _ _ _ _ h.1] at ho
  have := h.2 j hj
  omega

/-- Step j is the first that reads rows outside, an address the least of its bytes outside. -/
def rowsLeave (x : Word) (inc : BitVec 16) (steps fmt rows size j addr : Nat) : Bool :=
  rowsFit x inc j fmt rows size && decide (j < steps) && addr == Nat.max size (blockAt x inc j) && decide (addr < blockAt x inc j + 128 * rows)

theorem blocksFirst_of_rowsLeave (x : Word) (inc : BitVec 16) (steps fmt rows side size j addr : Nat)
    (h : rowsLeave x inc steps fmt rows size j addr = true) : blocksFirst x inc steps fmt rows side size addr := by
  simp only [rowsLeave, Bool.and_eq_true, decide_eq_true_eq, beq_iff_eq] at h
  have plain : rowsOnly fmt = true := by
    have := h.1.1.1
    simp only [rowsFit, Bool.and_eq_true] at this
    exact this.1
  have least : blockAt x inc j ≤ addr ∧ size ≤ addr := by rw [h.1.2]; exact ⟨Nat.le_max_right _ _, Nat.le_max_left _ _⟩
  refine ⟨j, addr - blockAt x inc j, h.1.1.2, ?_, by omega, least.2, blocksInside_of_rowsFit x inc j fmt rows side size h.1.1.1, ?_⟩
  · rw [blockReads_rowsOnly _ _ _ _ plain]
    omega
  · intro o' _ ho'
    rw [h.1.2]
    exact Nat.max_le.2 ⟨ho', by omega⟩
/-- The registers of a loop: its addresses, increments and steps. -/
def loopRegs (a b inc n : Word) : State := withRegs base [(4, a), (5, b), (6, inc), (7, n)]
/-- The blocks of A and B of the split's loop, by a check of each. -/
def blocksA (s : State) (p : Word → BitVec 16 → Nat → Nat → Nat → Nat → Bool) : Bool :=
  let c := at_ s
  p (c.read 4) ((c.read 6).extractLsb' 0 16) (c.read 7).toNat (tileFmt (c.team.cfg 2)) (c.team.rowsA 2) (1024 * c.launch.record.scratch)
def blocksB (s : State) (p : Word → BitVec 16 → Nat → Nat → Nat → Nat → Bool) : Bool :=
  let c := at_ s
  p (c.read 5) ((c.read 6).extractLsb' 16 16) (c.read 7).toNat (tileFmt (c.team.cfg 3)) (c.team.rowsB 2) (1024 * c.launch.record.scratch)

/-- Loops of f64, f32 and SBP tiles of two steps at the two ends of the scratchpad, a direct one, and ones of no steps. -/
theorem witness_MatrixLoopsStart :
    let s := loopRegs 0x1F80 0x80 0xFFFF0001 2
    let free (s : State) : Bool := s.coreLoops 0 == 0 && (List.range 4).all fun n => !s.tileBusy 1 n
    (∀ x ∈ [(s, 0, Instr.mloop 9 4 false 0 2), (withTiles s [0, 0, 0x3F00, 0x3F00], 0, .mloop 9 4 false 0 2), (withTiles s [1, 0, 2, 2], 0, .mloop 9 4 true 0 2), (s, 2, .mloopDirect 9 4 8 true 0 2),
        (withTiles (loopRegs 0x80 0x80 0 1) [1, 0, 2, 0x1C], 1, .mloopSbp 9 4 false 0 2), (loopRegs 0 0 0 0, 0, .mloop 9 4 true 0 2)],
      readyCmd x.1 x.2.2 9 = true ∧ (at_ x.1).inPass = false ∧ (at_ x.1).team.red = none ∧
      (at_ x.1).team.loopOk (at_ x.1).launch.record x.2.1 0 2 = true ∧ (at_ x.1).group.live.length = 1 ∧ ((at_ x.1).read 4).toNat % 128 = 0 ∧
      ((at_ x.1).read 5).toNat % 128 = 0 ∧ ((at_ x.1).pair 8).toNat % 128 = 0 ∧ blocksA x.1 rowsFit = true ∧ blocksB x.1 rowsFit = true ∧ free x.1 = true) ∧
    (at_ (withTiles s [0, 0, 0x3F00, 0x3F00])).team.wideAcc 0 0 = true ∧ (at_ (withTiles s [1, 0, 2, 2])).team.wideAcc 0 0 = false := by decide +kernel

/-- The blocks of the loops above are inside, on either side. -/
theorem witness_MatrixLoopsStart_inside (s : State) (h : blocksA s rowsFit = true) (k : blocksB s rowsFit = true) (side : Nat) : let c := at_ s
    blocksInside (c.read 4) ((c.read 6).extractLsb' 0 16) (c.read 7).toNat (tileFmt (c.team.cfg 2)) (c.team.rowsA 2) 0 (1024 * c.launch.record.scratch) ∧
    blocksInside (c.read 5) ((c.read 6).extractLsb' 16 16) (c.read 7).toNat (tileFmt (c.team.cfg 3)) (c.team.rowsB 2) side (1024 * c.launch.record.scratch) :=
  ⟨blocksInside_of_rowsFit _ _ _ _ _ _ _ h, blocksInside_of_rowsFit _ _ _ _ _ _ _ k⟩

/-- Commands whose record, barrier object or entry is misaligned or beyond the scratchpad, and one that finds its queue full. -/
theorem witness_CommandChecks :
    let s (a b : Word) : State := withRegs base [(2, a), (4, b)]
    let full : State := withGroup (s 0x3000 0) fun g => { g with engines := vset g.engines 7 ((List.range 16).map .cmd) }
    (∀ x ∈ [s 0x3020 0, s 0x3000 8, s 0x3000 0x4000, s 0x3000 0xFFFFFFF0, full, s 0 0x3FF0, s 0 0x4000], (at_ x).inPass = false ∧ readyCmd x (.cpy 9 2 4 true 7) 9 = true ∧
      readyCmd x (.cpys 9 2 4 true 7) 9 = true ∧ readyCmd x (.siph 9 2 7) 9 = true ∧ readyCmd x (.stepq 9 4 true) 9 = true ∧
      readyCmd x (.stepp 9 4 false) 9 = true) ∧
    ((at_ (s 0x3020 0)).pair 2).toNat % 64 ≠ 0 ∧ ((at_ (s 0x3000 8)).read 4).toNat % 16 ≠ 0 ∧ (at_ full).group.queueStalls 7 = true ∧
    1024 * (at_ base).launch.record.scratch < 0x4000 + 16 ∧ 1024 * (at_ base).launch.record.scratch < 0xFFFFFFF0 + 16 ∧ 0x3FF0 % 32 ≠ 0 := by
  decide +kernel

/-- Matrix loops that the tiles refuse, in a divided group, and with each misaligned address. -/
theorem witness_CommandChecks_loops :
    let r (s : State) (a b c : Word) : State := withRegs s [(4, a), (5, b), (8, c)]
    let i : Instr := .mloopDirect 9 4 8 false 0 2
    (∀ x ∈ [r base 64 0 0, r base 0 0x40 0, r base 0 0 0x40, r (divided 0x2000) 0 0 0, withTiles base [2]],
      readyCmd x i 9 = true ∧ (at_ x).inPass = false) ∧
    (at_ (withTiles base [2])).team.loopOk placedRecord 2 0 2 = false ∧ (at_ base).team.loopOk placedRecord 2 0 2 = true ∧
    (at_ (divided 0x2000)).group.live.length ≠ 1 ∧ (at_ (r base 64 0 0)).group.live.length = 1 ∧
    readyCmd passing (.mloopSbp 9 4 true 0 2) 9 = true ∧ (at_ passing).team.loopOk placedRecord 1 0 2 = false := by decide +kernel

/-- Loops whose A leaves the scratchpad at its second step, and whose B does at its third, below address 0. -/
theorem witness_CommandChecks_bounds :
    let a := loopRegs 0x1F80 0 2 2
    let b := loopRegs 0 0x80 0xFFFF0001 3
    (∀ s ∈ [a, b], readyCmd s (.mloop 9 4 false 0 2) 9 = true ∧ (at_ s).inPass = false ∧ (at_ s).group.live.length = 1 ∧
      (at_ s).team.loopOk placedRecord 0 0 2 = true ∧ ((at_ s).read 4).toNat % 128 = 0 ∧ ((at_ s).read 5).toNat % 128 = 0) ∧
    blocksA a (fun x inc n f r size => rowsLeave x inc n f r size 1 0x4000) = true ∧ blocksA b rowsFit = true ∧
    blocksB b (fun x inc n f r size => rowsLeave x inc n f r size 2 0xFFFFFF80) = true := by decide +kernel

/-- An object's bytes: quota, arrivals still to come, generation, bytes owed. -/
def withObject (s : State) (a q l g : Nat) : State :=
  s.modTeam 1 fun t => { t with scratch := t.scratch.writeN a (BarObj.bytes { quota := q, left := l, gen := g, tx := 0 }) }

/-- `bar` on an object: an arrival, the last one, one too many, `hold` at its generation and at another, misaligned and beyond. -/
theorem witness_BarrierOperations :
    let s (a q l g : Nat) : State := withObject (withRegs base [(4, BitVec.ofNat 32 a), (5, 2)]) 0x3FF0 q l g
    let b (s : State) : BarObj := barObj ((s.scratchOf 1).readN 0x3FF0 16)
    let o (s : State) (i : Instr) (order : Order) : MemOp := ((at_ s).begun s i).barOp (some 0x3FF0) order []
    (∀ x ∈ [s 0x3FF0 4 4 2, s 0x3FF0 1 1 15, s 0x3FF0 4 0 3, s 0x3FF8 1 1 0, s 0x4000 1 1 0],
      (∀ i ∈ [Instr.barMark 9 4, .barMarkn 9 4 5, .barJoin 9 4, .barHold 9 4 5, .barOwe 9 4 5], ready x i = true) ∧
      (at_ x).inPass = false ∧ (at_ x).team.red = none ∧ (at_ x).group.abandoned = false) ∧
    (∀ x ∈ [s 0x3FF0 4 4 2, s 0x3FF0 1 1 15, s 0x3FF0 4 0 3],
      (x.begun (at_ x) (.barJoin 9 4)).barReady (o x (.barJoin 9 4) .release) = true ∧
      (x.begun (at_ x) (.barMarkn 9 4 5)).barReady (o x (.barMarkn 9 4 5) .release) = true ∧
      (x.begun (at_ x) (.barHold 9 4 5)).barReady (o x (.barHold 9 4 5) .relaxed) = true ∧
      (at_ x).split.set.ran = [] ∧ (at_ x).split.set.past = []) ∧
    there ((b (s 0x3FF0 4 4 2)).arrive 1) (fun y => y.gen == 2) = true ∧ there ((b (s 0x3FF0 1 1 15)).arrive 1) (fun y => y.gen == 0) = true ∧
    (b (s 0x3FF0 4 0 3)).arrive 1 = none ∧ (b (s 0x3FF0 4 4 2)).gen = 2 ∧ (b (s 0x3FF0 4 0 3)).gen ≠ 2 := by decide +kernel

/-- The same of a group of whose team a group was killed. -/
def abandoned (s : State) : State := withGroup s fun g => { g with abandoned := true }

theorem witness_BarrierOperations_abandoned :
    let s := abandoned (withObject (withRegs base [(4, 0x3FF0), (5, 2)]) 0x3FF0 4 4 2)
    (∀ i ∈ [Instr.barMark 9 4, .barMarkn 9 4 5, .barJoin 9 4, .barHold 9 4 5, .barOwe 9 4 5, .barMark 9 0, .barJoin 9 0, .barHold 9 0 5], ready s i = true) ∧
    (at_ s).inPass = false ∧ (at_ s).team.red = none ∧ (at_ s).group.abandoned = true ∧ Memory.wf (at_ s).team.scratch = true ∧
    (s.begun (at_ s) (.barJoin 9 4)).barReady (((at_ s).begun s (.barJoin 9 4)).barOp (some 0x3FF0) .release []) = true ∧
    (s.begun (at_ s) (.barOwe 9 4 5)).barReady (((at_ s).begun s (.barOwe 9 4 5)).barOp (some 0x3FF0) .relaxed []) = true ∧
    (at_ s).group.whole = true ∧ s.barReady ((at_ s).barOp none .release []) = true := by decide +kernel

/-- The team barrier: a whole group, alone and with another that has not come, and a divided one; `hold` at its generation and at another. -/
theorem witness_BarrierOperations_team :
    let r (n : Word) : State := withRegs base [(5, n)]
    let two : State := base.modTeam 1 fun t => { t with groups := t.groups ++ [{ idleGroup with gid := 1 }] }
    (∀ s ∈ [r 0, r 2, two, divided 0x2000], (∀ i ∈ [Instr.barMark 9 0, .barJoin 9 0, .barHold 9 0 5], ready s i = true) ∧ (at_ s).inPass = false ∧
      (at_ s).team.red = none ∧ (at_ s).group.abandoned = false ∧ (at_ s).split.deferred = []) ∧
    (∀ s ∈ [r 0, r 2, two], (at_ s).group.whole = true ∧ (at_ s).split.set.ran = [] ∧ (at_ s).team.barGen = 0 ∧
      s.barReady ((at_ s).barOp none .release []) = true ∧ s.barReady ((at_ s).barOp none .relaxed []) = true) ∧
    ((at_ (r 0)).read 5).toNat % 16 = 0 ∧ ((at_ (r 2)).read 5).toNat % 16 = 2 ∧
    (({ (at_ base).team with arrived := [0] } : Team).settleBar).barGen = 1 ∧ (({ (at_ two).team with arrived := [0] } : Team).settleBar).barGen = 0 ∧
    (at_ (divided 0x2000)).group.whole = false ∧ base.issuer?.isSome = true ∧ base.stopped (at_ base) = false := by decide +kernel

/-- Fences with a clause that is still queued and without one; a join mark on the queues 0 and 7. -/
theorem witness_FencesAndJoinMarks :
    let w := after (exec (.run 0 true 4) base) base
    (∀ x ∈ [base, w], ready x (.fence true 2 5) = true ∧ ready x (.fence false 3 0) = true ∧ ready x (.qfence 0x81) = true ∧
      (at_ x).inPass = false ∧ (at_ x).team.red = none) ∧
    (at_ base).split.set.ran.any base.clausePending = false ∧ (at_ w).split.set.ran.any w.clausePending = true := by decide +kernel

/-- A pass: an instruction with effects, one without, one that traps, and the register of the group's number. -/
theorem witness_PassScalars :
    let s := passing
    (at_ s).inPass = true ∧ readyCmd s (.lnch 9 2 false) 9 = true ∧ passEffects (at_ s) (.lnch 9 2 false) = true ∧
    ready s (.sst2 8 2 0) = true ∧ passEffects (at_ s) (.sst2 8 2 0) = true ∧ readyCmd s (.mloop 9 4 true 0 2) 9 = true ∧
    passEffects (at_ s) (.mloop 9 4 true 0 2) = true ∧ ready s (.mtcTcfg 3 3) = true ∧ passEffects (at_ s) (.mtcTcfg 3 3) = true ∧
    ready s (.barHold 9 0 4) = true ∧ passSkips (.barHold 9 0 4) = true ∧ ready s (.trap 7) = true ∧ ready s (.mfc 9 5) = true := by decide +kernel

/-- Loads of a pass: misaligned, at no page, of a page that is written, of a read-only one, and held back by an earlier acquire. -/
theorem witness_PassScalars_loads :
    let s := withRegs passing [(2, 0x9000), (4, 0x9002), (6, 0x40000000)]
    let own (s : State) : State := s.place 0x14000 (natLe 16 0x40002083)
    let held : State := { withSplit (own s) (fun p => p.modSet fun e => { e with past := [60] }) with ops :=
      [{ blankOp (.group 1 0 0) 1 .load .mem 0x40000100 4 with id := 60, uid := 2, order := .acquire }] }
    let load : SatomFields := { size := false, aop := 0, order := 2, scope := 4 }
    (∀ x ∈ [s, own s, held], (at_ x).inPass = true ∧ (at_ x).team.red = none ∧ (∀ i ∈ [Instr.sld 8 2 0, .sld2 8 2 0, .sld 8 4 0, .sld 8 6 0, .satom 8 2 0 load],
      ready x i = true ∧ there (scalarAccess (at_ x) i) (fun y => y.access == .load || y.access == .atomLoad) = true)) ∧
    there (scalarAccess (at_ s) (.sld 8 4 0)) (fun x => x.ea.toNat % (4 * x.words) != 0) = true ∧
    there (scalarAccess (at_ s) (.sld 8 6 0)) (fun x => bad (s.checkAccess (some 0) 1 x.ea (4 * x.words) x.access x.fmtOk) fun _ => true) = true ∧
    (∀ i ∈ [Instr.sld2 8 2 0, .satom 8 2 0 load],
      (∀ x ∈ [s, own s], there (scalarAccess (at_ x) i) (fun y =>
        good (x.checkAccess (some 0) 1 y.ea (4 * y.words) y.access y.fmtOk) fun l => x.canIssue [y.op (at_ x) l]) = true) ∧
      there (scalarAccess (at_ s) i) (fun y => good (s.checkAccess (some 0) 1 y.ea (4 * y.words) y.access y.fmtOk) fun l => l.w) = true ∧
      there (scalarAccess (at_ (own s)) i) (fun y => good ((own s).checkAccess (some 0) 1 y.ea (4 * y.words) y.access y.fmtOk) fun l => !l.w) = true ∧
      there (scalarAccess (at_ held) i) (fun y => good (held.checkAccess (some 0) 1 y.ea (4 * y.words) y.access y.fmtOk) fun l => !l.w && !held.canIssue [y.op (at_ held) l]) = true) := by
  decide +kernel

/-- Descriptors of a pass: a misaligned address, one at no page, and ones that have come, valid and not. -/
theorem witness_PassScalars_descriptors :
    let s := withRegs passing [(2, 8), (4, 0x40000000), (6, 0x3000)]
    let got (w : List Byte) : State := { s with ops := [{ readOp (.group 1 0 0) (at_ s).uid 0x3000 (some w) with size := 16 }] }
    (∀ a ∈ [2#5, 4#5, 6#5], ready s (.mtcBd a 14) = true ∧ s.descFree (at_ s) 14 = true) ∧
    ((at_ s).pair 2).toNat % 16 ≠ 0 ∧ ((at_ s).pair 4).toNat = 0x40000000 ∧ s.reading (at_ s).agent (at_ s).uid 0x40000000 = none ∧
    bad (s.checkAccess (some 0) 1 0x40000000 16 .load Leaf.plainFmt) (fun _ => true) = true ∧
    (∀ w ∈ [natLe 16 (16 * 2 ^ 64), List.replicate 16 0xFF], ready (got w) (.mtcBd 6 14) = true ∧
      there ((got w).reading (at_ s).agent (at_ s).uid 0x3000) (fun x => x.result.isSome && x.intact && x.carried.map (·.1) == w) = true) := by decide +kernel

/-! Hypotheses that can be met: lane instructions. -/

/-- The LA fields with four registers and a type, unguarded. -/
def la (d a b c : Nat) (t : LType) : LA :=
  { h := { guard := 0, gneg := false, all := false, fs := false, d := BitVec.ofNat 7 d }, a := BitVec.ofNat 7 a, b := BitVec.ofNat 7 b
    c := BitVec.ofNat 7 c, ty := t, rnd := .rmode, sat := .rmode, aneg := false, aabs := false, bneg := false, cneg := false, imm := false
    fmod := 0, imm32 := 0 }

/-- The LM fields of an access of a width. -/
def lm (d a b c : Nat) (w : Width) : LM :=
  { h := { guard := 0, gneg := false, all := false, fs := false, d := BitVec.ofNat 7 d }, a := BitVec.ofNat 7 a, b := BitVec.ofNat 7 b
    c := BitVec.ofNat 7 c, bd := 15, width := w, scope := .device, order := .relaxed, hint := .dflt, fmod := 0, off := 0 }

/-- A state at which a clause of one lane instruction issues; queue 0 holds an entry, queue 1 has room for four, lane k of v8 holds
0x3000 + 64 k, of v10 k. -/
def laneAt (i : Instr) : State :=
  withGroup base fun g => { g with
    clauses := vset g.clauses 0 [placedClause 3 2 i]
    v := ((g.v.set 8 { g.vreg 8 with phys := Lanes.gen fun l => BitVec.ofNat 32 (0x3000 + 64 * l.val) }).set 10
      { g.vreg 10 with phys := Lanes.gen fun l => BitVec.ofNat 32 l.val })
    q := vset (vset g.q 0 { depth := 2, entries := [{ eid := 0, data := Lanes.all 7, waiting := 0 }] }) 1 { depth := 4, entries := [] }
    splits := g.splits.map fun p => p.map fun p => p.modSet fun e => { e with ran := [3], order := [3] } }

/-- The clause's mask narrowed. -/
def masked (s : State) (m : Mask) : State :=
  withGroup s fun g => { g with clauses := vmod g.clauses 0 fun l => l.map fun q => { q with mask := m } }

/-- The lane instruction's fields. -/
def headOf (i : Instr) : LaneHead := i.head?.getD (la 0 0 0 0 .b32).h

/-- The context in which a lane instruction issues, with its effective mask. -/
def ctx (s : State) (i : Instr) : LaneCtx :=
  let h := headOf i
  match s.laneCtx? with
  | some c => { c with em := Mask.gen fun l =>
      (if h.all then c.group.remaining.has l else c.clause.mask.has l) && ((c.group.pred h.guard.toNat).has l != h.gneg) }
  | none => { ref := ref, team := idleTeam, group := idleGroup, launch := placedLaunch 1, clause := placedClause 3 2 .exit
              hdr := { n := 1, fla := 0, flb := 1, wait := 0, aen := true, ben := true }, em := 0 }

/-- A lane instruction issues, its queues ready. -/
def laneReady (s : State) (i : Instr) : Bool :=
  i.head?.isSome && there s.laneCtx? (fun c => c.em == 0) && !s.laneStopped { ctx s i with em := 0 } && !s.epochDue (ctx s i).team &&
  (ctx s i).group.pass.isNone && (ctx s i).em != 0

/-- `laneReady` is the hypothesis of the statements about lane instructions. -/
theorem LaneReady_of (s : State) (i : Instr) (h : laneReady s i = true) : LaneReady s (ctx s i) i (headOf i) := by
  simp only [laneReady, Bool.and_eq_true, Bool.not_eq_true', bne_iff_ne] at h
  obtain ⟨⟨⟨⟨⟨h1, h2⟩, h3⟩, h6⟩, h4⟩, h5⟩ := h
  refine ⟨?_, ?_, h3, h6, ?_, h5, ?_⟩
  · unfold headOf
    cases hi : i.head? with
    | none => simp [hi] at h1
    | some x => rfl
  · cases hc : s.laneCtx? with
    | none => simp [hc, there] at h2
    | some c =>
      simp only [hc, there, beq_iff_eq] at h2
      simp only [ctx, hc]
      cases c
      simp_all
  · simpa using h4
  · cases hc : s.laneCtx? with
    | none => simp [hc, there] at h2
    | some c =>
      intro l
      simp only [ctx, hc, Mask.has_gen]

/-- Every integer lane instruction, with vector, queue and scalar operands and destinations. -/
def intForms : List Instr :=
  [.iadd (la 5 8 9 0 .i32), .isub (la 97 8 9 0 .n8x4), .imul (la 120 96 9 0 .i16x2), .imad (la 4 8 10 12 .n64), .imin (la 5 8 9 0 .i64 |> even),
   .imax (la 5 118 9 0 .n16x2), .iabs (la 5 8 0 0 .i8x4), .iclamp (la 5 8 9 10 .i32), .imulhi (la 5 8 9 0 .n32), .laneAnd (la 5 8 9 0 .b32),
   .laneOr (la 5 8 9 0 .b32), .laneXor (la 5 8 9 0 .b32), .not (la 5 8 0 0 .b32), .laneShl (la 4 8 9 0 .n64), .laneShr (la 5 8 9 0 .n32),
   .laneSra (la 5 8 9 0 .i16x2), .rot (la 4 8 9 0 .n64), .lanePopc (la 5 8 0 0 .b32), .laneClz (la 5 8 0 0 .n32), .laneBrev (la 5 8 0 0 .b32),
   .bfe (la 5 8 9 0 .i32), .bfi (la 5 8 9 10 .b32), .iaddc { la 5 8 9 10 .n32 with fmod := 1 }, .isad (la 5 8 9 10 .i8x4),
   .lea { la 4 8 9 0 .n64 with fmod := 7 }, .idiv (la 5 8 9 0 .i32), .irem (la 5 8 9 0 .n32), .mov { la 5 0 0 0 .f32 with imm := true, imm32 := 3 }]
where even (f : LA) : LA := { f with h := { f.h with d := 4 }, a := 8, b := 10 }

/-- The float lane instructions. -/
def floatForms : List Instr :=
  [.fadd { la 5 8 9 0 .f32 with rnd := .rdn }, .fsub (la 4 8 10 0 .f64), .fmul (la 97 8 9 0 .f16x2), .ffma { la 5 8 9 10 .f32 with rnd := .stoch },
   .fmin { la 5 8 9 0 .f32 with aneg := true }, .fmax (la 5 8 9 0 .bf16x2), .fminnum { la 5 8 9 0 .f32 with fmod := 1 },
   .frnd (la 5 8 0 0 .f32), .fscale (la 5 8 9 0 .f32), .fclass (la 5 8 0 0 .f64), .fdot2 (la 5 8 9 10 .f16x2), .fdot4 (la 5 8 9 10 .e4m3x4),
   .fdot4 (la 5 8 9 10 .i8x4), .fmid (la 5 8 9 10 .f32), .ffract (la 5 8 0 0 .f32), .fcopysign (la 5 8 9 0 .f32)]

/-- The hypotheses of the result statements at a lane instruction's state. -/
def meets (i : Instr) : Bool :=
  laneReady (laneAt i) i && i.laneWf && (ctx (laneAt i) i).group.queueState (popsOf i.laneFields) (pushOf i.laneFields) == .ready

/-- Conversions, special functions, selections, ballots and reads. -/
def otherForms : List Instr :=
  [.rcp (la 5 8 0 0 .f32), .rsq (la 5 8 0 0 .f32), .sqrt { la 4 8 0 0 .f64 with rnd := .stoch }, .exp2 (la 5 8 0 0 .f32), .log2 (la 5 8 0 0 .f16x2),
   .sin (la 5 8 0 0 .f32), .cos (la 5 8 0 0 .bf16x2), .tanh (la 5 8 0 0 .f32), .erf (la 5 8 0 0 .f32),
   .cvt { la 5 8 0 0 .f32 with fmod := 0 }, .cvtb { la 5 8 10 0 .f32 with fmod := 1 }, .pack { la 5 8 10 0 .f16x2 with fmod := 2 },
   .unpk (la 4 8 0 0 .e2m1x8), .unpk (la 4 8 10 0 .e3m2x16), .sel (la 5 8 10 3 .b32), .pmov (la 5 3 0 0 .b32), .vote (la 5 0 0 0 .b32),
   .ivmk (la 5 8 10 12 .f32), .qcnt { lm 5 97 0 0 .w8 with fmod := 1, order := .plain, scope := .group }, .lclk (la 5 0 0 0 .n32), .lclk { la 5 0 0 0 .n32 with fmod := 1 },
   .expr { h := (la 5 0 0 0 .b32).h, a := 8, b := 10, c := 0, ty := .f32, toks := [.a, .d, .mul, .b, .add] }]

theorem witness_LaneIntegerResults : ∀ i ∈ intForms, meets i = true ∧ (laneInt (ctx (laneAt i) i) i).isSome = true := by decide +kernel

theorem witness_LaneFloatResults : ∀ i ∈ floatForms, meets i = true ∧ (laneFloat (ctx (laneAt i) i) i).isSome = true := by decide +kernel

theorem witness_LaneOtherResults : ∀ i ∈ otherForms, meets i = true ∧ (laneOther (laneAt i) (ctx (laneAt i) i) i).isSome = true := by decide +kernel

/-- A predicate result for every lane. -/
theorem witness_LanePredicateResults :
    ∀ i ∈ [Instr.icmp { la 1 8 10 2 .i32 with fmod := 5 }, .fcmp { la 7 8 10 0 .f32 with fmod := 7 }, .pset { la 2 1 3 0 .b32 with fmod := 3 },
      .pset { la 2 0 0 0 .b32 with fmod := 4, imm := true, imm32 := 0x80000001 }, .pmov { la 1 8 0 0 .b32 with fmod := 1 },
      .vote { la 1 2 0 0 .b32 with fmod := 2 }, .ivtest { la 0 8 10 12 .i32 with fmod := 1 }, .conf { lm 3 8 0 0 .w32 with scope := .group, order := .plain }],
    meets i = true ∧ ∀ l, ((lanePred (ctx (laneAt i) i) i (fun j => { a := ((ctx (laneAt i) i).sources i).a.vals[j], b := ((ctx (laneAt i) i).sources i).b.vals[j]
                                                                      c := ((ctx (laneAt i) i).sources i).c.vals[j], d := 0 }) l)).isSome = true := by
  decide +kernel

/-- The lanes taken in reverse. -/
def backwards : LMap := Lanes.gen fun l => ⟨31 - l.val, by omega⟩

theorem witness_LaneDestinations : backwards.injective = true ∧ 94 + 2 ≤ (ctx (laneAt .exit) .exit).group.v.length := by decide +kernel

theorem witness_LaneFrame :
    ∀ i ∈ [Instr.iadd (la 97 96 112 0 .i32), .fadd (la 95 8 10 0 .f32), .sel (la 5 8 10 3 .b32)],
      meets i = true ∧ (ctx (laneAt i) i).group.whole = true ∧
      ((laneInt (ctx (laneAt i) i) i).isSome || (laneFloat (ctx (laneAt i) i) i).isSome || (laneOther (laneAt i) (ctx (laneAt i) i) i).isSome) = true ∧
      runs (exec i (laneAt i)) = true := by decide +kernel

/-- Map edits: every one, of vector, wide, queue and scalar sources, under the full mask and a partial one. -/
theorem witness_MapEdits :
    (∀ i ∈ [Instr.shfl (la 5 8 10 0 .b32), .shfli { la 5 8 0 0 .b32 with fmod := 3, imm32 := 31 }, .shfli { la 1 2 0 0 .b32 with imm32 := 0x80000003 },
        .shfli { la 5 8 0 0 .b32 with fmod := 4, imm32 := 0x00010004 }, .bcast { la 5 8 0 0 .b32 with imm32 := 31 }, .compact (la 95 8 0 1 .b32),
        .mapset (la 5 8 10 0 .b32), .permld (la 5 8 16 0 .b32)],
      meets i = true ∧ (laneSelector (ctx (laneAt i) i) i).isSome = true ∧ (ctx (laneAt i) i).full = true) ∧
    (let i : Instr := .shfl (la 5 8 10 0 .b32)
     laneReady (masked (laneAt i) 0x80000001) i = true ∧ (ctx (masked (laneAt i) 0x80000001) i).full = false) := by decide +kernel

theorem witness_MapMoves :
    (∀ i ∈ [Instr.mapget { la 5 8 0 0 .b32 with imm32 := 0 }, .mapget { la 5 1 0 0 .b32 with imm32 := 0x80000000 }, .mat (la 5 8 0 0 .b32),
        .mat { la 1 2 0 0 .b32 with imm32 := 0x80000000 }, .xpose (la 92 8 0 0 .b32), .qmix { la 4 8 0 0 .b32 with imm32 := 0x7F3F1F03 }],
      meets i = true) ∧ 92 + 4 ≤ (ctx (laneAt (.xpose (la 92 8 0 0 .b32))) (.xpose (la 92 8 0 0 .b32))).group.v.length := by decide +kernel

/-- Wide numbers: one that is held as it is, one that is one bit too long, and the least exponent. -/
theorem witness_WideInstructions_held :
    (-512 : Int) ≤ -512 ∧ (-512 : Int) ≤ 511 ∧ ((-(2 ^ 127) : Int) ≤ -(2 ^ 127) ∧ (-(2 ^ 127) : Int) < 2 ^ 127) ∧ ¬ ((2 ^ 127 : Int) < 2 ^ 127) := by
  decide +kernel

theorem witness_WideInstructions :
    ∀ i ∈ [Instr.wclr { la 1 0 0 0 .b32 with imm32 := 0x200 }, .wadd { la 1 2 3 0 .b32 with fmod := 1 }, .wmov (la 1 7 0 0 .b32),
      .wmov { la 5 7 0 0 .b32 with fmod := 1, imm32 := 3 }, .wmov { la 112 7 0 0 .b32 with fmod := 2 }, .wmov { la 1 8 0 0 .b32 with fmod := 3, imm32 := 2 },
      .wmov { la 1 8 0 0 .b32 with fmod := 4 }, .wrnd { la 5 2 16 10 .f32 with fmod := 1 }, .wrnd { la 97 2 0 0 .i32 with fmod := 2 },
      .scan { la 1 8 0 0 .i8x4 with fmod := 1, imm32 := 3 }, .dacc { la 1 2 16 0 .b32 with fmod := 1 }], meets i = true := by decide +kernel

theorem witness_IntervalExtremes :
    ∀ i ∈ [Instr.ivlo (la 5 8 0 0 .i32), .ivhi (la 4 8 0 0 .f64), .ivlo (la 97 8 0 0 .f16x2), .ivhi (la 127 8 0 0 .n32)], meets i = true := by decide +kernel

/-- The placed ASID with a second 1 GiB page of a format at virtual address 0x40000000. -/
def withPage (s : State) (fmt : Nat) : State := s.place 0x14010 (natLe 16 (0x80000087 + 256 * fmt))

/-- Lane accesses in the placed page, at an address of v8 and v9 plus an offset. -/
def memForms : List Instr :=
  [.ld { lm 4 8 0 0 .w64 with order := .acquire }, .ld { lm 5 8 0 1 .w8 with fmod := 3 }, .ldb { lm 5 10 0 0 .w32 with bd := 2 },
   .lds (lm 24 8 0 0 .sector), .ldw (lm 97 14 0 0 .w32), .st { lm 0 8 10 2 .w16 with fmod := 1, order := .release }, .stb { lm 0 10 8 0 .w32 with bd := 2 },
   .sts (lm 0 8 12 0 .w128), .stw (lm 0 14 96 0 .w32), .tagld (lm 5 8 0 0 .sector), .tagst (lm 0 8 10 0 .sector),
   .atom { lm 5 8 10 12 .w32 with fmod := 3, order := .acqRel }, .atoms { lm 5 8 10 0 .w32 with fmod := 4 }, .atomw { lm 0 14 20 0 .w128 with fmod := 13 },
   .atom { lm 4 8 0 0 .w64 with fmod := 0 }, .atom { lm 0 8 10 0 .w32 with fmod := 1 }]

/-- With a descriptor in bd2: base 0x4000, stride 4, 124 bytes, so that lane 31 lies beyond its end; its accesses are dropped, or fault.
A 2 MiB page at virtual address 0x40000000 lies in the well memory, to which v14 points. -/
def memAt (i : Instr) (desc : Nat) : State :=
  withGroup ((masked (laneAt i) 0xC0000001).place 0x14010 (natLe 16 0x16001) |>.place 0x16000 (natLe 16 (2 ^ 47 + 0x2087))) fun g => { g with
    bd := vset g.bd 2 (some (BitVec.ofNat 128 desc))
    v := g.v.set 14 { g.vreg 14 with phys := Lanes.gen fun l => BitVec.ofNat 32 (0x40000000 + 64 * l.val) } }
def plainDesc : Nat := 0x4000 + 124 * 2 ^ 64 + 4 * 2 ^ 96
def zeroDesc : Nat := plainDesc + 2 ^ 112

/-- The accesses of an instruction at a state, as the statements see them. -/
def accesses (s : State) (i : Instr) : Except (Fin 32 × AccessFault × DWord) (List LaneAccess) :=
  match laneMemory i with
  | some (f, m) => s.laneAccesses (ctx s i) f m (laneMarks i).2 fun l => ((ctx s i).sources i).a.vals[l]
  | none => .ok []

def ready96 (s : State) (i : Instr) : Bool :=
  laneReady s i && i.laneWf && (ctx s i).group.queueState (popsOf i.laneFields) (pushOf i.laneFields) == .ready && (ctx s i).team.red.isNone

/-- Accesses that every lane may make and that may issue; a dropped lane; a lane out of bounds; one that an earlier acquire holds back. -/
theorem witness_LaneMemoryAccesses :
    (∀ i ∈ memForms, let s := memAt i zeroDesc
      ready96 s i = true ∧ good (accesses s i) (fun as => as.length == 3 && (as.any fun a => a.target == .dropped) ==
        (match i with | .ldb _ | .stb _ => true | _ => false) && as.all fun a => match a.target with | .page l => !isPacked l.fmt | _ => true) = true) ∧
    (let i : Instr := .ldb { lm 5 10 0 0 .w32 with bd := 2 }
     ready96 (memAt i plainDesc) i = true ∧ bad (accesses (memAt i plainDesc) i) (fun e => e.1 == 31 && e.2.1.1 == .bounds) = true) := by decide +kernel

/-- Such an access may issue, or an earlier acquire of the split holds it back. -/
theorem witness_LaneMemoryAccesses_issue :
    let i : Instr := .lds (lm 5 8 0 0 .w32)
    let f := lm 5 8 0 0 .w32
    let s := memAt i 0
    let o := laneMemOp s (ctx s i) i f { reach := .scratch, well := false, size := 4, access := .load, aop := none, tags := false, data := 5 }
      { lane := 0, ptr := 0x3000, target := .scratch }
    let held : State := { s with ops := [{ o with id := 50, order := .acquire, cid := none }] }
    s.canIssue [o] = true ∧ ready96 s i = true ∧ ready96 held i = true ∧ held.canIssue [{ o with past := [50] }] = false := by decide +kernel

/-- Addresses: misaligned, at the last word of the scratchpad, beyond it, with no descriptor, and below, inside, beyond and read-only in one. -/
theorem witness_LaneAddressChecks :
    let s := memAt (.ldb { lm 5 10 0 0 .w32 with bd := 2 }) (zeroDesc + 2 ^ 114)
    let c := ctx s (.ldb { lm 5 10 0 0 .w32 with bd := 2 })
    (0x3FFC + 4 ≤ 1024 * c.launch.record.scratch ∧ 1024 * c.launch.record.scratch < 0x4000 + 4) ∧ vget c.group.bd 3 none = none ∧
    vget c.group.bd 2 none = some (BitVec.ofNat 128 (zeroDesc + 2 ^ 114)) ∧ c.elided 2 = false ∧ (descOf (BitVec.ofNat 128 (zeroDesc + 2 ^ 114))).ro = true ∧
    (descOf (BitVec.ofNat 128 zeroDesc)).zeros = true ∧ 30 * 4 + 4 ≤ (descOf (BitVec.ofNat 128 zeroDesc)).size ∧
    ¬ 31 * 4 + 4 ≤ (descOf (BitVec.ofNat 128 zeroDesc)).size ∧ (BitVec.ofInt 64 (0x4000 + 30 * 4 : Int)).toNat % 4 = 0 := by decide +kernel

/-- Packed pages of every form: loads and stores of the second page. -/
theorem witness_PackedPageAccesses :
    ∀ fmt ∈ [0x06, 0x08, 0x0C, 0x0F], ∀ i ∈ [Instr.ld (lm 32 14 0 0 .w32), .st (lm 0 14 48 0 .w32)],
      let s := withPage (withGroup (masked (laneAt i) 3) fun g => { g with
        v := g.v.set 14 { g.vreg 14 with phys := Lanes.gen fun l => BitVec.ofNat 32 (0x40000000 + 96 * l.val) } }) fmt
      ready96 s i = true ∧ good (accesses s i) (fun as => as.length == 2 && as.all fun a => match a.target with | .page l => isPacked l.fmt | _ => false) = true := by
  decide +kernel

/-- System instructions; `ldt` with a misaligned base and with its last row at the end of the scratchpad. -/
theorem witness_LaneSystemInstructions :
    (∀ i ∈ [Instr.nopl (la 0 0 0 0 .i32), .pref (lm 0 8 0 0 .w8), .ltrap { la 0 0 0 0 .i32 with imm32 := 0xFFFF }, .ldt { lm 5 10 0 12 .w32 with order := .plain }, .ldt { lm 5 8 0 12 .w8 with order := .plain }],
      meets i = true) ∧
    (let i : Instr := .ldt { lm 5 8 0 12 .w8 with order := .plain }
     let c := ctx (laneAt i) i
     c.em.has 0 = true ∧ (c.sources i).a.vals[0] = 0x3000 ∧ (c.sources i).c.vals[0] = 0 ∧ 0x3000 + 15 * 0 + 8 ≤ 1024 * c.launch.record.scratch) ∧
    (let i : Instr := .ldt { lm 5 8 0 12 .w8 with order := .plain, off := 4 }
     meets i = true ∧ ((ctx (laneAt i) i).sources i).a.vals[0] + 4 = 0x3004) := by decide +kernel

/-- An empty effective mask, a queue of no depth, one without entries. -/
theorem witness_LaneIssueHolds :
    let e : Instr := .iadd { la 5 8 10 0 .i32 with h := { (la 5 8 10 0 .i32).h with guard := 3 } }
    let n : Instr := .fadd (la 5 99 8 0 .f32)
    let h : Instr := .iadd (la 5 97 8 0 .i32)
    (e.head? = some (headOf e) ∧ e.laneWf = true ∧ (laneInt (ctx (laneAt e) e) e).isSome = true ∧ (laneAt e).laneCtx?.isSome = true ∧
      (laneAt e).laneStopped (ctx (laneAt e) e) = false ∧ (ctx (laneAt e) e).group.pass.isNone = true ∧
      (∀ l, (ctx (laneAt e) e).clause.mask.has l = true → ((ctx (laneAt e) e).group.pred 3).has l = false)) ∧
    (laneReady (laneAt n) n = true ∧ n.laneWf = true ∧ popsOf n.laneFields = [3] ∧ (ctx (laneAt n) n).group.q[3].depth = 0) ∧
    (laneReady (laneAt h) h = true ∧ h.laneWf = true ∧ popsOf h.laneFields = [1] ∧ (queueOf (ctx (laneAt h) h).group 1).depth ≠ 0 ∧
      pushOf h.laneFields = none ∧ (queueOf (ctx (laneAt h) h).group 1).entries = []) := by decide +kernel
/-! Lane instructions in a pass. -/

/-- A pass group at a clause of one lane instruction. Pair 8 holds 0x3000 + 64 k in lane k, pair 14 an address of the second page, which is read-only
and lies at virtual address 0x40000000, both degenerate; pair 10 holds [0, k], pair 12 [k, k + 1]; pair 12's tag is i32. p1 holds in the lower
half, and is undecided in lane 5. -/
def passAt (i : Instr) : State :=
  withGroup (passing.place 0x14010 (natLe 16 0x80002083)) fun g => { g with
    clauses := vset g.clauses 0 [placedClause 3 2 i]
    v := [(8, fun l => (0x3000 + 64 * l, 0x3000 + 64 * l)), (14, fun l => (0x40000000 + 64 * l, 0x40000000 + 64 * l)), (10, fun l => (0, l)),
      (12, fun l => (l, l + 1))].foldl (fun v (x : Nat × (Nat → Nat × Nat)) =>
        (v.set (2 * x.1) { g.vreg (2 * x.1) with phys := Lanes.gen fun l => BitVec.ofNat 32 (x.2 l.val).1 }).set (2 * x.1 + 1)
          { g.vreg (2 * x.1 + 1) with phys := Lanes.gen fun l => BitVec.ofNat 32 (x.2 l.val).2 }) g.v
    p := vset (vset g.p 2 0x0000FFFF) 3 0xFFFF0020
    pass := g.pass.map fun p => { p with tags := p.tags.set 12 (Lanes.all LType.i32.code) }
    splits := g.splits.map fun p => p.map fun p => p.modSet fun e => { e with ran := [3], order := [3] } }

/-- The pass's own state of the group of a context. -/
def info (c : LaneCtx) : PassInfo :=
  c.group.pass.getD { level := 0, tiles := [], tags := [], undecided := 0, effects := 0, reached := 0, issued := 0, proofs := [] }

/-- The context in which a lane instruction issues in a pass, with its effective mask. -/
def passCtx (s : State) (i : Instr) : LaneCtx :=
  let h := headOf i
  match s.laneCtx? with
  | some c => { c with em := Mask.gen fun l =>
      ((if h.all then c.group.remaining.has l else c.clause.mask.has l) && !(info c).undecided.has l) &&
        c.group.decided h.guard.toNat h.gneg l == some true }
  | none => ctx s i

/-- A lane instruction issues in a pass, its guard decided everywhere. -/
def passReady (s : State) (i : Instr) : Bool :=
  let c := passCtx s i
  let h := headOf i
  i.head?.isSome && there s.laneCtx? (fun c => c.em == 0) && !s.laneStopped { c with em := 0 } && !s.epochDue c.team &&
  c.group.pass.isSome && c.em != 0 && (List.finRange 32).all fun l =>
    !((if h.all then c.group.remaining.has l else c.clause.mask.has l) && !(info c).undecided.has l) || c.group.decided h.guard.toNat h.gneg l != none

theorem PassReady_of (s : State) (i : Instr) (h : passReady s i = true) : PassReady s (passCtx s i) i (headOf i) (info (passCtx s i)) := by
  simp only [passReady, Bool.and_eq_true, Bool.not_eq_true', bne_iff_ne, List.all_eq_true] at h
  obtain ⟨⟨⟨⟨⟨⟨h1, h2⟩, h3⟩, h6⟩, h4⟩, h5⟩, h7⟩ := h
  have hc : ∃ c0, s.laneCtx? = some c0 ∧ c0.em = 0 := by
    cases hc : s.laneCtx? with
    | none => simp [hc, there] at h2
    | some c => exact ⟨c, rfl, by simpa [hc, there] using h2⟩
  obtain ⟨c0, hc0, he⟩ := hc
  refine ⟨?_, ?_, h3, h6, ?_, h5, fun l => ?_⟩
  · unfold headOf
    cases hi : i.head? with
    | none => simp [hi] at h1
    | some x => rfl
  · simp only [passCtx, hc0]
    cases c0
    simp_all
  · unfold info
    cases hp : (passCtx s i).group.pass with
    | none => simp [hp] at h4
    | some p => rfl
  · refine ⟨?_, ?_⟩
    · simp only [passCtx, hc0, Mask.has_gen]; rfl
    · intro hb
      have := h7 l (List.mem_finRange l)
      simp only [Bool.or_eq_true, Bool.not_eq_true', bne_iff_ne] at this
      cases this with
      | inl q => rw [q] at hb; cases hb
      | inr q => exact q

/-- The hypotheses of the pass clauses at a lane instruction's state. -/
def meetsPass (i : Instr) : Bool := passReady (passAt i) i && i.laneWf

/-- The integer and float forms without a queue, and those whose destination is a scalar register. -/
theorem witness_LaneIntegerResults_pass :
    (∀ i ∈ intForms, (popsOf i.laneFields).isEmpty = true → meetsPass i = true ∧
      ((passInt (passCtx (passAt i) i) i).isSome || (match i with | .mov _ => true | _ => false)) = true) ∧
    (∀ i ∈ [Instr.iadd (la 112 8 14 0 .i32), .imul { la 5 10 12 0 .i32 with h := { (la 5 0 0 0 .i32).h with guard := 2, gneg := true } }],
      meetsPass i = true ∧ (passInt (passCtx (passAt i) i) i).isSome = true) ∧
    (let i : Instr := .mov (la 5 10 0 0 .i32)
     meetsPass i = true ∧ 2 * 5 + 1 < (passCtx (passAt i) i).group.v.length ∧ 5 < (info (passCtx (passAt i) i)).tags.length ∧
     LMap.injective ((passCtx (passAt i) i).group.vreg 20).map = true) := by decide +kernel

theorem witness_LaneFloatResults_pass :
    ∀ i ∈ floatForms, meetsPass i = true ∧ (passFloat (passCtx (passAt i) i) i).isSome = true := by decide +kernel

/-- Those of otherForms that a pass computes, and a selection whose predicate is undecided in one lane, with equal tags and with different ones. -/
theorem witness_LaneOtherResults_pass :
    (∀ i ∈ otherForms, (popsOf i.laneFields).isEmpty = true → meetsPass i = true) ∧
    (∀ i ∈ [Instr.rcp (la 5 8 0 0 .f32), .log2 (la 5 8 0 0 .f16x2), .cvt (la 5 8 0 0 .f32), .pack { la 5 8 10 0 .f16x2 with fmod := 2 },
      .unpk (la 4 8 0 0 .e2m1x8), .ivmk (la 5 8 10 12 .f32), .expr { h := (la 5 0 0 0 .b32).h, a := 8, b := 10, c := 0, ty := .f32, toks := [.a, .b, .add] }],
      (passOther (passCtx (passAt i) i) i).isSome = true) ∧
    (∀ i ∈ [Instr.sel (la 5 10 8 1 .b32), .sel (la 5 12 12 1 .b32), .pmov (la 5 1 0 0 .b32), .pmov { la 5 1 0 0 .b32 with aneg := true }],
      meetsPass i = true) ∧
    (let i : Instr := .sel (la 5 12 8 1 .b32)
     let g := (passCtx (passAt i) i).group
     g.decided 1 false 3 = some true ∧ g.decided 1 false 20 = some false ∧ g.decided 1 false 5 = none ∧ g.tagOf 12 5 = .i32 ∧ g.tagOf 8 5 = .b32) ∧
    (let i : Instr := .vote (la 5 2 0 0 .b32)
     meetsPass i = true ∧ ∀ l, (passCtx (passAt i) i).em.has l = true → (passCtx (passAt i) i).group.decided 2 false l ≠ none) := by decide +kernel

/-- Compares of intervals that are decided either way and not; a confirmation over degenerate keys and over others. -/
theorem witness_LanePredicateResults_pass :
    (∀ i ∈ [Instr.fcmp { la 3 8 10 0 .f32 with fmod := 7 }, .pset { la 2 1 3 0 .b32 with fmod := 3 }, .pset { la 2 0 0 0 .b32 with fmod := 4, imm := true },
        .pmov { la 1 8 0 0 .b32 with fmod := 1 }, .vote { la 1 2 0 0 .b32 with fmod := 2 }, .ivtest { la 0 8 10 12 .i32 with fmod := 1 }],
      meetsPass i = true ∧ ∀ l, (passPred (passCtx (passAt i) i) i l).isSome = true) ∧
    (let i : Instr := .icmp { la 3 10 12 1 .i32 with fmod := 3 }
     let c := passCtx (passAt i) i
     meetsPass i = true ∧ ((c.ivTyped i .i32 0).a = (0, 0) ∧ (c.ivTyped i .i32 0).b = (0, 1)) ∧
     (c.ivTyped i .i32 4).a = (0, 4) ∧ (c.ivTyped i .i32 4).b = (4, 5)) ∧
    (∀ a ∈ [8, 10], let i : Instr := .conf { lm 3 a 0 0 .w32 with scope := .group, order := .plain }
      meetsPass i = true ∧ ((a = 8) = ∀ l, (passCtx (passAt i) i).em.has l = true →
        ((passCtx (passAt i) i).ivField (.src 1, BitVec.ofNat 7 a) .n32 l).1 = ((passCtx (passAt i) i).ivField (.src 1, BitVec.ofNat 7 a) .n32 l).2)) := by
  decide +kernel

/-- A degenerate pair, one of its own tag, one read under another; bounds written to a pair of registers, and to scalar registers. -/
theorem witness_LaneDestinations_pass :
    let c := passCtx (passAt (.mov (la 5 10 0 0 .i32))) (.mov (la 5 10 0 0 .i32))
    let g := c.group
    (g.rawPair 8 1 3).1 = (g.rawPair 8 1 3).2 ∧ (g.rawPair 12 1 3).1 ≠ (g.rawPair 12 1 3).2 ∧ g.commonTag 12 1 3 = some .i32 ∧
    sameInts .n32 .i32 = true ∧ sameInts .f32 .i32 = false ∧ intOf .i32 (elemAt 32 (g.rawPair 12 1 3).1 0) = 3 ∧
    (passAt (.mov (la 5 10 0 0 .i32))).group? 1 0 = some g ∧ c.em ≠ 0 ∧ g.pass = some (info c) ∧ 5 < (info c).tags.length ∧ backwards.injective = true := by
  decide +kernel

/-- Map edits and moves: selectors that are degenerate everywhere and not. -/
theorem witness_MapEdits_pass :
    (∀ i ∈ [Instr.shfl (la 5 8 8 0 .b32), .shfl (la 5 8 10 0 .b32), .shfli { la 5 8 0 0 .b32 with fmod := 3, imm32 := 31 },
        .shfli { la 1 2 0 0 .b32 with imm32 := 0x80000003 }, .bcast { la 5 8 0 0 .b32 with imm32 := 31 }, .compact (la 4 8 0 1 .b32), .mapset (la 5 8 10 0 .b32)],
      meetsPass i = true ∧ (passSelector (passCtx (passAt i) i) i).isSome = true) ∧
    (let i : Instr := .shfl (la 5 8 10 0 .b32)
     2 * 5 + 1 < (passCtx (passAt i) i).group.v.length ∧ 8 < (info (passCtx (passAt i) i)).tags.length ∧ looseLanes (passCtx (passAt i) i) i = 0xFFFFFFFE) ∧
    (∀ i ∈ [Instr.mapget { la 5 8 0 0 .b32 with imm32 := 0 }, .mapget { la 5 1 0 0 .b32 with imm32 := 0x80000000 }, .xpose (la 20 8 0 0 .b32),
      .qmix { la 4 8 0 0 .b32 with imm32 := 0x7F3F1F03 }], meetsPass i = true) ∧
    2 * (20 + 4) ≤ (passCtx (passAt .exit) .exit).group.v.length := by decide +kernel

theorem witness_WideInstructions_pass :
    ∀ i ∈ [Instr.wclr { la 1 0 0 0 .b32 with imm32 := 0x200 }, .wadd { la 1 2 3 0 .b32 with fmod := 1 }, .wmov (la 1 7 0 0 .b32),
      .wmov { la 5 7 0 0 .b32 with fmod := 1, imm32 := 3 }, .wrnd { la 5 2 16 10 .f32 with fmod := 1 },
      .scan { la 1 8 0 0 .i8x4 with fmod := 1, imm32 := 3 }, .dacc { la 1 2 16 0 .b32 with fmod := 1 }], meetsPass i = true := by decide +kernel

theorem witness_LaneSystemInstructions_pass :
    ∀ i ∈ [Instr.nopl (la 0 0 0 0 .i32), .pref (lm 0 8 0 0 .w8), .ltrap { la 0 0 0 0 .i32 with imm32 := 0xFFFF },
      .ldt { lm 5 10 0 12 .w32 with order := .plain }], meetsPass i = true := by decide +kernel

/-- With a descriptor in bd2: base 0x4000, stride 4, 124 bytes, dropping or not what lies outside. -/
def passDesc (i : Instr) (desc : Nat) : State := withGroup (passAt i) fun g => { g with bd := vset g.bd 2 (some (BitVec.ofNat 128 desc)) }

/-- Stores, an atomic, loads of which no lane is performed, accesses by a descriptor proven in some lanes, and a load that every lane performs. -/
theorem witness_LaneMemoryAccesses_pass :
    (∀ i ∈ [Instr.st { lm 0 8 10 2 .w16 with fmod := 1 }, .atom { lm 5 8 10 12 .w32 with fmod := 3 }, .sts (lm 0 8 12 0 .w32), .ld (lm 5 10 0 0 .w32),
        .ldb { lm 5 10 0 0 .w32 with bd := 2 }, .stb { lm 0 8 10 0 .w32 with bd := 2 }, .ld (lm 5 14 0 0 .w32)],
      let s := passDesc i zeroDesc
      passReady s i = true ∧ i.laneWf = true ∧ (passCtx s i).team.red = none ∧ (laneMemory i).isSome = true ∧
      ((laneMemory i).all fun x => (List.finRange 32).all fun l => (passPerforms s (passCtx s i) x.1 x.2 (laneMarks i).2 l).isSome ==
        (match i with | .ld f => f.a == 14 | _ => false)) = true) ∧
    (let i : Instr := .ldb { lm 5 10 0 0 .w32 with bd := 2 }
     let c := passCtx (passDesc i plainDesc) i
     let d := descOf (BitVec.ofNat 128 plainDesc)
     (c.ivField (.srcNoQ 1, 10) .n32 30 = (0, 30) ∧ 30 * d.stride + 4 ≤ d.size) ∧ (c.ivField (.srcNoQ 1, 10) .n32 31 = (0, 31) ∧ d.size < 31 * d.stride + 4) ∧
     (c.ivField (.srcNoQ 1, 8) .n32 0 = (0x3000, 0x3000) ∧ d.size < 0x3000 * d.stride ∧ d.zeros = false ∧ (descOf (BitVec.ofNat 128 zeroDesc)).zeros = true) ∧
     (info c).proofs.length < 16 ∧ vget c.group.bd 2 none = some (BitVec.ofNat 128 plainDesc) ∧ 2 * (5 + 1) ≤ c.group.v.length) ∧
    (let i : Instr := .ld (lm 5 14 0 0 .w32)
     let o := laneMemOp (passAt i) (passCtx (passAt i) i) i (lm 5 14 0 0 .w32)
       { reach := .flat, well := false, size := 4, access := .load, aop := none, tags := false, data := 1 } { lane := 0, ptr := 0x40000000, target := .dropped }
     let held : State := { passAt i with ops := [{ o with id := 50, order := .acquire, cid := none }] }
     passReady held i = true ∧ (passAt i).canIssue [o] = true ∧ held.canIssue [{ o with past := [50] }] = false) := by decide +kernel

/-- A guard that is undecided in a lane, with lanes in which it is decided true, and without. -/
theorem witness_LaneIssueHolds_pass :
    ∀ n ∈ [false, true],
      let i : Instr := .iadd { la 5 8 10 0 .i32 with h := { (la 5 0 0 0 .i32).h with guard := 1, gneg := n } }
      let s := masked (passAt i) (if n then 0x20 else 0xFFFFFFFF)
      there s.laneCtx? (fun c => !s.laneStopped c && !s.epochDue c.team && c.group.pass.isSome && (passInt c i).isSome &&
        c.clause.mask.has 5 && (c.group.decided 1 n 5).isNone && (c.clause.mask.has 3 && c.group.decided 1 n 3 == some true) != n) = true ∧
      i.laneWf = true ∧ i.head? = some (headOf i) := by decide +kernel

/-- A push to a full queue, a marked load that finds no room, an entry that waits for its data. -/
theorem witness_LaneIssueHolds_queues :
    (let i : Instr := .iadd (la 97 8 10 0 .i32)
     let s := withGroup (laneAt i) fun g => { g with q := vset g.q 1 { depth := 1, entries := [{ eid := 0, data := Lanes.all 7, waiting := 0 }] } }
     laneReady s i = true ∧ i.laneWf = true ∧ pushOf i.laneFields = some 1 ∧ (queueOf (ctx s i).group 1).depth ≤ (queueOf (ctx s i).group 1).entries.length) ∧
    (let i : Instr := .ld { lm 97 8 0 2 .w32 with fmod := 1 }
     let s := withGroup (laneAt i) fun g => { g with q := vset g.q 1 { depth := 1, entries := [{ eid := 0, data := Lanes.all 7, waiting := 0 }] } }
     laneReady s i = true ∧ i.laneWf = true ∧ (laneMarks i).1 = true ∧ (laneMemory i).isSome = true ∧ pushOf i.laneFields = some 1) ∧
    (let i : Instr := .iadd (la 5 96 10 0 .i32)
     let s := withGroup (laneAt i) fun g => { g with q := vset g.q 0 { depth := 2, entries := [{ eid := 0, data := Lanes.all 7, waiting := 1 }] } }
     laneReady s i = true ∧ i.laneWf = true ∧ popsOf i.laneFields = [0] ∧ ((queueOf (ctx s i).group 0).entries.any fun e => e.waiting ≠ 0) = true) := by
  decide +kernel

/-- The rows of `ldt` that pass the end of the scratchpad, the first of them; a tag that fails while an earlier acquire still holds the load back. -/
theorem witness_LaneSystemInstructions_bounds :
    let i : Instr := .ldt { lm 5 8 0 12 .w8 with order := .plain }
    let s := withGroup (laneAt i) fun g => { g with v := g.v.set 12 { g.vreg 12 with phys := Lanes.all 0x1000 } }
    let c := ctx s i
    laneReady s i = true ∧ i.laneWf = true ∧ c.em.has 0 = true ∧ (c.sources i).a.vals[0] = 0x3000 ∧ (c.sources i).c.vals[0] = 0x1000 ∧
    (∃ r : Fin 16, 1024 * c.launch.record.scratch < 0x3000 + r.val * 0x1000 + 8 ∧ ∀ q : Fin 16, q < r → 0x3000 + q.val * 0x1000 + 8 ≤ 1024 * c.launch.record.scratch) := by
  decide +kernel

theorem witness_LaneMemoryAccesses_early :
    let i : Instr := .ld { lm 5 14 0 0 .w32 with order := .plain }
    let s := withGroup ((memAt i 0).place 0x14010 (natLe 16 0x800020A7)) fun g => { g with v := g.v.set 15 { g.vreg 15 with phys := Lanes.all (BitVec.ofNat 32 (2 ^ 25)) } }
    let f := lm 5 14 0 0 .w32
    let m : MemForm := { reach := .flat, well := false, size := 4, access := .load, aop := none, tags := false, data := 1 }
    let o := laneMemOp s (ctx s i) i f m { lane := 0, ptr := 0x40000000, target := .dropped }
    let held : State := { s with ops := [{ o with id := 50, order := .acquire, cid := none }] }
    laneReady held i = true ∧ i.laneWf = true ∧ bad (accesses held i) (fun e => e.2.1.1 == .tagMismatch) = true := by decide +kernel

/-! Hypotheses that can be met: fetching, decoding, stepping. -/

/-- A scalar word, a word that decodes to nothing, one on a page that may not execute; an event. -/
theorem witness_StepRunsDecoded :
    let s := State.reset.withFetchWord 32 0x04C80005
    let bad32 := State.reset.withFetchWord 32 0xFFFFFFFF
    let r : SplitRef := { ref with team := State.reset.fresh }
    s.agenda = [.scalar r] ∧ there (s.issuerOf r) (fun c => !s.stopped c && s.reachable (some c.core) c.asid c.pc 4 &&
      good (s.fetchScalar c.core c.launch.id c.asid c.pc) fun x => (decodeScalar x.1).toOption == some (.addi 6 8 5)) = true ∧
    there (bad32.issuerOf r) (fun c => !bad32.stopped c && bad32.reachable (some c.core) c.asid c.pc 4 &&
      good (bad32.fetchScalar c.core c.launch.id c.asid c.pc) fun x => (decodeScalar x.1).toOption == none) = true ∧
    there (s.issuerOf r) (fun c => bad (s.fetchScalar c.core c.launch.id c.asid 0x40000000) fun _ => true) = true ∧
    (Instr.clauseFetch r).view = .event := by decide +kernel

/-- A split whose next word lies in a drained well. -/
theorem witness_StepRunsDecoded_well :
    let w : State := (cold ((base.place 0x14010 (natLe 16 0x16001)).place 0x16000 (natLe 16 (2 ^ 47 + 0x2083)))).setUnit
      { unit := .well 0, score := 64, state := .drained }
    let s := withSplit w fun p => p.modSet fun e => { e with pc := 0x40000000 }
    there (s.issuerOf ref) (fun c => !s.stopped c && !s.reachable (some c.core) c.asid c.pc 4) = true := by decide +kernel

/-- With nothing on the agenda, a machine that has nothing to do and one that has. -/
theorem witness_StepRunsDecoded_idle :
    State.reset.agenda = [] ∧ State.reset.prompt = none ∧ base.agenda = [] ∧ there base.prompt (fun _ => true) = true := by decide +kernel

/-- A lane instruction that its split's clause has reached. -/
theorem witness_StepRunsDecoded_lane :
    let i : Instr := .iadd (la 5 8 10 0 .i32)
    ({ laneAt i with agenda := [Action.lane ref] } : State).nextLane ref = some i := by decide +kernel

/-- An odd register of a pair, a register that waits for a result, and a split that a `bar` stops. -/
theorem witness_ScalarWordsRefused :
    let busy : State := withGroup base fun g => g.mark 0 8 9 false
    let bar : State := withSplit base fun p => { p with status := .barWait { obj := none, gen := 0, join := true, sd := 9 } }
    base.issuer?.isSome = true ∧ base.stopped (at_ base) = false ∧ (decodeScalar 0xFFFFFFFF).isOk = false ∧
    aluResult (at_ busy).read (.sub 6 8 10) = some (6, 0) ∧ ([8, 10, 6].any ((at_ busy).group.busyReg 0)) = true ∧ busy.issuer?.isSome = true ∧
    bar.issuer?.isSome = true ∧ bar.stopped (at_ bar) = true := by decide +kernel

/-! Decoding: the words that spec/ gives for its assembly, in the chapters' order, and a few written out field by field. -/

/-- The instruction of a scalar word, and of a lane word in its three groups of 32 bits, highest first. -/
def scalarOf (w : Word) : Option Instr := (decodeScalar w).toOption
def laneOf (hi mid lo : Word) : Option Instr := (decodeLane (hi ++ mid ++ lo)).toOption

/-- R77, R80, chapter 4 and the program of chapter 5: ALU, loads and stores, an atomic, branches and calls. -/
theorem test_decode_scalar_words :
    scalarOf 0x04600010 = some (.addi 3 0 16) ∧ scalarOf 0x2C300000 = some (.sld 1 16 0) ∧ scalarOf 0x5C000009 = some (.call 9) ∧
    scalarOf 0x00422800 = some (.add 2 2 5) ∧ scalarOf 0x0421FFFF = some (.addi 1 1 0xFFFF) ∧ scalarOf 0x483FFFFC = some (.bnz 1 0x1FFFFC) ∧
    scalarOf 0x34500008 = some (.sst 2 16 8) ∧ scalarOf 0x00F10006 = some (.or 7 17 0) ∧
    scalarOf 0x3D0610C4 = some (.satom 8 6 2 { size := false, order := 1, scope := 4, aop := 4 }) ∧ scalarOf 0x00A10802 = some (.mul 5 1 1) ∧
    scalarOf 0x60000000 = some .ret ∧ scalarOf 0x14410002 = some (.shli 2 1 2) ∧ scalarOf 0x44E0000F = some (.bz 7 15) ∧
    scalarOf 0b000000_00001_00010_00000_00000010100 = some (.popc 1 2) ∧ scalarOf 0b001001_00101_00000_1000000000000001 = some (.lui 5 0x8001) := by
  decide +kernel

/-- Chapters 4 to 7, 10, 12 and 17: running clauses, control registers, splits, traps and exits. -/
theorem test_decode_control_words :
    scalarOf 0x68000009 = some (.run 0 false 9) ∧ scalarOf 0x68800000 = some (.run 1 false 0) ∧ scalarOf 0x6C090002 = some (.runx 9 2 false) ∧
    scalarOf 0x70000009 = some (.waitk 9) ∧ scalarOf 0x74050000 = some (.mtcExec 5) ∧ scalarOf 0x78600070 = some (.mfc 3 0x070) ∧
    scalarOf 0x78200006 = some (.mfc 1 6) ∧ scalarOf 0x74010012 = some (.mtcTcfg 1 2) ∧ scalarOf 0x74050060 = some (.mtcFabw 5) ∧
    scalarOf 0x58800004 = some (.split 1 false 4) ∧ scalarOf 0xC000002A = some (.trap 0x2A) ∧ scalarOf 0xC4000000 = some .exit ∧
    scalarOf 0xC8000000 = some .yield ∧ scalarOf 0xCC000000 = some .nop ∧
    scalarOf 0b010011_10110_111111111111111111111 = some (.bany 5 true 0x1FFFFF) := by decide +kernel

/-- Chapters 9, 15 to 17 and 20: engine commands, barriers and fences. -/
theorem test_decode_engine_words :
    scalarOf 0x81944081 = some (.cpy 12 20 8 true 1) ∧ scalarOf 0x81F60000 = some (.cpy 15 22 0 false 0) ∧
    scalarOf 0x89880202 = some (.mloopSbp 12 8 false 0 2) ∧ scalarOf 0x89880002 = some (.mloop 12 8 false 0 2) ∧
    scalarOf 0x89E80102 = some (.mloop 15 8 true 0 2) ∧ scalarOf 0x89888502 = some (.mloopDirect 12 8 16 true 0 2) ∧
    scalarOf 0x8DB40002 = some (.siph 13 20 2) ∧ scalarOf 0x91940000 = some (.lnch 12 20 false) ∧ scalarOf 0x91940001 = some (.lnch 12 20 true) ∧
    scalarOf 0x98000002 = some (.barJoin 0 0) ∧ scalarOf 0x98A84803 = some (.barOwe 5 8 9) ∧ scalarOf 0x9C000034 = some (.fence true 2 4) ∧
    scalarOf 0xA0000003 = some (.qfence 3) ∧ scalarOf 0xA9A04000 = some (.stepq 13 8 false) ∧ scalarOf 0xADC04801 = some (.stepp 14 9 true) := by
  decide +kernel

/-- Chapters 4, 6, 9, 11 and 12: lane words of the LA and LX formats. -/
theorem test_decode_lane_words :
    laneOf 0x20000804 0x10018000 0 = some (.fadd (la 4 1 2 0 .f16x2)) ∧ laneOf 0x00001423 0x80000000 0 = some (.iadd (la 10 8 112 0 .i32)) ∧
    laneOf 0x0C001020 0x00000020 2 = some (.laneShl { la 8 8 0 0 .i32 with imm := true, imm32 := 2 }) ∧
    laneOf 0x23001204 0x10312080 0 = some (.ffma { la 9 1 2 3 .f32 with rnd := .rz, bneg := true }) ∧
    laneOf 0x61000204 0x00098004 0x00020002 = some (.shfli { la 1 1 0 0 .b32 with fmod := 4, imm32 := 0x00020002 }) ∧
    laneOf 0x5000040C 0x00000024 0 = some (.icmp { la 2 3 0 0 .i32 with imm := true, fmod := 4 }) ∧
    laneOf 0x5500E808 0x00098000 0 = some (.vote (la 116 2 0 0 .b32)) ∧ laneOf 0x69000204 0x80098000 0 = some (.permld (la 1 1 16 0 .b32)) ∧
    laneOf 0x70040004 0x00048000 0 = some (.scan { la 0 1 0 0 .e4m3x4 with h := { (la 0 1 0 0 .b32).h with fs := true } }) ∧
    laneOf 0x71000200 0x80098000 0 = some (.dacc (la 1 0 16 0 .b32)) ∧ laneOf 0x7200E804 0x80010000 0 = some (.wrnd (la 116 1 16 0 .f32)) ∧
    laneOf 0x43000C08 0x00070001 0 = some (.unpk { la 6 2 0 0 .e2m1x8 with fmod := 1 }) ∧ laneOf 0xC8000C1B 0xB7700000 0 = some (.ivmk (la 6 6 118 119 .i32)) ∧
    laneOf 0xCB00041B 0xB7708000 0 = some (.ivtest (la 2 6 118 119 .n32)) ∧ laneOf 0xC9001404 0x00008000 0 = some (.ivlo (la 10 1 0 0 .n32)) ∧
    laneOf 0x230005D7 0xA0210200 0 = some (.ffma { la 2 117 116 2 .f32 with aneg := true }) ∧
    laneOf 0xC0000E04 0x1030FFFF 0xFFFE9210 =
      some (.expr { h := (la 7 0 0 0 .b32).h, a := 1, b := 2, c := 3, ty := .f32, toks := [.a, .b, .c, .fma, .sat01] }) := by decide +kernel

/-- Chapters 4, 9, 15 and 16: lane words of the LM format, and clause headers. -/
theorem test_decode_memory_words :
    laneOf 0x80000228 0x000F5000 0 = some (.ld { lm 1 10 0 0 .w32 with order := .plain }) ∧
    laneOf 0x81000038 0x200F5000 0 = some (.st { lm 0 14 4 0 .w32 with order := .plain }) ∧
    laneOf 0x85000024 0x100F5000 0 = some (.sts { lm 0 9 2 0 .w32 with order := .plain }) ∧
    laneOf 0x80002030 0x000FB000 0x100 = some (.ld { lm 16 12 0 0 .sector with order := .plain, off := 0x100 }) ∧
    laneOf 0x88000808 0x003F3000 0 = some (.ldt { lm 4 2 0 3 .w16 with order := .plain }) ∧
    laneOf 0x8B000028 0xC00F900D 0 = some (.atomw { lm 0 10 24 0 .w128 with order := .plain, fmod := 13 }) ∧
    laneOf 0x8B0015C8 0x077F500E 0 = some (.atomw { lm 10 114 0 119 .w32 with order := .plain, fmod := 14 }) ∧
    laneOf 0x8C000618 0x000F4000 0 = some (.conf { lm 3 6 0 0 .w32 with order := .plain, scope := .group }) ∧
    laneOf 0x8E000028 0x180FB000 0 = some (.tagst { lm 0 10 3 0 .sector with order := .plain }) ∧
    decodeHeader (0xFFA00080#32 ++ 0#64) = some { n := 10, wait := 0, aen := true, fla := 0, ben := false, flb := 0 } ∧
    decodeHeader (0xFF500188#32 ++ 0#64) = some { n := 5, wait := 1, aen := true, fla := 1, ben := false, flb := 0 } ∧
    decodeHeader (0xFF70018C#32 ++ 0x80000000#32 ++ 0#32) = some { n := 7, wait := 1, aen := true, fla := 1, ben := true, flb := 2 } := by decide +kernel

/-- R77, R78, R82, R84, R87, R88: unassigned opcodes and codes, and fields that must be zero, are refused. -/
theorem test_decode_refuses :
    (∀ op ∈ [0x1F, 0x25, 0x29, 0x2C, 0x2F, 0x34, 0x3F], scalarOf (BitVec.ofNat 32 (op * 2 ^ 26)) = none) ∧
    scalarOf 0b000000_00001_00010_00011_00000011000 = none ∧ scalarOf 0b000000_00001_00010_00011_00000010100 = none ∧
    scalarOf 0x14410020 = none ∧ scalarOf 0xC4000001 = none ∧ scalarOf 0x9800000D = none ∧ scalarOf 0x4CA00000 = none ∧
    laneOf 0x2F000804 0x10018000 0 = none ∧ laneOf 0x20000804 0x100A0000 0 = none ∧ laneOf 0x20000804 0x1001F000 0 = none ∧
    laneOf 0x20010804 0x10018000 0 = none ∧ laneOf 0xC0000E04 0x1030FFFF 0xFF0F9210 = none ∧
    decodeHeader (0xFF000080#32 ++ 0#64) = none ∧ decodeHeader (0xFF100080#32 ++ 1#64) = none ∧ decodeHeader (0xFF1000E0#32 ++ 0#64) = none := by
  decide +kernel

/-! WellFormed: an ill-formed term for each check. -/

/-- R76, R79, R80, R111, R178, R283, R290, R292, R293. -/
theorem test_ill_formed_scalar :
    ∀ i ∈ [Instr.sld 1 3 0, .sst 1 3 0, .sld2 1 2 0, .sld2 2 3 0, .sst2 1 2 0, .satom 1 3 0 { size := false, order := 1, scope := 4, aop := 4 },
      .satom 1 2 0 { size := true, order := 1, scope := 4, aop := 4 }, .satom 1 2 0 { size := false, order := 1, scope := 6, aop := 4 },
      .satom 1 2 0 { size := false, order := 0, scope := 4, aop := 4 }, .satom 1 2 0 { size := false, order := 3, scope := 4, aop := 0 },
      .satom 1 2 3 { size := false, order := 1, scope := 4, aop := 0 }, .satom 1 2 3 { size := false, order := 2, scope := 4, aop := 1 },
      .satom 0 2 4 { size := true, order := 1, scope := 4, aop := 12 }, .satom 1 2 3 { size := false, order := 1, scope := 4, aop := 13 },
      .satom 1 2 3 { size := false, order := 1, scope := 4, aop := 15 }, .mtcBd 3 0, .mtcBd 2 15, .mfc 1 0x009, .mfc 1 0x020, .cpy 1 3 0 false 0,
      .cpy 1 2 4 false 0, .cpys 1 3 0 true 0, .mloop 1 29 false 0 2, .mloopSbp 1 29 false 0 2, .mloopDirect 1 8 3 false 0 2, .siph 1 3 0, .lnch 1 3 false,
      .barOwe 1 0 2, .barMarkn 1 0 2, .fence false 0 6, .qfence 0], i.wf = false := by decide +kernel

/-- R42, R44, R81, R84, R133, R145, R190, R191: LA fields that an entry does not accept. -/
theorem test_ill_formed_la :
    ∀ i ∈ [Instr.iadd { la 5 8 9 0 .i32 with rnd := .rne }, .laneAnd { la 5 8 9 0 .b32 with sat := .none }, .fmin { la 5 8 9 0 .f32 with sat := .sat }, .iadd { la 5 8 9 0 .i32 with aneg := true },
      .iadd { la 5 8 9 0 .i32 with aabs := true }, .iadd { la 5 8 9 0 .i32 with bneg := true }, .fadd { la 5 8 9 0 .f32 with cneg := true },
      .not { la 5 8 0 0 .b32 with imm := true }, .iadd { la 5 8 9 0 .i32 with imm := true }, .iadd { la 5 8 9 0 .i32 with imm32 := 1 },
      .iadd { la 5 8 9 0 .i32 with fmod := 1 }, .iadd (la 5 8 9 0 .f32), .iadd (la 5 8 9 1 .i32), .iadd (la 5 8 10 0 .i64), .iadd (la 4 9 10 0 .i64),
      .iadd (la 112 8 10 0 .i64), .iadd { la 5 8 9 0 .i32 with h := { (la 5 8 9 0 .i32).h with fs := true } }, .icmp (la 8 8 9 0 .i32),
      .frnd { la 5 8 0 0 .f32 with rnd := .stoch }, .cvt { la 5 8 0 0 .f16x2 with fmod := 2 }, .cvt { la 5 8 0 0 .f32 with fmod := 3, imm32 := 2 },
      .pack { la 5 8 9 0 .f32 with fmod := 3 }, .shfli { la 5 8 0 0 .b32 with fmod := 4, imm32 := 0x00050000 }, .shfl { la 4 8 10 0 .n64 with imm32 := 0x80000000 },
      .xpose (la 5 8 0 0 .b32), .permld (la 5 8 17 0 .b32), .scan { la 1 8 0 0 .i8x4 with imm32 := 4 }, .wadd (la 8 1 2 0 .b32),
      .ivlo (la 5 97 0 0 .i32), .pset { la 2 1 0 0 .b32 with fmod := 4 }], i.wf = false := by decide +kernel

/-- R64, R85, R87, R88, R143, R272, R274, R279, R280: LM and LX fields that an entry does not accept. -/
theorem test_ill_formed_lm_lx :
    (∀ i ∈ [Instr.ld { lm 5 8 0 0 .w32 with order := .release }, .st { lm 0 8 5 0 .w32 with order := .acquire }, .ld { lm 5 8 0 0 .w32 with order := .acqRel },
      .ld { lm 5 8 0 0 .w32 with fmod := 2 }, .ld { lm 5 8 0 0 .w32 with fmod := 4 }, .ld { lm 5 8 0 8 .w32 with fmod := 1 }, .ld { lm 5 8 0 0 .w32 with bd := 0 },
      .ldb (lm 5 8 0 0 .w32), .ld (lm 5 9 0 0 .w32), .ld (lm 5 8 0 0 .w64), .ld (lm 6 8 0 0 .w128), .ld (lm 12 8 0 0 .sector), .ld (lm 5 8 1 0 .w32),
      .ld (lm 5 97 0 0 .w32), .atom { lm 5 8 9 0 .w16 with fmod := 4 }, .atom { lm 5 8 9 0 .w32 with fmod := 13 }, .atom { lm 5 8 9 0 .w32 with fmod := 15 },
      .atom { lm 4 8 10 0 .w64 with fmod := 12 }, .atom { lm 5 8 9 0 .w32 with fmod := 4, hint := .streaming }, .conf (lm 3 8 0 0 .w32), .tagld (lm 5 8 0 0 .w32),
      .ldt (lm 5 8 0 0 .w32), .qcnt (lm 5 8 0 0 .w8)], i.wf = false) ∧
    (∀ toks ∈ [[], [Tok.a, .b], [Tok.a, .add], [Tok.a, .dup, .dup, .dup, .dup, .add, .add, .add, .add],
      [Tok.a, .neg, .neg, .neg, .neg, .neg, .neg, .neg, .neg], [Tok.b]],
      Instr.wf (.expr { h := (la 5 0 0 0 .b32).h, a := 1, b := 0, c := 0, ty := .f32, toks := toks }) = false) ∧
    Instr.wf (.expr { h := (la 96 0 0 0 .b32).h, a := 1, b := 0, c := 0, ty := .f32, toks := [.a, .d, .add] }) = false := by decide +kernel

/-! Single steps. The expected values are worked by hand from the rules, or are those of spec/'s programs where that is said. -/

/-- A scalar instruction performed; what the issuing split then reads. -/
def did (i : Instr) (s : State) : State := after (exec i s) s
def reads (i : Instr) (s : State) (r : SReg) : Word := (at_ (did i s)).read r
/-- A lane instruction performed at its state; a lane of a register afterwards. -/
def lane (i : Instr) (rs : List (Nat × (Fin 32 → Word))) (d : Nat) (l : Fin 32) : Word :=
  let s := rs.foldl (fun s r => withGroup s fun g => { g with v := g.v.set r.1 { g.vreg r.1 with phys := Lanes.gen r.2 } }) (laneAt i)
  there_ (did i s) d l
where there_ (s : State) (d : Nat) (l : Fin 32) : Word := match s.group? 1 0 with | some g => (g.vreg d).read l | none => 0
/-- The issuing split's PC. -/
def pcAt (s : State) : DWord := (at_ s).pc

/-- R97: the high half of a product of the least numbers, quotient and remainder by zero, shifts by 32 and more, a reversal. -/
theorem test_alu_corners :
    let s := withRegs base [(1, 0x80000000), (2, 33), (3, 0x00000001)]
    reads (.mulhi 4 1 1) s 4 = 0x40000000 ∧ reads (.mulhu 4 1 1) s 4 = 0x40000000 ∧ reads (.divu 4 2 0) s 4 = 0xFFFFFFFF ∧ reads (.remu 4 2 0) s 4 = 33 ∧
    reads (.sra 4 1 2) s 4 = 0xC0000000 ∧ reads (.shl 4 3 2) s 4 = 2 ∧ reads (.brev 4 3) s 4 = 0x80000000 ∧ reads (.slt 4 1 3) s 4 = 1 ∧
    reads (.sltu 4 1 3) s 4 = 0 ∧ reads (.ctz 4 0) s 4 = 32 ∧ reads (.add 0 1 1) s 0 = 0 := by decide +kernel

/-- R98: immediates, sign-extended where the table says so. -/
theorem test_immediates :
    let s := withRegs base [(1, 0xFFFFFFFF)]
    reads (.addi 4 1 0xFFFF) s 4 = 0xFFFFFFFE ∧ reads (.andi 4 1 0x8000) s 4 = 0x00008000 ∧ reads (.slti 4 1 0) s 4 = 1 ∧
    reads (.muli 4 1 0xFFFE) s 4 = 2 ∧ reads (.lui 4 0x8001) s 4 = 0x80010000 := by decide +kernel

/-- R75, R105, R107: a backward branch, a call and where it returns. -/
theorem test_branches :
    let s := withRegs base [(1, 6), (31, 0x2000)]
    pcAt (did (.bz 0 0x1FFFFD) s) = 0x1000 + 4 - 12 ∧ pcAt (did (.bz 1 5) s) = 0x1004 ∧ reads (.call 9) s 31 = 0x1004 ∧ pcAt (did (.call 9) s) = 0x1028 ∧
    pcAt (did .ret s) = 0x2000 := by decide +kernel

/-- Chapter 2's divergence example, its first row: p1 holds in the upper half; the other lanes go to L1. -/
theorem test_split :
    let s := did (.split 1 true 0x3FF) (withGroup base fun g => { g with p := vset g.p 1 0xFFFF0000 })
    there (s.group? 1 0) (fun g => g.live.map (fun x => (x.1, x.2.set.own, x.2.set.pc)) ==
      [(0, 0xFFFF0000, 0x1004), (1, 0x0000FFFF, 0x2000)]) = true := by decide +kernel

/-- R69, R108: `run` of index 9 names the clause at LBASE + 16 × 9, under the lanes on which p1 does not hold. -/
theorem test_run :
    let s := did (.run 1 true 9) (withGroup (withRegs base [(20, 77)]) fun g => { g with p := vset g.p 1 1 })
    there (s.group? 1 0) (fun g => (vget g.clauses 0 []).map (fun q => (q.addr, q.mask, q.caps[4])) == [(0x2090, 0xFFFFFFFE, 77)]) = true := by decide +kernel

/-- R16: EXEC is ANDed with OWN. -/
theorem test_mtc_exec : (at_ (did (.mtcExec 1) (withRegs (divided 0x2000) [(1, 0xFFF0FFF0)]))).exec = 0x0000FFF0 := by decide +kernel

/-- R116, R344: a trap's cause, code and PC in the record; the split is held there. -/
theorem test_trap :
    ((did (.trap 0x2A) ringed).asid 1).traps.any (fun t => t.2.cause == .userTrap && t.2.ucode == 0x2A && t.2.spc == 0x1000) = true ∧ pcAt (did (.trap 0x2A) ringed) = 0x1000 := by decide +kernel

/-- R104: a compare-and-swap's operation carries the old content of sd as its compare value. -/
theorem test_satom_cas :
    let s := did (.satom 4 2 6 { size := false, order := 1, scope := 4, aop := 3 }) (withRegs base [(2, 0x100), (4, 5), (6, 9)])
    s.ops.map (fun o => (o.addr, o.size, match o.kind with | .rmw r => (r.aop, r.b, r.c) | _ => (.load, 0, 0))) = [(0x40000100, 4, (.cas, 9, 5))] := by
  decide +kernel

/-- R99: a store's bytes, lowest first, at base plus a negative offset. -/
theorem test_sst :
    let s := did (.sst 4 2 0xFFFC) (withRegs base [(2, 0x104), (4, 0x01020304)])
    s.ops.map (fun o => (o.addr, o.data)) = [(0x40000100, [(4, 0xFF), (3, 0xFF), (2, 0xFF), (1, 0xFF)])] := by decide +kernel

/-- R285, R287: the last arrival of an object's generation: OK with the generation of the arrival, and the object's bytes. -/
theorem test_bar_mark :
    let s := did (.barMark 9 4) (withObject (withRegs base [(4, 0x10)]) 0x10 3 1 15)
    (at_ s).read 9 = 15 ∧ barObj ((s.scratchOf 1).readN 0x10 16) = { quota := 3, left := 3, gen := 0, tx := 0 } := by decide +kernel

/-- R28, R29, R331: the exit of a launch's only group ends the group, and with it its team. -/
theorem test_exit : (did .exit base).teams = [] := by decide +kernel

/-- R128, R129: a saturating sum of packed elements, the negative quotient of an odd number. -/
theorem test_lane_integers :
    lane (.iadd { la 5 8 10 0 .i8x4 with sat := .sat }) [(8, fun _ => 0x7F80FF01), (10, fun _ => 0x0180FF01)] 5 3 = 0x7F80FE02 ∧
    lane (.idiv (la 5 8 10 0 .i32)) [(8, fun _ => 0xFFFFFFF9), (10, fun _ => 2)] 5 0 = 0xFFFFFFFD := by decide +kernel

/-- R130: a fused product whose sum leaves only its last bit, and a sum of infinities. -/
theorem test_lane_floats :
    lane (.ffma (la 5 8 10 12 .f32)) [(8, fun _ => 0x3F800001), (10, fun _ => 0x3F800001), (12, fun _ => 0xBF800002)] 5 0 = 0x28800000 ∧
    lane (.fadd (la 5 8 10 0 .f32)) [(8, fun _ => 0x7F800000), (10, fun _ => 0xFF800000)] 5 0 = 0x7FC00000 := by decide +kernel

/-- R133: the conversion of a float beyond the range of i32. -/
theorem test_lane_conversion : lane (.cvt { la 5 8 0 0 .i32 with fmod := 2 }) [(8, fun _ => 0x4F000000)] 5 0 = 0x7FFFFFFF := by decide +kernel

/-- R145: the bit-field exchange of chapter 6 (`shfli.xf v1, v1, 2, 0, 2`): lane l takes from l XOR ((l AND 3) << 2). -/
theorem test_lane_map : lane (.shfli { la 5 8 0 0 .b32 with fmod := 4, imm32 := 0x00020002 }) [(8, fun l => BitVec.ofNat 32 l.val)] 5 7 = 11 := by
  decide +kernel

/-- Chapter 7: F = 219,520 with E = −10 under a record's shift of −2 is 53.59375. -/
theorem test_wide_rounding :
    let i : Instr := .wrnd (la 5 1 16 0 .f32)
    let s := withGroup (laneAt i) fun g => { g with
      w := vset g.w 1 { phys := Lanes.all { f := 219520, e := 0x3F6, nonfin := false, loss := false }, map := LMap.id }
      v := g.v.set 23 { g.vreg 23 with phys := Lanes.all 0x0FE00020 } }
    lane.there_ (did i s) 5 9 = 0x42566000 := by decide +kernel

/-- R138, R139: a comparison and a ballot. -/
theorem test_lane_predicates :
    there ((did (.icmp { la 2 8 0 0 .i32 with imm := true, fmod := 4, imm32 := 0x37A0 }) (laneAt (.icmp (la 2 8 0 0 .i32)))).group? 1 0)
      (fun g => g.pred 2 == 0x80000000) = true := by decide +kernel

/-! Hypotheses that can be met: the device's own steps. -/

/-- One operation of a state, looked at. -/
def opIs (s : State) (id : Nat) (p : MemOp → Bool) : Bool := there (s.op? id) p
/-- The operations of a state at a place. -/
def placed (s : State) (p : Place) : State := { s with ops := s.ops.map fun o => { o with place := p } }
/-- The placed state, no leaf in a core, with one operation of its group, numbered 60. -/
def oneOp (kind : OpKind) (addr : Nat) (f : MemOp → MemOp) : State :=
  { cold base with ops := [f { blankOp (.group 1 0 0) 1 kind .mem addr 4 with id := 60, uid := 2 }] }
/-- A store that is in its queue, and a load of the same bytes after it. -/
def stored : State := did (.sst 4 2 0) (withRegs base [(2, 0x100), (4, 0x01020304)])
def storedLoaded : State := did (.sld 5 2 0) (cold stored)
/-- A store of a lane to the scratchpad, and an atomic. -/
def scratchStored : State := let i : Instr := .sts (lm 0 8 10 0 .w32); did i (masked (laneAt i) 1)
def atomic (a : Aop) : State :=
  let s := did (.satom 8 2 6 { size := false, order := 1, scope := 4, aop := 4 }) (withRegs base [(2, 0x100), (6, 9), (8, 5)])
  { s with ops := s.ops.map fun o => match o.kind with | .rmw r => { o with kind := .rmw { r with aop := a } } | _ => o }

/-- A load behind a store of its bytes and one behind none, one of the well, one that is seq_cst at the device's scope; a store at each of its
places, to memory and to a scratchpad; every atomic operation. -/
theorem witness_MemoryMovement :
    opIs storedLoaded (storedLoaded.fresh - 1) (fun o => storedLoaded.maySatisfy o && o.kind == .load && o.space == .mem && o.effOrder != .seqCst &&
      o.core? == some 0 && ((storedLoaded.searchPath o.group? (some 0) (·.follows o)).map fun w => w.at? o.addr) == [some (4, 0xFF)]) = true ∧
    (let s := did (.sld 5 2 0) (withRegs base [(2, 0x100)])
     opIs s (s.fresh - 1) (fun o => s.maySatisfy o && (s.searchPath o.group? (some 0) (·.follows o)).isEmpty) = true) ∧
    (let s := oneOp .wellLoad (2 ^ 47) id
     opIs s 60 (fun o => s.maySatisfy o && o.kind == .wellLoad && o.space == .mem) = true) ∧
    (let s := oneOp .load 0x40000100 fun o => { o with order := .seqCst }
     opIs s 60 (fun o => s.maySatisfy o && o.effOrder == .seqCst && o.effScope == .device) = true) ∧
    opIs stored (stored.fresh - 1) (fun o => stored.mayMove o && o.kind == .store && o.place == .queue) = true ∧
    opIs (placed stored .cluster) (stored.fresh - 1) (fun o => (placed stored .cluster).mayHome o && o.kind == .store && o.space == .mem && o.intact) = true ∧
    stored.mem.wf = true ∧ (∀ d : Fin 5, (stored.views[d]).wf = true) ∧
    opIs scratchStored (scratchStored.fresh - 1) (fun o => scratchStored.mayHome o && o.kind == .store && o.space == .scratch 1 && o.intact &&
      match o.agent with | .engine _ _ _ _ => false | _ => true) = true ∧
    (∀ a ∈ [Aop.load, .store, .swap, .cas, .add, .min, .max, .minu, .maxu, .and, .or, .xor, .fadd, .binc],
      opIs (atomic a) ((atomic a).fresh - 1) (fun o => (atomic a).mayHome o && o.space == .mem && o.size == 4 && o.intact &&
        match o.kind with | .rmw r => r.aop == a | _ => false) = true) ∧ (atomic .add).mem.wf = true := by
  decide +kernel

/-- A store homed, for another die to apply; a late result. -/
def homed : State := after (exec (.writeHome (stored.fresh - 1)) (placed stored .cluster)) stored
def late : State := let i : Instr := .iadd (la 112 8 10 0 .i32); did i (laneAt i)
/-- A load of the group that has its bytes, for a destination, spoiled on its way or not. -/
def brought (dest : Dest) (flips : List Nat) : State :=
  oneOp .load 0x40000100 fun o => { o with dest := dest, result := some [1, 2, 3, 4], flips := flips, suspect := some (.well 3) }
/-- The sixteen rows of an `ldt`, all but the last or all there. -/
def rowsOf (n : Nat) : State :=
  { cold base with ops := (List.range 16).map fun r => { blankOp (.group 1 0 0) 1 .load .mem (0x40000100 + 8 * r) 8 with
      id := 60 + r, uid := 2, dest := .block 60 0 r 0xFFFFFFFF 5 2, result := if r < n then some (List.replicate 8 7) else none } }

theorem witness_RecordsAndCompletions :
    there (homed.nextRecord 0 (homeOf 0x40000100)) (fun _ => homeOf 0x40000100 != 0 && homeOf 0x40000100 < 5) = true ∧ (homed.op? (stored.fresh - 1)).isSome = true ∧
    late.late.length = 1 ∧ late.late.all (fun l => (late.late.find? (fun x => x.id == l.id)).isSome && (late.group? l.team l.group).isSome) = true ∧
    (∀ d ∈ [Dest.none, .sregs 5 1 2, .vregs 5 1 3, .entry 0 0 4],
      opIs (brought d []) 60 (fun o => o.agent == .group 1 0 0 && o.kind == .load && !o.done && o.result.isSome && o.intact) = true) ∧
    (let s := brought (.sregs 5 1 2) [9]
     s.late = [] ∧ (s.group? 1 0).isSome = true ∧ opIs s 60 (fun o => !o.intact && o.space == .mem && !o.again && o.suspect == some (.well 3)) = true ∧
     unitExists (.well 3) = true) ∧
    (∀ n ∈ [15, 16], ((rowsOf n).blockRowsOf 60).isSome = (n == 16) ∧
      opIs (rowsOf n) 60 (fun o => o.kind == .load && !o.done && o.result.isSome && o.intact) = true) := by decide +kernel

/-- A clause of one instruction whose header ends a page: not fetched, fetched, and waiting for a busy flag. -/
def queued (hdr : Word) : State :=
  let i : Instr := .iadd (la 5 8 10 0 .i32)
  let s := withGroup (laneAt i) fun g => { g with clauses := vmod g.clauses 0 fun l => l.map fun q =>
    { q with addr := 0x3FFFFFF4, fetched := none, issuing := false } }
  ((s.place 0x14010 (natLe 16 0x80002087)).place 0x7FFFFFF4 (natLe 8 0 ++ natLe 4 hdr.toNat)).place 0x80000000 (natLe 12 (((encodeLane i).getD 0).toNat))

/-- The clause of a state, when it is ready to be fetched. -/
def fetches (s : State) (p : Team → Group → Launch → Clause → Bool) : Bool :=
  there (s.headClause ref) fun (t, g, l, q) => !s.clauseHeld ref q.cid && !g.spent && q.fetched.isNone &&
    s.reachable (some t.core) l.asid q.addr (s.clauseSize t l q) && !s.teamStopped t l.asid (.event (.clauseFetch ref)) && p t g l q

theorem witness_ClauseFetchAndIssue :
    fetches (queued 0xFF100000) (fun t g l q => good ((queued 0xFF100000).readClause t g l q) fun x => q.next < x.1.n.toNat) = true ∧
    fetches (queued 0) (fun t g l q => bad ((queued 0).readClause t g l q) fun e => e.1.1 == .illegalClause && !e.1.1.isHeld) = true ∧
    (let s := ((queued 0xFF100000).place 0x14000 (natLe 16 0)).setAsid { ringed.asid 1 with ident := (base.asid 1).ident }
     fetches s (fun t g l q => bad (s.readClause t g l q) fun e => e.1.1 == .translation) = true ∧ (s.asid 1).frsize ≠ 0) ∧
    (∀ leaf ∈ [0, 0x4003, 0x4000208F], bad ((cold (base.place 0x14000 (natLe 16 leaf))).fetchBytes 0 1 1 0x3000 12) (fun e =>
      e.1 == (if leaf == 0 then .notPresent else if leaf == 0x4003 then .malformed else .xn)) = true) ∧
    good ((cold base).fetchBytes 0 1 1 0x3000 12) (fun x => x.1.length == 12) = true ∧
    (let s (k : Nat) : State := withGroup (laneAt .exit) fun g => { g with
        k := vset g.k 11 k, clauses := vmod g.clauses 0 fun l => l.map fun q => { q with issuing := false, fetched := some ({ n := 1, wait := 0x800, aen := false, fla := 0, ben := false, flb := 0 }, [.exit]) } }
     (∀ k ∈ [0, 1], there ((s k).headClause ref) (fun (t, g, l, q) => !(s k).clauseHeld ref q.cid && !g.spent && !q.issuing && q.after.isEmpty &&
       !(s k).teamStopped t l.asid (.event (.clauseIssue ref)) && g.idle 0x800 == (k == 0)) = true)) := by decide +kernel

/-- The placed team queued to its core, with a context pool. -/
def queuedTeam1 : State :=
  (base.modTeam 1 fun t => { t with state := .queued, groups := [], area := none }).setAsid { base.asid 1 with cpsize := 2 }

theorem witness_TeamsDispatched :
    there (queuedTeam1.team? 1) (fun t => there (queuedTeam1.launchOf t) fun l => !queuedTeam1.halted.contains l.asid && t.state == .queued &&
      queuedTeam1.coreOpen 0 l.asid && queuedTeam1.roomOn 0 l.record && queuedTeam1.orderFree l t && !queuedTeam1.savedFirst l 0 && !queuedTeam1.goesFirst l t &&
      good (queuedTeam1.stageOpen l 0 0) id && (queuedTeam1.freeSlot 1 l.record.areaSize).isSome && !l.record.bpass && l.record.heldLanes != 0) = true ∧
    (let s := passing.modTeam 1 fun t => { t with pass := t.pass.map fun p => { p with mapDone := true } }
     there (s.team? 1) (fun t => t.state == .resident && !t.saving && there t.pass fun p => !p.released && p.mapDone && p.mapOps.isEmpty) = true ∧
     s.halted = []) := by decide +kernel

/-- Core 5 asks core 0, whose queue holds the team; a thief whose die differs asks only after eight failures; one that itself has work does not. -/
theorem witness_TeamsStolen :
    let s : State := queuedTeam1.setCore { queuedTeam1.core 0 with queue := [1] }
    let far : State := s.setCore { s.core 200 with fails := 8 }
    let asked (n : Nat) : State := s.setCore { s.core n with asked := some 0 }
    s.idles 5 = true ∧ (s.core 5).asked = none ∧ s.inService (.core 0) = true ∧ dieOf 0 = dieOf 5 ∧ s.idles 0 = false ∧ far.idles 200 = true ∧
    there ((List.range 384).find? fun v => dieOf v == (dieOf 200 + 1) % 4) (fun v => v != 200 && far.inService (.core v)) = true ∧
    ((asked 5).core 5).asked = some 0 ∧ ((asked 5).core 0).queue = [1] ∧ there ((asked 5).team? 1) (fun t => (asked 5).mayGive t 5) = true ∧
    (let full : State := (asked 5).setAsid { (asked 5).asid 1 with holds := [{ id := 9, mask := 1, left := 5 }] }
     (full.core 5).asked = some 0 ∧ there (full.team? 1) (fun t => !full.mayGive t 5) = true) ∧
    (let eight : State := (asked 5).setCore { (asked 5).core 5 with queue := List.replicate 8 77 }
     (eight.core 5).asked = some 0 ∧ 8 ≤ (eight.core 5).queue.length) := by decide +kernel

/-- A queued team whose core is held, and one beside a team of the same core with a higher priority that is ready. -/
theorem witness_TeamsDispatched_waits :
    (let s : State := queuedTeam1.setAsid { queuedTeam1.asid 1 with holds := [{ id := 9, mask := 1, left := 5 }] }
     there (s.team? 1) (fun t => there (s.launchOf t) fun l => t.state == .queued && !s.halted.contains l.asid && !s.coreOpen t.core l.asid) = true) ∧
    (let second : Team := { (queuedTeam1.team? 1).getD idleTeam with id := 9, launch := 2 }
     let s : State := { queuedTeam1 with
       teams := queuedTeam1.teams ++ [second]
       launches := queuedTeam1.launches ++ [{ placedLaunch 2 with record := { placedRecord with prio := 3 } }] }
     there (s.team? 1) (fun t => there (s.launchOf t) fun l => t.state == .queued && s.teams.any fun x => there (s.launchOf x) fun k =>
       x.id != t.id && x.core == t.core && l.record.prioOf t.stage < k.record.prioOf x.stage && s.readyHere k x) = true) := by decide +kernel

/-- A team at a pass with forty sub-tiles to judge. -/
def passTeam : State :=
  passing.modTeam 1 fun t => { t with
    groups := t.groups.map fun g => { g with ended := true }
    pass := t.pass.map fun p => { p with todo := (List.range 40).map fun k => { group := 0, sub := k, x := (k, k), y := (0, 0), z := (0, 3) } } }

/-- The launch with two stages: the first with a counter, the second with a queue. -/
def staged (stage : Nat) : State :=
  let s := base.modLaunch 1 fun l => { l with
    record := { l.record with stages := [{ entry := 0, cntr := 0x7000, qaddr := 0, thresh := 5, teams := 3, prio := 0, qlog := 0 },
      { entry := 0, cntr := 0, qaddr := 0x8000, thresh := 0, teams := 3, prio := 0, qlog := 4 }] }
    stages := [{ eligible := stage == 1, next := 0, requeued := [], ended := 0, durations := [], after := [] },
      { eligible := true, next := 1, requeued := [], ended := 0, durations := [], after := [] }] }
  s.modTeam 1 fun t => { t with stage := stage }

theorem witness_PassesStagesAndWaits :
    there (passTeam.team? 1) (fun t => there (passTeam.launchOf t) fun l => there t.pass fun p => !p.todo.isEmpty && t.state == .resident &&
      !passTeam.teamStopped t l.asid (.event (.passGroupStart 1)) && t.groups.all fun g => g.ended) = true ∧
    (let s := passing.modTeam 1 fun t => { t with pass := t.pass.map fun p => { p with todo := [{ group := 0, sub := 1, x := (0, 3), y := (0, 0), z := (0, 0) }] } }
     there (s.team? 1) (fun t => there (s.launchOf t) fun l => t.state == .resident && (there t.pass fun p => !p.todo.isEmpty) &&
       l.record.share < ((t.groups.filter fun g => !g.ended).length + 1) * (2 * l.record.vregs + l.record.qbud) * 128 && t.groups.any fun g => !g.ended) = true) ∧
    there (passing.team? 1) (fun t => t.pass.isSome && there (t.group? 0) fun g => g.pass.isSome) = true ∧
    (∀ n ∈ [65535, 65536], let s := withGroup passing fun g => { g with pass := g.pass.map fun p => { p with issued := n } }
      there (s.group? 1 0) (fun g => !g.ended && there g.pass fun p => p.issued == n) = true) ∧
    (∀ n ∈ [4, 5], let s := withBytes (staged 0) 0x7000 [BitVec.ofNat 8 n]
      there (s.launch? 1) (fun l => there l.stages[0]? (fun x => !x.eligible) && there l.record.stages[0]? (fun st => st.cntr != 0) && l.final.isNone && l.cancel.isNone &&
        !s.stageHeld 1 0 && (match s.walk none 1 0x7000 with | .leaf _ => true | _ => false) &&
        good (s.deviceRead none 1 0x7000 4 Leaf.plainFmt) fun bs => leNat bs == n) = true) := by decide +kernel

/-- A `stepq` of a team whose queue is empty and open, one of a team without a queue. -/
theorem witness_PassesStagesAndWaits_stages :
    (let s := did (.stepq 9 5 false) (withRegs (staged 1) [(5, 0)])
     there (s.team? 1) (fun t => there (s.launchOf t) fun l => t.state == .resident && !t.saving && there l.record.stages[t.stage]? (fun st => st.qaddr != 0) &&
       s.teamBlocked t && s.stageWaits l t.stage) = true) ∧
    (let s := did (.stepq 9 5 false) (withRegs (staged 0) [(5, 0)])
     s.cmds.length = 1 ∧ s.cmds.all (fun c => (s.late.find? (fun x => x.id == c.id)).isNone && (s.op? c.id).isNone && !s.cmdHeld c.id && c.ending.isNone &&
       there (s.owned? c.id) fun a => (a.launch.queueOf a.team false).isNone && !s.halted.contains a.launch.asid) = true) := by decide +kernel

/-- A split that waits in a `bar` whose generation is still the same, and one whose generation was left. -/
theorem witness_PassesStagesAndWaits_bar :
    ∀ g ∈ [3, 4], let s := withSplit (base.modTeam 1 fun t => { t with barGen := 4 }) fun p =>
        { p with status := .barWait { obj := none, gen := BitVec.ofNat 4 g, join := true, sd := 9 } }
      there (s.issuerOf ref) (fun c => !s.halted.contains c.asid && c.group.whole && match c.split.status with | .barWait w => w.gen == BitVec.ofNat 4 g | _ => false) =
        true := by decide +kernel

/-- A jump of a pass group back and forth, with no record of the target, with one taken three times, and with one taken four times whose lane 3 of
pair 4 and whose p2 hold something else. -/
theorem witness_PassesStagesAndWaits_widening :
    let s (count : Nat) : State := withSplit passing fun p => p.modSet fun e => { e with widen :=
      [{ target := 0x800, count := count, stamp := 1, regs := List.replicate 96 (Lanes.gen fun l => if l = 3 then 1 else 0), preds := List.replicate 8 0xFFFFFFFF }] }
    (∀ x ∈ [passing, s 3, s 4], there (x.issuerOf ref) (fun c => c.inPass && c.pc == 0x1000 && c.exec.has 3 && c.group.v.length == 192 &&
      (there c.group.pass fun p => p.tags.length == 96) && LMap.injective (c.group.vreg 8).map && LMap.injective (c.group.vreg 9).map) = true) ∧
    there ((s 4).issuerOf ref) (fun c => there (c.split.set.widen.find? (·.target == 0x800)) fun w => w.count == 4 &&
      (c.group.vreg 8).read 3 != (((w.regs[8]?).getD (Lanes.all 0))[(3 : Fin 32)]) && (c.group.vreg 8).read 4 == (((w.regs[8]?).getD (Lanes.all 0))[(4 : Fin 32)]) &&
      (vget c.group.p 4 0).has 3 != Mask.has ((w.preds[4]?).getD 0) 3) = true := by decide +kernel

/-- An outcome at each end of the map of two levels. -/
theorem witness_PassesStagesAndWaits_map :
    let p : PassState := { level := 1, todo := [], judged := [(0, { group := 31, sub := 0, x := (0, 0), y := (0, 0), z := (0, 0) }, 3), (1, { group := 0, sub := 0, x := (0, 0), y := (0, 0), z := (0, 0) }, 1)]
                           proofs := [], mapDone := false, mapOps := [], released := false }
    (∀ j ∈ p.judged, j.2.2 < 4) ∧ 31 < 32 * 4 ^ 0 ∧ 127 < 32 * 4 ^ 1 := by decide +kernel

/-- The placed state with its boot finished and the ASID's registers changed. -/
def booted (f : Asid → Asid) : State := ({ base with boot := 6 } : State).setAsid (f { base.asid 1 with cpsize := 2 })
/-- A kick of slot 0 of an ASID whose slots lie at 0x6000, with what has been read of it. -/
def kicked (slot : Nat) (seq : Word) (found : Option (List Byte)) (got : List Byte) : State :=
  { booted (fun a => { a with subbase := 0x6000, subn := 4 }) with
    kicks := [{ asid := 1, seq := seq, slot := slot, bad := false, reads := 0, found := found, got := got }] }

/-- Registers, with a live launch and without; kicks that are refused, wait behind another or find the device closed. -/
theorem witness_HostAccesses :
    (booted id).barOpen = true ∧ (booted id).liveLaunch 1 = true ∧ (booted id).liveLaunch 511 = false ∧ bits (booted id).boot.toNat 7 0 ≥ 2 ∧
    ((1#32) = 0 ∨ ∃ k : Nat, k ≤ 20 ∧ (1#32).toNat = 2 ^ k) ∧ ((0x100000#32) = 0 ∨ ∃ k : Nat, k ≤ 20 ∧ (0x100000#32).toNat = 2 ^ k) ∧
    (∀ k : Nat, k ≤ 20 → (0x100001#32).toNat ≠ 2 ^ k) ∧
    (booted id).kicks = [] ∧ (booted id).accepting = true ∧ ({ booted id with accepting := false } : State).accepting = false ∧
    (0x0000100000000000#64).extractLsb' 44 20 ≠ 0 ∧ ((booted id).asid 1).subn.toNat ≤ ((0#64).extractLsb' 32 12).toNat ∧
    (kicked 3 0 none []).kicks.length = 1 ∧
    ((booted fun a => { a with fabwIn := [5, 6] }).asid 1).fabwIn = [5, 6] := by
  refine ⟨by decide +kernel, by decide +kernel, by decide +kernel, by decide +kernel, Or.inr ⟨0, by decide, by decide⟩, Or.inr ⟨20, by decide, by decide⟩,
    by decide +kernel, ?_⟩
  decide +kernel

/-- The last sector of a slot read with its SEQ and with another, or unreadable; then one of the others, readable and not. -/
theorem witness_HostAccesses_kicks :
    let at_ (slot n : Nat) : DWord := 0x6000 + BitVec.ofNat 64 (512 * slot + 32 * n)
    let zeros : List Byte := List.replicate 32 0
    let away (s : State) : State := s.setAsid { s.asid 1 with subbase := 0x40000000 }
    (∀ x ∈ [kicked 3 0 none [], kicked 3 1 none [], kicked 3 0 (some zeros) (List.replicate (32 * 14) 0)],
      3 < (x.asid 1).subn.toNat ∧ x.accepting = true ∧ x.kicks.all (fun k => !k.bad && k.slot == 3 && k.asid == 1) = true) ∧
    (kicked 3 0 none []).reachable none 1 (at_ 3 15) 32 = true ∧
    good ((kicked 3 0 none []).deviceRead none 1 (at_ 3 15) 32 Leaf.plainFmt) (fun x => bits (leNat x) 239 208 == 0) = true ∧
    bad ((away (kicked 3 0 none [])).deviceRead none 1 (0x40000000 + 512 * 3 + 480) 32 Leaf.plainFmt) (fun _ => true) = true ∧
    (∀ n ∈ [0, 13, 14], (kicked 3 0 (some zeros) (List.replicate (32 * n) 0)).reachable none 1 (at_ 3 n) 32 = true ∧
      good ((kicked 3 0 (some zeros) (List.replicate (32 * n) 0)).deviceRead none 1 (at_ 3 n) 32 Leaf.plainFmt) (fun x => x.length == 32) = true ∧
      (List.replicate (32 * n) (0 : Byte)).length = 32 * n) ∧
    (let s := away (kicked 3 0 (some zeros) [])
     s.reachable none 1 (0x40000000 + 512 * 3) 32 = true ∧ bad (s.deviceRead none 1 (0x40000000 + 512 * 3) 32 Leaf.plainFmt) (fun _ => true) = true) := by
  decide +kernel

/-- A record that is accepted, one whose CHECK does not match, and one without a context pool for it. -/
theorem witness_HostAccesses_records :
    (kicked 0 0 none []).rejection 1 (launchBytes 0x8D8B) = none ∧ (kicked 0 0 none []).rejection 1 (launchBytes 0x8D8A) = some 2 ∧
    ((kicked 0 0 none []).setAsid (emptyAsid 1)).rejection 1 (launchBytes 0x8D8B) = some 3 := by
  have f : ((launchRecOf (launchBytes 0x8D8B)).fieldsOk (leNat (launchBytes 0x8D8B)) && (launchRecOf (launchBytes 0x8D8B)).fits 2) = true := by
    decide +kernel
  simp only [Bool.and_eq_true] at f
  have g : ((kicked 0 0 none []).asid 1).cpsize.toNat = 2 ∧ (kicked 0 0 none []).launches.length = 1 := by decide +kernel
  have n : (launchRecOf (launchBytes 0x8D8B)).fits (((kicked 0 0 none []).setAsid (emptyAsid 1)).asid 1).cpsize.toNat = false := by decide +kernel
  refine ⟨?_, ?_, ?_⟩
  · simp only [State.rejection, checkMatches_launch, f.1, f.2, g.1, g.2]; rfl
  · simp only [State.rejection, checkMatches_launch_not]; rfl
  · simp only [State.rejection, checkMatches_launch, f.1, n]; rfl

/-- Host accesses through the window, to its end and past it, and to the host's own memory. -/
theorem witness_HostAccesses_memory :
    (booted id).arrived .host = true ∧ regionOf ((booted id).winbase.toNat + 0x40000000) 64 = some 0 ∧ 0x40000000 + 64 ≤ 2 ^ 36 ∧ 2 ^ 36 < 2 ^ 36 - 8 + 16 ∧
    (let s : State := { booted id with winbase := 2 ^ 47 }
     regionOf (s.winbase.toNat + 0) 32 ≠ some 0) ∧
    regionOf 0x40000000 32 ≠ some 3 ∧ regionOf (3 * 2 ^ 46) 32 = some 3 := by decide +kernel

/-- A trap record for a ring with room, for a full one, for none, and for a ring in no page. -/
theorem witness_HostAccesses_traps :
    let s (base : DWord) (size head : Word) : State := (did (.trap 7) ringed).setAsid { (did (.trap 7) ringed).asid 1 with frbase := base, frsize := size, frhead := head }
    (∀ x ∈ [s 0x8000 2 0, s 0x8000 0 0, s 0x8000 2 0xFFFFFFFE, s 0x80000000 2 0], ((x.asid 1).traps.length == 1) = true) ∧
    ((s 0x8000 2 0).asid 1).ringFull = false ∧ ((s 0x8000 2 0xFFFFFFFE).asid 1).ringFull = true ∧
    ((s 0x8000 2 0).asid 1).traps.all (fun x => (s 0x8000 2 0).delivered x.2.behind &&
      ((s 0x8000 2 0).deviceSend 1 0x8000 (x.2.bytes x.1) .relaxed []).isSome && ((s 0x80000000 2 0).deviceSend 1 0x80000000 (x.2.bytes x.1) .relaxed []).isNone) = true ∧
    (∀ h ∈ ({ s 0x80000000 2 0 with held := [] } : State).held, h.asid = 1 → h.seq ≠ 1) := by decide +kernel

/-- The ASID's queue with one command whose sector was read. -/
def ordered (s : State) (kind arg1 arg2 : Nat) (begun : Option (List Nat)) : State :=
  s.setAsid { s.asid 1 with cmds := [{ addr := 0x9000, count := 1, sector := some (natLe 32 (kind + arg1 * 2 ^ 64 + arg2 * 2 ^ 128 + 0x9100 * 2 ^ 192)), begun := begun, missed := false }] }

theorem witness_HostCommands :
    (∀ k ∈ [1, 2, 3, 4, 5], ((ordered (booted id) k 1 0 none).headCommand 1 k).isSome = true) ∧
    ((ordered (booted id) 1 0 4096 (some [])).headCommand 1 1).isSome = true ∧
    (ordered (booted id) 1 0 4096 none).ops = [] ∧
    (let s := ordered { stored with boot := 6 } 1 0 4096 (some [])
     (s.headCommand 1 1).isSome = true ∧ (s.ops.any fun o => o.asid == 1 && !o.isFence && !o.opPerformed .system) = true) ∧
    there ((ordered (booted id) 2 1 (100 + 2 ^ 32) (some [1])).headCommand 1 2) (fun x => x.1.begun == some [1]) = true ∧
    ((ordered (booted id) 2 1 100 (some [1])).teams.any fun t => t.id == 1 && t.state == .resident) = true ∧
    ((ordered (booted id) 2 1 100 (some [7])).teams.all fun t => t.id != 7) = true ∧
    ((booted id).asid 1).cmds = [] ∧ (booted id).halted = [] ∧
    there ((ordered (booted id) 5 9 0 none).headCommand 1 5) (fun x => x.2.arg1 / 2 ^ 32 == 0) = true ∧
    there ((ordered (booted id) 5 (9 + 2 ^ 32) 0 none).headCommand 1 5) (fun x => x.2.arg1 / 2 ^ 32 == 1) = true ∧ (booted id).held = [] ∧
    there (((ordered (booted id) 3 1 0 none).setAsid { (ordered (booted id) 3 1 0 none).asid 1 with cmds := [] }).deviceSend 1 0x9100 (natLe 8 0) .release []) (fun _ => true) = true ∧
    (let h : State := ordered { booted id with halted := [1] } 4 0 0 none
     (h.headCommand 1 4).isSome = true ∧ h.halted.contains 1 = true) ∧
    (((booted id).launches.map (·.id)).foldl (fun s id => s.cancelLaunch id none) (ordered (booted id) 3 1 0 none)).halted.contains 1 = false := by
  decide +kernel

/-- Held faults that an answer names: a split's TRANSLATION, to be resumed or abandoned. -/
theorem witness_HostCommands_held :
    let s := ordered { did (.sld 8 2 0) (withRegs ringed [(2, 0x40000000)]) with boot := 6 } 5 1 0 none
    s.held.length = 1 ∧ there (s.held.find? fun h => h.asid == 1 && h.seq % 2 ^ 32 == 1) (fun h => !s.savedWork h && h.trap.cause == .translation &&
      match h.work with | .split _ _ => true | _ => false) = true ∧
    there (s.headCommand 1 5) (fun x => x.2.arg1 == 1) = true := by decide +kernel

/-- The means of taking a team off: each within the bound, none within it with each of them the least. -/
theorem witness_HostCommands_means :
    let x (d : Option Nat) (v : Nat) (f : Option Nat) : Costs := { drain := d, save := v, flush := f }
    (x (some 5) 9 (some 64)).choose 5 = (.drain, false) ∧ (x none 5 none).choose 5 = (.save, false) ∧ (x (some 70) 90 (some 64)).choose 64 = (.flush, false) ∧
    (x (some 70) 70 none).choose 5 = (.drain, true) ∧ (x none 70 none).choose 5 = (.save, true) ∧ (x (some 90) 80 (some 64)).choose 5 = (.flush, true) := by decide +kernel

/-- A team to be saved, quiet and not; a drain within its time and beyond it; a saved team with a core that has room, and with none; a watchdog at its limit. -/
theorem witness_ContextSwitches :
    let saving (s : State) : State := s.modTeam 1 fun t => { t with saving := true }
    (∀ s ∈ [saving (booted id), saving stored], there (s.team? 1) (fun t => t.red.isNone && (s.launchOf t).isSome && t.state == .resident && t.saving && t.pass.isNone) = true ∧
      s.loops = []) ∧
    there ((saving (booted id)).team? 1) (saving (booted id)).quiet = true ∧ there ((saving stored).team? 1) (saving stored).quiet = false ∧
    (∀ n ∈ [0, 1], there (((booted id).modTeam 1 fun t => { t with drain := some n }).team? 1) (fun t => t.drain == some n && t.state == .resident) = true) ∧
    (booted id).cycleOf 0 = 0 ∧
    (let s := (booted id).modTeam 1 fun t => { t with state := .saved }
     there (s.team? 1) (fun t => there (s.launchOf t) fun l => t.state == .saved && s.mayRestore t 3 && !s.mayRestore t 384 && s.stageReady t l && !l.record.ordered) =
       true ∧ s.held = []) ∧
    (∀ n ∈ [1024 * 1024 - 1, 1024 * 1024], let s := withGroup base fun g => { g with watch := n }
      there (s.team? 1) (fun t => there (t.group? 0) fun g => g.watch == n && !g.live.isEmpty && !s.watchPaused t g && there (s.launchOf t) fun l => l.record.wdlim == 1024) = true) := by
  decide +kernel

/-- Views that agree and views that do not; a pre-emption that has not begun; a cancel of a halted context, of all of its launches and of one that is not live. -/
theorem witness_HostCommands_more :
    (ordered (booted id) 1 0 4096 (some [])).level = true ∧
    ({ booted id with vectors := vmod (booted id).vectors 0 fun v => vset v 0 1 } : State).level = false ∧
    there ((ordered (booted id) 2 1 100 none).headCommand 1 2) (fun x => x.1.begun.isNone) = true ∧
    (∀ a ∈ [0xFFFFFFFF, 77], let s : State := ordered { booted id with halted := [1] } 3 a 0 none
      (s.headCommand 1 3).isSome = true ∧ s.halted.contains 1 = true) := by
  decide +kernel

/-- Where no unit is drained every address may be read. -/
theorem reachable_of_no_units (s : State) (h : s.units = []) (core : Option Nat) (asid : Nat) (ptr : DWord) (n : Nat) :
    s.reachable core asid ptr n = true := by
  simp only [State.reachable, List.all_eq_true]
  intro p _
  split
  · simp only [State.wellsOpen, State.wellOpen, h, List.all_nil, List.all_eq_true]
    intro i _
    split <;> rfl
  · rfl

/-- Homes that are free for a save; a saved team whose area may be read. -/
theorem witness_ContextSwitches_area :
    let s : State := (booted id).modTeam 1 fun t => { t with state := .saved }
    s.homesFree 4096 = true ∧ there (s.team? 1) (fun t => there (s.launchOf t) fun l => s.mayRestore t 3 && s.stageReady t l && !l.record.ordered) = true ∧
    s.held = [] ∧ (∀ asid ptr n, s.reachable none asid ptr n = true) := by
  refine ⟨by decide +kernel, by decide +kernel, by decide +kernel, fun asid ptr n => ?_⟩
  exact reachable_of_no_units _ (by decide +kernel) _ _ _ _

/-! Hypotheses that can be met: peers, commands as they go on, collectives, errors, management. -/

/-- A copy whose source is in the memory of node 5. -/
def farShape : Shape := shapeOf (natLe 64 (0x3000 + 0x80 * 2 ^ 64 + 3 * 2 ^ 132 + 2 ^ 136 + 5 * 2 ^ 160))
/-- Node 5 a peer in some state, by links 0 and 3. -/
def withPeer (s : State) (p : PeerState) : State := { s with peers := [{ node := 5, links := [0, 3], state := p }] }
/-- A copy with its record's first sector, its record, and the sectors that it still has to write. -/
def copying (record : DWord) (half : Option (List Byte)) (shape : Option Shape) (todo : List Nat) : State :=
  commanded base (.copy { record := record, bar := none, half := half, shape := shape, todo := todo, asked := none })

/-- Links that a peer has; a remote copy to a node in each state; requests that are served, wait, and fault in each way. -/
theorem witness_FabricEvents :
    (withPeer base .up).peers.find? (fun p => p.node == 5) = some { node := 5, links := [0, 3], state := .up } ∧ base.collectives = [] ∧
    (∀ p ∈ [PeerState.up, .recovering, .lost],
      let s := withPeer (copying 0 none (some farShape) [4]) p
      there (s.team? 1) (fun t => t.state == .resident) = true ∧ s.peer? 5 = some p ∧ (s.remoteCopies 1 0 5).length = 1 ∧
      there ((s.endCmd 50 16).team? 1) (fun t => there (t.group? 0) fun g => !g.ended) = true) ∧
    base.arrived (.fabric 5) = true ∧ (oneOp .store 0x40000100 fun o => { o with agent := .fabric 5 }).arrived (.fabric 5) = false ∧
    base.reachable none 1 0x5000 32 = true ∧
    good (base.checkAccess none 1 0x5000 32 .load fun l => pageAgrees 0x20 true false l.fmt || pageAgrees 0x20 true true l.fmt) (fun l => !l.cmp && !fmtScaled l.fmt) = true ∧
    good (base.checkAccess none 1 0x5000 32 .store fun l => pageAgrees 0x20 false false l.fmt) (fun l => !l.cmp && l.pa 0x5000 % 32 == 0) = true ∧
    (let fault (s : State) (k : Access) (asid : Nat) (va : DWord) (p : AccessFault → Bool) : Bool :=
       bad (s.checkAccess none asid va 32 k fun l => match k with
         | .load => pageAgrees 0x20 true false l.fmt || pageAgrees 0x20 true true l.fmt
         | _ => pageAgrees 0x20 false false l.fmt) p
     let writeOnly := base.place 0x14000 (natLe 16 0x40002007)
     let readOnly := base.place 0x14000 (natLe 16 0x40002083)
     fault base .load 1 0x40000000 (fun f => f.1.isHeld) = true ∧ base.reachable none 1 0x40000000 32 = true ∧ fault base .store 1 0x40000000 (fun f => f.1.isHeld) = true ∧
     fault base .load 2 0x5000 (fun _ => true) = true ∧ fault writeOnly .load 1 0x5000 (fun f => !f.1.isHeld) = true ∧ fault readOnly .store 1 0x5000 (fun f => !f.1.isHeld) = true) ∧
    identValid (base.asid 2).ident = false ∧ identValid (base.asid 1).ident = true ∧ (base.asid 1).frsize = 0 ∧ (ringed.asid 1).frsize ≠ 0 ∧
    (let s (applied : List Nat) : State := oneOp .store 0x40000100 fun o =>
       { o with agent := .fabric 5, dest := .ack 5, scope := .system, place := .homed, applied := applied }
     ∀ applied ∈ [[], [0, 1, 2, 3, 4]], (s applied).late = [] ∧ opIs (s applied) 60 (fun o => o.agent == .fabric 5 && o.kind == .store && o.dest == .ack 5 &&
       !o.done && o.result.isNone && o.opPerformed o.effScope == (applied != [])) = true) := by decide +kernel

/-- A read that is not there and may issue, may not, or cannot be; one that waits, one that has come, and one that is spoiled for the first and the
second time. -/
theorem witness_CopiesAndLoopsStep_reads :
    let s := copying 0x3000 none none []
    let agent := (acting s).agent
    let spoiled (again : Bool) : State := { s with ops := [{ readOp agent 2 0x3000 (some (List.replicate 32 0)) with check := [0], flips := [3], again := again }] }
    agent = .engine 1 0 0 50 ∧ s.reading agent 2 0x3000 = none ∧ s.canIssue [s.cmdOp (acting s) .load .mem 0x40003000 32 false] = true ∧
    (let o := s.cmdOp (acting s) .load .mem 0x40003000 32 false
     ({ s with ops := [{ o with id := 80, kind := .load, order := .acquire }] } : State).canIssue [{ o with past := [80] }] = false) ∧
    (∀ got ∈ [none, some (List.replicate 32 0)], there ((cmdReads s [(0x3000, got)]).reading agent 2 0x3000) (fun x => x.intact && x.result == got) = true) ∧
    (∀ again ∈ [false, true], there ((spoiled again).reading agent 2 0x3000) (fun x => !x.intact && x.result.isSome && x.again == again) = true) := by
  decide +kernel

/-- Bytes that a fetch gives. -/
def gives (x : Except Halt (List Byte)) (bs : List Byte) : Bool := good x fun y => y == bs

/-- A copy's first sector not read, unreadable, there; its second with a record that is refused, of an extent of 0, and with sectors to write. -/
theorem witness_CopiesAndLoopsStep_start :
    let first (record : DWord) (l : List (Nat × Option (List Byte))) : State := cmdReads (copying record none none []) l
    let fetch (s : State) (p : DWord) : Except Halt (List Byte) := s.cmdFetch (acting s) p 32 Leaf.plainFmt
    let second (low high : Nat) : State := cmdReads (copying 0x3000 (some (natLe 32 low)) none []) [(0x3020, some (natLe 32 high))]
    let shape (low high : Nat) : Shape := shapeOf (natLe 32 low ++ natLe 32 high)
    let tiles (s : State) : Nat := (acting s).launch.record.tiles
    (first 0x3000 []).active? 50 = some (acting (first 0x3000 [])) ∧ (second 0 0).active? 50 = some (acting (second 0 0)) ∧
    bad (fetch (first 0x3000 []) 0x3000) (fun h => match h with | .issued _ => true | _ => false) = true ∧
    bad (fetch (first 0x3000 [(0x3000, none)]) 0x3000) (fun h => match h with | .wait => true | _ => false) = true ∧
    bad (fetch (first 0x40000000 []) 0x40000000) (fun h => match h with | .fault _ _ => true | _ => false) = true ∧
    gives (fetch (first 0x3000 [(0x3000, some (natLe 32 7))]) 0x3000) (natLe 32 7) = true ∧
    bad (fetch (copying 0x3000 (some (natLe 32 0)) none []) 0x3020) (fun _ => true) = true ∧
    (∀ high ∈ [8 + 2 ^ 32 + 2 ^ 64, 0], gives (fetch (second (2 ^ 136) high) 0x3020) (natLe 32 high) = true) ∧
    (let p := shape (2 ^ 136) (8 + 2 ^ 32 + 2 ^ 64)
     p.valid false (tiles (second 0 0)) = true ∧ p.empty = false ∧ p.sectors ≠ []) ∧
    (let p := shape (2 ^ 136) 0
     p.valid false (tiles (second 0 0)) = true ∧ p.empty = true) ∧
    (shape (3 * 2 ^ 128 + 2 ^ 136) 0).valid false (tiles (second 0 0)) = false := by decide +kernel

/-- A sector of the constant 7 as raw bytes at the end of the scratchpad. -/
def fillShape : Shape := shapeOf (natLe 64 (0x3FE0 * 2 ^ 64 + 4 * 2 ^ 132 + 2 ^ 136 + 2 * 2 ^ 140 + 7 * 2 ^ 192 + 16 * 2 ^ 256 + 2 ^ 288 + 2 ^ 320))
/-- A copy about to write its sectors. -/
def pumping (p : Shape) (todo : List Nat) : State := copying 0x3000 none (some p) todo
/-- What its pump does. -/
def pumped (s : State) (p : Shape) (r : RemoteInput) : Except Halt State :=
  match (acting s).cmd.kind with
  | .copy k => s.pump (acting s) k p r
  | _ => .error .wait

/-- The reasons for which a pump waits; a sector that is written, the last or not, and one whose source faults. -/
theorem witness_CopiesAndLoopsStep_sectors :
    let s := pumping fillShape [0x1FF]
    let far := { fillShape with skind := 0, src := 0x40000000 }
    let t := pumping far [0x1FF]
    let left (x : Except Halt State) : List Nat := match x with
      | .ok u => (match u.cmd? 50 with | some c => (match c.kind with | .copy k => k.todo | _ => [0]) | none => [0])
      | .error _ => [0]
    s.active? 50 = some (acting s) ∧ t.active? 50 = some (acting t) ∧ (acting s).cmd.id = 50 ∧ s.remotePending 50 = false ∧
    s.pumpFree (dieOf (acting s).team.core) = true ∧
    ({ s with units := (List.range 16).map fun k => { unit := .pump k, score := 64, state := .drained } } : State).pumpFree 0 = false ∧
    ({ s with ops := [s.cmdOp (acting s) .store (.remote 5) 0 32 false] } : State).remotePending 50 = true ∧
    (∀ p ∈ [PeerState.recovering, .up], (withPeer (pumping farShape [4]) p).peer? 5 = some p) ∧ farShape.skind = 3 ∧ farShape.node = 5 ∧
    s.ops.all (fun x => !x.reading) = true ∧
    fillShape.skind = 4 ∧ fillShape.dkind = 1 ∧ fmtScaled fillShape.efmt = false ∧ 32 * 0x1FF + 32 = 1024 * (acting s).launch.record.scratch ∧
    s.canIssue [s.cmdOp (acting s) .store (.scratch (acting s).team.id) (32 * 0x1FF) 32 false] = true ∧
    bad (pumped t far .none) (fun h => match h with | .fault _ _ => true | _ => false) = true ∧
    left (pumped s fillShape .none) = [] ∧ left (pumped (pumping fillShape [0x1FE, 0x1FF]) fillShape .none) = [0x1FF] := by decide +kernel

/-- A loop of one row of A and eight of B, which reads a scratchpad or, in mode 2, memory from a base. -/
def aLoop (mode : Nat) (base : DWord) (steps : Nat) : Loop where
  id := 60
  team := 1
  group := 0
  uid := 2
  pc := 0x1000
  tok := 9
  mode := mode
  z := false
  tc := 0
  ta := 2
  a := 0
  b := 0x80
  base := base
  inca := 1
  incb := 0xFFFF
  steps := steps
  next := 0
  ma := 1
  nb := 1
  rmode := 0
  shadow := [[]]
  past := []
  served := 0

/-- The placed state with a loop, and with the reads of its step that have come. -/
def looping (l : Loop) (read : List Nat) : State :=
  { cold base with
    loops := [l]
    ops := read.map fun k => { readOp (.engine 1 0 0 60) 2 (loopKey l.next k) (some (List.replicate 32 0)) with id := 70 + k, space := .scratch 1, addr := k } }

/-- A loop whose fetches issue, wait, fault, and are all there; its turn, and another's; a step that is the last and one that is not. -/
theorem witness_CopiesAndLoopsStep_loop :
    let team (s : State) : Team := (s.team? 1).getD idleTeam
    let all := (List.range 8).map (32 * ·)
    let last := looping (aLoop 0 0 1) all
    let far := looping (aLoop 2 0x40000000 1) []
    let shared : State := { last with loops := [{ aLoop 0 0 1 with served := 2 }, { aLoop 0 0 1 with id := 61, tok := 10 }] }
    (∀ s ∈ [looping (aLoop 0 0 1) [], last, far],
      s.loops.length = 1 ∧ s.held = [] ∧ s.halted.contains 1 = false ∧ s.asidOf (team s) = 1 ∧
      there (s.team? 1) (fun t => (t.group? 0).isSome && t.state == .resident && t.red.isNone && tileFmt (t.cfg 2) == 1 && tileFmt (t.cfg 3) == 1 &&
        t.tiles.length == 4) = true ∧ s.teams.all (fun t => t.red.isNone) = true ∧ s.fetchAhead (aLoop 0 0 1) (team s) = none) ∧
    bad ((looping (aLoop 0 0 1) []).stepFetch (aLoop 0 0 1) (team base) 0) (fun h => match h with | .issued _ => true | _ => false) = true ∧
    bad (far.stepFetch (aLoop 2 0x40000000 1) (team base) 0) (fun h => match h with | .fault _ _ => true | _ => false) = true ∧
    good (last.stepFetch (aLoop 0 0 1) (team base) 0) (fun m => m.length == 8) = true ∧
    last.loopTurn (aLoop 0 0 1) 0 = true ∧ shared.loopTurn { aLoop 0 0 1 with served := 2 } 0 = false ∧ shared.loopTurn { aLoop 0 0 1 with id := 61 } 0 = true ∧
    (let l := { aLoop 0 0 2 with next := 1 }
     (looping l all).fetchAhead l (team base) = none ∧ good ((looping l all).stepFetch l (team base) 1) (fun m => m.length == 8) = true) ∧
    ((team base).afterStep (aLoop 0 0 1) { fmt := 1, side := 0, get := fun _ => 0 } { fmt := 1, side := 1, get := fun _ => 0 }).tiles.length = 4 := by
  decide +kernel

/-- A collective of two members, this device and node 5, with a flag that has not come. -/
def collRec (flagv : Nat) : List Byte := natLe 64 (2 * 2 ^ 160 + 8 * 2 ^ 192 + flagv * 2 ^ 224 + 0x3200 * 2 ^ 256 + 0x3100 * 2 ^ 320 + 0x3180 * 2 ^ 384 + 0x3140 * 2 ^ 448)
def ringState (gate : Bool) (flagv : Nat) : CollState where
  coll := collOf (collRec flagv)
  ring := [0, 5]
  rank := 0
  gate := gate
  step := 0
  sent := 0
  masks := (collOf (collRec flagv)).firstMasks 0
  lost := []
  last := 2
  put := 0
def collected (record : DWord) (half : Option (List Byte)) (st : Option CollState) : State := commanded base (.coll record half st)
/-- A message for it. -/
def chunkFor (buf : DWord) : ChunkMsg :=
  { die := 0, asid := 1, buf := buf, kind := 0, count := 8, efmt := 0, n := 2, gather := false, chunk := 1, data := List.replicate 32 0, mask := [1] }
/-- A result that an access issued, and one that faulted. -/
def issuedNow (x : Except Halt (List Byte)) : Bool := bad x fun h => match h with | .issued _ => true | _ => false
def faulted (x : Except Halt (List Byte)) : Bool := bad x fun h => match h with | .fault _ _ => true | _ => false

/-- A collective's record, read and not; refused, busy, with a table that is not there, agrees, and does not name this device. -/
theorem witness_CollectiveSteps_start :
    let first (record : DWord) (l : List (Nat × Option (List Byte))) : State := cmdReads (collected record none none) l
    let u (high : List Byte) (l : List (Nat × Option (List Byte))) : State := cmdReads (collected 0x3000 (some ((collRec 1).take 32)) none) ((0x3020, some high) :: l)
    let fetch (s : State) (p : DWord) (n : Nat) : Except Halt (List Byte) := s.cmdFetch (acting s) p n Leaf.isRaw
    let high := (collRec 1).drop 32
    let c := collOf ((collRec 1).take 32 ++ high)
    (first 0x3000 []).active? 50 = some (acting (first 0x3000 [])) ∧ (u high []).active? 50 = some (acting (u high [])) ∧
    issuedNow (fetch (first 0x3000 []) 0x3000 32) = true ∧ faulted (fetch (first 0x40000000 []) 0x40000000 32) = true ∧
    gives (fetch (first 0x3000 [(0x3000, some (natLe 32 7))]) 0x3000 32) (natLe 32 7) = true ∧ gives (fetch (u high []) 0x3020 32) high = true ∧ c.ok = true ∧
    (collOf (natLe 64 0)).ok = false ∧ (u high []).bufferBusy (acting (u high [])) c.buf = false ∧
    (let s : State := { u high [] with cmds := (u high []).cmds ++ [{ (acting (u high [])).cmd with id := 51, kind := .coll 0x3000 (some []) (some (ringState true 1)) }] }
     s.bufferBusy (acting s) c.buf = true ∧ s.active? 50 = some (acting s)) ∧
    issuedNow (fetch (u high []) c.members (4 * c.n)) = true ∧
    (∀ node ∈ [5, 0], let s := u high [(0x3140, some (natLe 8 (node * 2 ^ 32)))]
      gives (fetch s c.members (4 * c.n)) (natLe 8 (node * 2 ^ 32)) = true ∧ tableOk s.nodeNo (tableOf c.n (natLe 8 (node * 2 ^ 32))) = (node == 5)) := by decide +kernel

/-- A gate that has no flag, whose flag is not read, below its value, and open; a chunk whose header disagrees. -/
theorem witness_CollectiveSteps_gate :
    let s (f : Nat) (l : List (Nat × Option (List Byte))) : State := withPeer (cmdReads (collected 0x3000 none (some (ringState false f))) l) .up
    let noFlag : CollState := { ringState false 0 with coll := { (ringState false 0).coll with flag := 0 } }
    let load (s : State) : Except Halt (List Byte) := s.cmdLoad (acting s) 0x3100 4 .acquire Leaf.isRaw
    (s 1 []).active? 50 = some (acting (s 1 [])) ∧ (s 1 []).chunks = [] ∧ (ringState false 1).coll.flag = 0x3100 ∧ noFlag.lost = [] ∧ noFlag.gate = false ∧
    issuedNow (load (s 1 [])) = true ∧ (∀ v ∈ [0, 1], gives (load (s 1 [(0x3100, some (natLe 4 v))])) (natLe 4 v) = true) ∧ (ringState false 1).coll.flagv = 1 ∧
    (let m := { chunkFor 0x3200 with n := 3 }
     (ringState true 0).takes (dieOf (acting (s 1 [])).team.core) (acting (s 1 [])).cmd.asid m = true ∧ (ringState true 0).coll.agrees m = false) := by decide +kernel

/-- A send to a neighbour that is up and one that is not; its chunk unread and read. -/
theorem witness_CollectiveSteps_send :
    let st := ringState true 0
    let s (p : PeerState) (l : List (Nat × Option (List Byte))) : State := withPeer (cmdReads (collected 0x3000 none (some st)) l) p
    let fetch (s : State) : Except Halt (List Byte) := s.cmdFetch (acting s) 0x3200 32 (Leaf.isBuffer 0)
    st.next = 5 ∧ st.coll.steps = 2 ∧ st.sent < st.coll.steps ∧ st.coll.place (st.coll.sends st.rank st.sent) = (0x3200, 32) ∧ st.coll.efmt = 0 ∧
    (s .up []).chunkFor (acting (s .up [])) st = none ∧ (s .recovering []).peer? st.next ≠ some .up ∧ (s .up []).peer? st.next = some .up ∧
    issuedNow (fetch (s .up [])) = true ∧ gives (fetch (s .up [(0x3200, some (natLe 32 7))])) (natLe 32 7) = true := by decide +kernel

/-- A chunk that has come, to be reduced and to be written over; its sector to be written, held back, at no page, and the last of its sectors written. -/
theorem witness_CollectiveSteps_receive :
    let st := ringState true 0
    let at_ (st : CollState) (m : ChunkMsg) (l : List (Nat × Option (List Byte))) : State := { cmdReads (collected 0x3000 none (some st)) l with chunks := [m] }
    let s := at_ st (chunkFor 0x3200) [(0x3220, some (natLe 32 7))]
    let mine (s : State) : Except Halt (List Byte) := s.cmdFetch (acting s) 0x3220 32 (Leaf.isBuffer 0)
    let gathering : CollState := { st with step := 1, sent := 1 }
    let g := at_ gathering { chunkFor 0x3200 with gather := true, chunk := 0 } []
    st.coll.place 1 = (0x3220, 32) ∧ s.chunkFor (acting s) st = some (chunkFor 0x3200) ∧ g.chunkFor (acting g) gathering = some { chunkFor 0x3200 with gather := true, chunk := 0 } ∧
    issuedNow (mine (at_ st (chunkFor 0x3200) [])) = true ∧ gives (mine s) (natLe 32 7) = true ∧
    (sectorPieces 0x3220 32 32)[0]? = some (0, 32) ∧ (sectorPieces 0x3220 32 32)[1]? = none ∧
    good (s.cmdCheck (acting s) 0x3220 32 .store (Leaf.isBuffer 0)) (fun l => s.canIssue [s.cmdOp (acting s) .store .mem (l.pa 0x3220) 32 l.sc]) = true ∧
    (let r := s.place 0x14000 (natLe 16 0x40002083)
     bad (r.cmdCheck (acting r) 0x3220 32 .store (Leaf.isBuffer 0)) (fun _ => true) = true) ∧
    (let w : State := { s with ops := s.ops ++ [{ s.cmdOp (acting s) .load .mem 0x40003100 4 false with id := 90, order := .acquire }] }
     w.canIssue [w.cmdOp (acting w) .store .mem 0x40003220 32 false] = false) := by decide +kernel

/-- A neighbour that a send or a receive waits on and that recovers, and one that does not; what a loss leaves of a collective in each case. -/
theorem witness_CollectiveSteps :
    let st := ringState true 0
    let s (p : PeerState) : State := withPeer (collected 0x3000 none (some st)) p
    let learnt := st.learn [1]
    (s .recovering).peer? 5 = some .recovering ∧ st.next = 5 ∧ st.prev = 5 ∧ (s .up).peer? 5 ≠ some .recovering ∧ st.lost = [] ∧ learnt.lost = [1] ∧ learnt.last = 1 ∧
    (st.step < st.last ∧ st.sent < st.last) ∧ (let e := { st with step := 2, sent := 2 }
      e.last ≤ e.step ∧ e.last ≤ e.sent) ∧ ((ringState false 1).learn [1]).last = 0 ∧
    (let c (st : CollState) : State := collected 0x3000 none (some st)
     (∀ x ∈ (c st).collectives, (x.2.takes ((c st).siphonOf x.1) x.1.asid (chunkFor 0x3200) && x.2.lost.isEmpty) = true) ∧ (c st).collectives.length = 1 ∧
     ((c learnt).collectives.any fun x => x.2.takes ((c learnt).siphonOf x.1) x.1.asid (chunkFor 0x3200) && !x.2.lost.isEmpty) = true) := by decide +kernel

/-- Two copies of a team that have come to their closes. -/
def paired : State :=
  let twin (id : Nat) (k : Nat) (f : Team) : Team :=
    { f with id := id, red := some { twin := if k = 0 then 9 else 1, copy := k, closing := some (.scalar { team := id, group := 0, split := 0 }), granted := false, mail := [] } }
  let t := (base.team? 1).getD idleTeam
  { base with teams := [twin 1 0 t, twin 9 1 t] }
/-- A held store of a copy. -/
def heldStore : MemOp := { blankOp (.group 1 0 0) 1 .store .mem 0x40000100 4 with epoch := 1, data := [(1, 0xFF), (2, 0xFF), (3, 0xFF), (4, 0xFF)] }

/-- Units below their limit, at it, drained and overdue; an operation with a check word and without, whole and spoiled. -/
theorem witness_Reliability :
    let unit (n : Nat) (st : UnitState) : State := base.setUnit { unit := .well 3, score := n, state := st }
    unitExists (.well 3) = true ∧ ((unit 48 .service).unitRec (.well 3)).state = .service ∧
    ((unit 48 .service).unitRec (.well 3)).score + 15 < 64 ∧ ((unit 48 .service).unitRec (.well 3)).score + 16 = 64 ∧
    (∀ n ∈ [0, 64], ((unit n .service).unitRec (.well 3)).score = n ∧ ((unit n .service).unitRec (.well 3)).state = .service) ∧
    (∀ st ∈ [UnitState.drained, .overdue, .removed, .service], ((unit 64 st).unitRec (.well 3)).state = st) ∧
    (∀ u ∈ [HwUnit.core 3, .pump 3], (base.setUnit { unit := u, score := 64, state := .drained }).unitRec u = { unit := u, score := 64, state := .drained }) ∧
    base.op? 60 = none ∧
    (let s (check flips : List Nat) : State := oneOp .store 0x40000100 fun o =>
       { o with place := .cluster, check := check, flips := flips, suspect := some (.well 3), data := [(1, 0xFF), (2, 0xFF), (3, 0xFF), (4, 0xFF)] }
     opIs (s [] []) 60 (fun o => o.check.isEmpty) = true ∧ opIs (s [7] []) 60 (fun o => !o.check.isEmpty && 8 * o.carried.length == 32) = true ∧
     opIs (s [7] [3]) 60 (fun o => (s [7] [3]).mayHome o && !o.intact && o.suspect == some (.well 3)) = true) := by decide +kernel

/-- A split, a clause, a group and a loop that an error strikes. -/
theorem witness_Reliability_struck :
    (let v := base.suspect (.core 0) 32
     there (v.issuerOf ref) (fun c => !v.stopped c) = true) ∧
    (let v := (queued 0xFF100000).suspect (.core 0) 32
     there (v.headClause ref) (fun (_, _, _, q) => q.fetched.isNone) = true) ∧
    (let v := base.suspect (.well 3) 64
     there (v.team? 1) (fun t => t.state == .resident && there (t.group? 0) fun g => !g.ended) = true) ∧
    (let v := (looping (aLoop 0 0 1) []).suspect (.well 3) 64
     there (v.loops.find? fun l => l.id == 60) (fun l => (v.runningLoop l).isSome) = true) := by decide +kernel

/-- Copies with equal epochs, without stores and with one each, and with unequal ones; closes of a scalar and of a lane store; a sector of a signature. -/
theorem witness_Reliability_copies :
    there (paired.team? 1) (fun t => there (paired.team? 9) fun u => there t.red fun r => there u.red fun q => r.twin == 9 && r.copy == 0 && !r.granted && !q.granted &&
      there r.closing (fun a => q.closing == some (a.inTeam 9)) && (t.groups.find? fun g => !g.ended).isSome) = true ∧
    signature (paired.epochOps 1) = signature (paired.epochOps 9) ∧
    (let s : State := { paired with ops := [{ heldStore with id := 60 }, { heldStore with id := 61, agent := .group 9 0 0 }] }
     signature (s.epochOps 1) = signature (s.epochOps 9) ∧ (s.epochOps 1).length = 1) ∧
    (let s : State := { paired with ops := [{ heldStore with id := 60 }] }
     signature (s.epochOps 1) ≠ signature (s.epochOps 9)) ∧
    there ((laneAt .exit).team? 1) (fun t => there (t.group? 0) fun h => ((vget h.clauses 0 []).head?).isSome) = true ∧
    heldStore.kind = .store ∧ heldStore.addr < 2 ^ 48 ∧ heldStore.addr % 32 + heldStore.size ≤ 32 ∧ heldStore.data.length = heldStore.size ∧
    (heldStore.data.all fun d => d.2 == 0xFF) = true := by decide +kernel

/-- Images that are too short; the ROM running and not, the firmware at each of its stages; the limits of the power cap and of the throttle's steps. -/
theorem witness_Management :
    (∀ k : Nat, k ∈ [0, 1] → bits k 7 0 < 2) ∧ (∀ k : Nat, k ∈ [2, 3, 4, 5, 6] → bits k 7 0 ≥ 2) ∧
    ([] : List Byte).length < 1536 ∧ 900 % 25 = 0 ∧ 1750 % 25 = 0 ∧ State.reset.slower < 24 ∧
    ¬(({ State.reset with slower := 24 } : State).slower < 24) := by decide +kernel

/-- An image that is too short has an error. -/
theorem witness_Management_image : State.reset.firmwareError [] = some 1 := by
  have short : decide (([] : List Byte).length < 1536) = true := rfl
  unfold State.firmwareError
  simp only [short, Bool.true_or, if_true]

/-- Both invariants at reset and with the program placed, and a state that steps. -/
theorem witness_StepKeepsMemories_StepKeepsRegisters :
    State.reset.memoriesWf = true ∧ State.reset.registersLegal = true ∧ base.memoriesWf = true ∧ base.registersLegal = true := by decide +kernel

/-- With an action on its agenda, the placed state has a next state. -/
theorem witness_StepKeepsMemories_StepKeepsRegisters_next :
    let s : State := { base with agenda := [.event .thermalHalt] }
    s.memoriesWf = true ∧ s.registersLegal = true ∧ runs (step s) = true := by
  refine ⟨by decide +kernel, by decide +kernel, rfl⟩

/-- Objects at the bounds of their fields; a word of each kind with its instruction; a header. -/
theorem witness_BarrierObjectArithmetic :
    let b : BarObj := { quota := 2 ^ 32 - 1, left := 1, gen := 15, tx := 0 }
    b.arrive 0 = none ∧ b.arrive 2 = none ∧ there (b.arrive 1) (fun x => x.gen == 0 && x.left == 2 ^ 32 - 1) = true ∧
    ((b.owe (2 ^ 36 - 1)).tx, (b.owe (2 ^ 36 - 1)).gen) = (2 ^ 36 - 1, 15) ∧ (({ b with left := 0, tx := 8 } : BarObj).pump 8).gen = 0 := by decide +kernel

theorem witness_DecodeEncode :
    (decodeScalar 0x04C80005).toOption = some (.addi 6 8 5) ∧ encodeScalar (.addi 6 8 5) = some 0x04C80005 ∧
    (∀ i ∈ [Instr.iadd (la 5 8 10 0 .i32)], i.laneWf = true ∧ (encodeLane i).isSome = true) ∧
    (let h : Header := { n := 1, wait := 0x800, aen := true, fla := 11, ben := true, flb := 0 }
     decodeHeader (encodeHeader h) = some h) := by decide +kernel

end Sys2Proof.Tests
end

section

/-! O58: the canonical form of the memories is an invariant. `State.Canonical` is `State.memoriesWf` as a structure; every function of the
model that gives a state has one lemma that it keeps the form, and an instruction's lemma is assembled from those of the functions it calls. -/

/- The default proofs of `State.Canonical.same` and `State.Canonical.modTeam` are read back from this file, which with asynchronous elaboration
keeps one thread waiting for each theorem. -/
set_option Elab.async false

namespace Sys2Proof.Machine

/-! The canonical form of every memory, as a structure. -/

/-- A team's scratchpad and its tiles are canonical. -/
structure Team.Canonical (t : Team) : Prop where
  scratch : t.scratch.wf = true
  tiles   : (t.tiles.all fun m => m.wf) = true

/-- The accumulators that a loop would go back to are canonical (R186). -/
def Loop.Canonical (l : Loop) : Prop := (l.shadow.all fun m => m.wf) = true

/-- Every memory of the device is canonical. -/
structure State.Canonical (s : State) : Prop where
  mem   : s.mem.wf = true
  views : (s.views.toList.all fun m => m.wf) = true
  teams : ∀ t ∈ s.teams, t.Canonical
  loops : ∀ l ∈ s.loops, l.Canonical

theorem State.canonical_iff (s : State) : s.Canonical ↔ s.memoriesWf = true := by
  rw [State.memoriesWf_iff]
  exact ⟨fun ⟨hm, hv, ht, hl⟩ => ⟨hm, hv, fun t h => ⟨(ht t h).scratch, (ht t h).tiles⟩, hl⟩,
    fun ⟨hm, hv, ht, hl⟩ => ⟨hm, hv, fun t h => ⟨(ht t h).1, (ht t h).2⟩, hl⟩⟩

/-- What a computation that may fail leaves: `p` of its value, `q` of its failure. -/
def Gives {ε α : Type} (p : α → Prop) (q : ε → Prop) : Except ε α → Prop
  | .ok a => p a
  | .error e => q e

namespace Gives
variable {ε α β : Type} {p : α → Prop} {q : ε → Prop} {r : Except ε α}

theorem value {a : α} (h : p a) : Gives p q (.ok a) := h

theorem ok {a : α} (h : Gives p q r) (e : r = .ok a) : p a := by subst e; exact h

theorem error {e : ε} (h : Gives p q r) (he : r = .error e) : q e := by subst he; exact h

theorem map {f : α → β} {p' : β → Prop} (h : Gives p q r) (hf : ∀ a, p a → p' (f a)) : Gives p' q (r.map f) := by
  cases r with
  | ok a => exact hf a h
  | error e => exact h

end Gives

/-- A step that stops, or whose next state is canonical. -/
def Keeps : Out State → Prop
  | .next s => s.Canonical
  | _ => True

theorem Team.Canonical.same {t u : Team} (h : t.Canonical) (hs : u.scratch = t.scratch := by rfl) (ht : u.tiles = t.tiles := by rfl) :
    u.Canonical := ⟨hs ▸ h.scratch, ht ▸ h.tiles⟩

theorem Team.Canonical.ite {c : Prop} [Decidable c] {t u : Team} (ht : t.Canonical) (hu : u.Canonical) : (if c then t else u).Canonical := by
  split
  · exact ht
  · exact hu

theorem Team.Canonical.rollback {t : Team} {l : Loop} (h : t.Canonical) (hl : l.Canonical) : (l.rollback t).Canonical :=
  ⟨h.scratch, l.rollback_wf t h.tiles hl⟩

theorem Keeps.ite {c : Prop} [Decidable c] {x y : Out State} (hx : Keeps x) (hy : Keeps y) : Keeps (if c then x else y) := by
  split
  · exact hx
  · exact hy

theorem Gives.ite {ε α : Type} {p : α → Prop} {q : ε → Prop} {c : Prop} [Decidable c] {x y : Except ε α} (hx : Gives p q x)
    (hy : Gives p q y) : Gives p q (if c then x else y) := by
  split
  · exact hx
  · exact hy

theorem Team.Canonical.settleBar {t : Team} (h : t.Canonical) : t.settleBar.Canonical := by
  dsimp only [Team.settleBar]
  split
  · exact h.same
  · exact h

theorem Team.Canonical.judge {t : Team} {gid : Nat} (h : t.Canonical) : (t.judge gid).Canonical := by
  unfold Team.judge
  split
  · split
    · exact h
    · exact h.same
  · exact h

namespace State.Canonical
variable {s t : State}

/-- A change that leaves the memories, the teams and the loops alone keeps the canonical form. -/
theorem same (h : s.Canonical) (hm : t.mem = s.mem := by rfl) (hv : t.views = s.views := by rfl) (ht : t.teams = s.teams := by rfl)
    (hl : t.loops = s.loops := by rfl) : t.Canonical :=
  ⟨hm ▸ h.mem, hv ▸ h.views, ht ▸ h.teams, hl ▸ h.loops⟩

theorem ite {c : Prop} [Decidable c] (hs : s.Canonical) (ht : t.Canonical) : (if c then s else t).Canonical := by
  split
  · exact hs
  · exact ht

/-- A fold whose steps keep the canonical form keeps it. -/
theorem foldl {α : Type} {f : State → α → State} {l : List α} (h : s.Canonical) (hf : ∀ s a, a ∈ l → s.Canonical → (f s a).Canonical) :
    (l.foldl f s).Canonical :=
  List.foldlRecOn l f h fun s hs a ha => hf s a ha hs

theorem mapTeams {f : Team → Team} (h : s.Canonical) (hf : ∀ t ∈ s.teams, t.Canonical → (f t).Canonical) :
    ({ s with teams := s.teams.map f } : State).Canonical :=
  { h with teams := List.forall_mem_map.mpr fun t ht => hf t ht (h.teams t ht) }

theorem replaceTeam {id : Nat} {u : Team} (h : s.Canonical) (hu : u.Canonical) :
    ({ s with teams := s.teams.map fun x => if x.id == id then u else x } : State).Canonical :=
  h.mapTeams fun _ _ hx => hu.ite hx

theorem changeTeam {id : Nat} {f : Team → Team} (h : s.Canonical) (hf : ∀ t : Team, t.Canonical → (f t).Canonical) :
    (s.modTeam id f).Canonical :=
  h.mapTeams fun t _ ht => (hf t ht).ite ht

/-- A change of a team that leaves its memories alone. -/
theorem modTeam {id : Nat} {f : Team → Team} (h : s.Canonical)
    (hs : ∀ t : Team, (f t).scratch = t.scratch := by exact fun _ => rfl) (ht : ∀ t : Team, (f t).tiles = t.tiles := by exact fun _ => rfl) :
    (s.modTeam id f).Canonical :=
  h.changeTeam fun t hc => hc.same (hs t) (ht t)

theorem modGroup {team gid : Nat} {f : Group → Group} (h : s.Canonical) : (s.modGroup team gid f).Canonical := h.modTeam

theorem team? {t : Team} {id : Nat} (h : s.Canonical) (ht : s.team? id = some t) : t.Canonical := h.teams t (List.mem_of_find?_eq_some ht)

theorem setStat {asid n : Nat} (h : s.Canonical) : (s.setStat asid n).Canonical := h.same

theorem fireVector {asid : Nat} (h : s.Canonical) : (s.fireVector asid).Canonical := ite h.same h

theorem usedLeaf {core : Option Nat} {asid : Nat} {ptr : DWord} {l : Leaf} (h : s.Canonical) : (s.usedLeaf core asid ptr l).Canonical := by
  unfold State.usedLeaf
  split
  · exact h
  · exact h.same

theorem homeWrite {a : Nat} {data : List (Byte × Byte)} (h : s.Canonical) : (s.homeWrite a data).Canonical :=
  (canonical_iff _).mpr (s.homeWrite_wf a data ((canonical_iff s).mp h))

theorem setScratch {team : Nat} {m : Memory} (h : s.Canonical) (hm : m.wf = true) : (s.setScratch team m).Canonical :=
  h.mapTeams fun _ _ ht => Team.Canonical.ite ⟨hm, ht.tiles⟩ ht

theorem scratchOf (h : s.Canonical) (team : Nat) : (s.scratchOf team).wf = true := by
  unfold State.scratchOf
  split
  next t ht => exact (h.team? ht).scratch
  next => rfl

theorem homeOp {o : MemOp} {data : List (Byte × Byte)} (h : s.Canonical) : (s.homeOp o data).Canonical := by
  unfold State.homeOp
  split
  · exact (h.setScratch (Memory.wf_writeMasked _ _ _ (h.scratchOf _))).same
  · exact h.same
  · exact h.homeWrite.same

theorem homeNew {o : MemOp} (h : s.Canonical) : (s.homeNew o).Canonical := h.same.homeOp

end State.Canonical
end Sys2Proof.Machine

namespace Sys2Proof.Machine

/-! Operations that the whole machine shares: the ends of commands, groups and teams, faults, the boundary of an instruction. -/

namespace State.Canonical
variable {s t : State}

theorem charge {u : HwUnit} {n : Nat} (h : s.Canonical) : (s.charge u n).Canonical := ite h.same h

theorem mismatch {o : MemOp} (h : s.Canonical) : (s.mismatch o).Canonical := by
  unfold State.mismatch
  split
  · exact h.charge
  · exact h

theorem refetch {o : MemOp} (h : s.Canonical) : (s.refetch o).Canonical := h.mismatch.same

theorem deviceWrite {asid : Nat} {ptr : DWord} {bs : List Byte} {fmtOk : Leaf → Bool} (h : s.Canonical) :
    Gives State.Canonical (fun _ => True) (s.deviceWrite asid ptr bs fmtOk) := by
  refine List.foldlRecOn _ _ h fun acc hacc p _ => ?_
  cases acc with
  | error e => trivial
  | ok s =>
    dsimp only
    split
    · trivial
    · exact State.Canonical.homeNew hacc

theorem spill {t : Team} {r : LaunchRec} {gid fuel : Nat} {used : List Nat} {p : Split} (h : s.Canonical) :
    Gives (fun x => x.1.Canonical) (fun _ => True) (s.spill t r gid used fuel p) := by
  induction fuel generalizing s used p with
  | zero => exact h
  | succ fuel ih =>
    unfold State.spill
    split
    · exact h
    · split
      · exact h
      · dsimp only
        split
        next => trivial
        next hw => exact ih (h.deviceWrite.ok hw)

theorem fitStack {t : Team} {gid : Nat} {used : List Nat} {p : Split} (h : s.Canonical) :
    Gives (fun x => x.1.Canonical) (fun _ => True) (s.fitStack t gid used p) := by
  unfold State.fitStack
  split
  · exact h.spill
  · exact h

theorem deviceSend {asid : Nat} {ptr : DWord} {bs : List Byte} {order : Order} {past : List Nat} {t : State} (h : s.Canonical)
    (ht : s.deviceSend asid ptr bs order past = some t) : t.Canonical := by
  obtain ⟨a, ha, rfl⟩ := Option.map_eq_some_iff.mp ht
  refine List.foldlRecOn (motive := fun acc => ∀ a, acc = some a → a.1.Canonical) _ _ ?_ ?_ a ha
  · rintro _ ⟨⟩
    exact h
  · intro acc hacc p _ a ha
    match acc with
    | none => simp at ha
    | some (s, past, n) =>
      dsimp only at ha
      split at ha
      · simp at ha
      · cases ha
        exact (hacc _ rfl).same

theorem deviceWord {asid : Nat} {ptr : DWord} {bs : List Byte} {order : Order} {past : List Nat} {bit : Nat} (h : s.Canonical) :
    (s.deviceWord asid ptr bs order past bit).Canonical := by
  unfold State.deviceWord
  split
  next ht => exact h.deviceSend ht
  next => exact h.setStat.fireVector

theorem writeCpl {asid : Nat} {cpl : DWord} {status ident : Nat} (h : s.Canonical) : (s.writeCpl asid cpl status ident).Canonical :=
  ite h h.deviceWord

theorem flushFinals (h : s.Canonical) : s.flushFinals.Canonical := by
  refine h.foldl fun s l _ hs => ?_
  split
  · exact ite hs hs.same.writeCpl
  · exact hs

theorem writeToken {team gid uid owner : Nat} {reg : SReg} {v : Word} (h : s.Canonical) : (s.writeToken team gid uid reg owner v).Canonical :=
  h.modGroup

theorem dropCmd {c : Cmd} (h : s.Canonical) : (s.dropCmd c).Canonical := h.same.modGroup

theorem completeCmd {id : Nat} {v : Word} (h : s.Canonical) : (s.completeCmd id v).Canonical :=
  h.foldl fun _ _ _ hs => hs.dropCmd.writeToken

theorem finishCmd {id : Nat} (h : s.Canonical) : (s.finishCmd id).Canonical := by
  unfold State.finishCmd
  split
  · exact h
  · split
    · exact h
    · exact ite h.completeCmd h

theorem endCmd {id v : Nat} (h : s.Canonical) : (s.endCmd id v).Canonical := h.same.finishCmd

theorem record {t : Trap} (h : s.Canonical) : (s.record t).Canonical := ite h.setStat h.same

theorem notify {c : Cmd} (h : s.Canonical) : (s.notify c).Canonical := by
  dsimp only [State.notify]
  split
  · exact ite h h.same
  · exact h

theorem notifyAll {mine : Cmd → Bool} (h : s.Canonical) : (s.notifyAll mine).Canonical := h.foldl fun _ _ _ hs => hs.notify

theorem closeGroup {team gid : Nat} (h : s.Canonical) : (s.closeGroup team gid).Canonical := by
  refine modGroup ⟨h.mem, h.views, List.forall_mem_map.mpr fun t ht => ?_, fun l hl => h.loops l (List.mem_filter.mp hl).1⟩
  split
  · exact List.foldlRecOn _ _ (h.teams t ht) fun u hu l hl => hu.rollback (h.loops l (List.mem_filter.mp hl).1)
  · exact h.teams t ht

theorem noteKill {launch cause : Nat} (h : s.Canonical) : (s.noteKill launch cause).Canonical := h.same

theorem dropTeam {t : Team} (h : s.Canonical) : (s.dropTeam t).Canonical := by
  have closed : (t.groups.foldl (fun s g => s.closeGroup t.id g.gid) s).Canonical := h.foldl fun _ _ _ hs => hs.closeGroup
  exact { closed with teams := fun u hu => closed.teams u (List.mem_filter.mp hu).1 }

theorem countEnd {t : Team} (h : s.Canonical) : (s.countEnd t).Canonical := h.same

theorem checkLaunch {id : Nat} (h : s.Canonical) : (s.checkLaunch id).Canonical := by
  unfold State.checkLaunch
  split
  · exact h
  · refine ite h (flushFinals ?_)
    split
    · exact h.same.endCmd
    · exact h.same

theorem cancelLaunch {id : Nat} {read : Option Nat} (h : s.Canonical) : (s.cancelLaunch id read).Canonical := by
  unfold State.cancelLaunch
  split
  · exact h
  · exact ite h (h.same.foldl fun _ _ _ hs => hs.dropTeam).checkLaunch

theorem schedulerRead {l : Launch} {stage n : Nat} {ptr : DWord} (h : s.Canonical) :
    Gives (fun _ => True) State.Canonical (s.schedulerRead l stage ptr n) := by
  unfold State.schedulerRead
  split
  · trivial
  · dsimp only
    split
    · exact h.record.same
    · exact h.record.cancelLaunch

theorem endUndispatched {l : Launch} {stage : Nat} (h : s.Canonical) : (s.endUndispatched l stage).Canonical :=
  { h with teams := fun t ht => h.teams t (List.mem_filter.mp ht).1 }

theorem closeStages {id : Nat} (h : s.Canonical) : (s.closeStages id).Canonical := by
  refine h.foldl fun s j _ hs => ?_
  split
  · exact hs
  · split
    · exact hs
    · refine ite hs ?_
      split
      next hr => exact hs.schedulerRead.error hr
      next => exact ite hs.endUndispatched hs

theorem teamOver {t : Team} (h : s.Canonical) : (s.teamOver t).Canonical :=
  ite h.dropTeam h.dropTeam.countEnd.closeStages.checkLaunch

theorem settleBar {team : Nat} (h : s.Canonical) : (s.modTeam team Team.settleBar).Canonical := h.changeTeam fun _ ht => ht.settleBar

theorem groupOver {team : Nat} (h : s.Canonical) : (s.groupOver team).Canonical := by
  dsimp only [State.groupOver]
  split
  · exact h.settleBar
  · exact ite h.settleBar.teamOver h.settleBar

theorem killGroup {team gid cause : Nat} (h : s.Canonical) : (s.killGroup team gid cause).Canonical :=
  h.foldl fun _ _ _ hs => hs.noteKill.notifyAll.closeGroup.modTeam.groupOver

theorem killTeam {team cause : Nat} {requeue : Bool} (h : s.Canonical) : (s.killTeam team cause requeue).Canonical := by
  unfold State.killTeam
  split
  · exact h
  next t _ =>
    have gone : ((s.copies team).foldl (fun s t => (s.notifyAll fun c => c.team == t.id).dropTeam t) (s.noteKill t.launch cause)).Canonical :=
      h.noteKill.foldl fun _ _ _ hs => hs.notifyAll.dropTeam
    exact ite gone.same gone.countEnd.closeStages.checkLaunch

theorem halt {asid : Nat} (h : s.Canonical) : (s.halt asid).Canonical :=
  { h with teams := List.forall_mem_map.mpr fun t ht => (h.teams t ht).same.ite (h.teams t ht) }

theorem contain {cause : Cause} {team gid : Nat} (h : s.Canonical) : (s.contain cause team gid).Canonical := by
  have group (t : Team) : (if t.inPasses then s.killTeam team cause.code false else s.killGroup team gid cause.code).Canonical :=
    ite h.killTeam h.killGroup
  unfold State.contain
  split
  · exact h
  · split
    · exact h
    · dsimp only
      split
      · exact group _
      · exact h.killTeam
      · split
        · exact h.killTeam
        · exact group _
        · exact h.halt

theorem takeFault {t : Trap} {team gid : Nat} {work : HeldWork} (h : s.Canonical) : (s.takeFault t team gid work).Canonical :=
  ite h.record.same h.record.contain

theorem adopt {team gid : Nat} {keep : Fin 4 × Nat} {gone : List Nat} (h : s.Canonical) : (s.adopt team gid keep gone).Canonical := by
  refine ⟨h.mem, h.views, List.forall_mem_map.mpr fun t ht => ?_, List.forall_mem_map.mpr h.loops⟩
  split
  · exact (h.teams t ht).same
  · exact h.teams t ht

theorem mergeLive {t : Team} {g : Group} {i j : Fin 4 × Split} (h : s.Canonical) :
    Gives State.Canonical (fun _ => True) (s.mergeLive t g i j) := by
  dsimp only [State.mergeLive]
  split
  next => trivial
  next hf => exact (State.Canonical.adopt (h.fitStack.ok hf)).modGroup

theorem areaFault {t : Team} {g : Group} {k : Fin 4} {p : Split} {sub : Nat} {addr : DWord} (h : s.Canonical) :
    (s.areaFault t g k p sub addr).Canonical := h.takeFault

theorem boundary {team gid fuel : Nat} (h : s.Canonical) : (s.boundary team gid fuel).Canonical := by
  induction fuel generalizing s with
  | zero => exact h
  | succ fuel ih =>
    unfold State.boundary
    split
    · exact h
    · split
      · exact h
      · split
        · refine ite h ?_
          split
          next hm => exact ih (h.mergeLive.ok hm)
          next => exact h.areaFault
        · split
          · exact ih h.adopt.modGroup
          · split
            · exact h
            · split
              · exact h.areaFault
              · exact h
              · exact ih h.same.modGroup

theorem retire {r : SplitRef} {pc : DWord} (h : s.Canonical) : (s.retire r pc).Canonical := h.modTeam.boundary

end State.Canonical
end Sys2Proof.Machine

namespace Sys2Proof.Machine

/-! What issues a scalar instruction, and the scalar memory accesses (R91 to R102). -/

theorem State.Canonical.issuerOf {s : State} {r : SplitRef} {c : Issuer} (h : s.Canonical) (hc : s.issuerOf r = some c) :
    c.team.Canonical := by
  unfold State.issuerOf at hc
  split at hc
  · simp at hc
  next t ht =>
    split at hc
    · split at hc
      · split at hc
        · cases hc
          exact h.team? ht
        · simp at hc
      · simp at hc
    · simp at hc

/-- A halt that leaves no state, or a canonical one. -/
def Halt.Canonical : Halt → Prop
  | .issued s => s.Canonical
  | _ => True

/-- What issues a read keeps the canonical form, as does the reason why it is not issued. -/
def Issues : Except Halt (MemOp × (State → State)) → Prop := Gives (fun x => ∀ t : State, t.Canonical → (x.2 t).Canonical) Halt.Canonical

theorem Issues.ok {o : MemOp} {f : State → State} (hf : ∀ t : State, t.Canonical → (f t).Canonical) : Issues (.ok (o, f)) := hf

namespace State.Canonical
variable {s : State}

theorem scalarFault {c : Issuer} {f : AccessFault} {addr : DWord} (h : s.Canonical) : (s.scalarFault c f addr).Canonical := h.takeFault

theorem atClose {t : Team} {a : Action} {k : State → Out State} (h : s.Canonical) (hk : Keeps (k s)) : Keeps (s.atClose t a k) := by
  unfold State.atClose
  split
  · exact hk
  · exact hk
  · exact .ite hk (.ite h h.modTeam)

theorem atDue {t : Team} {a : Action} {k : State → Out State} (h : s.Canonical) (hk : Keeps (k s)) : Keeps (s.atDue t a k) :=
  .ite (h.atClose hk) hk

theorem noteReads {c : Issuer} {reads : List SReg} (h : s.Canonical) : (s.noteReads c reads).2.Canonical := by
  dsimp only [State.noteReads]
  split
  · exact h
  · exact h.modGroup

theorem noteReads_issuer {c : Issuer} {reads : List SReg} (hc : c.team.Canonical) : (s.noteReads c reads).1.team.Canonical := by
  dsimp only [State.noteReads]
  split
  · exact hc
  · exact hc

theorem scalarIssue {i : Instr} {reads writes : List SReg} {k : Issuer → State → Out State} (h : s.Canonical)
    (hk : ∀ c t, c.team.Canonical → t.Canonical → Keeps (k c t)) : Keeps (scalarIssue i reads writes s k) := by
  unfold Machine.scalarIssue
  split
  · trivial
  next c hc =>
    obtain ⟨r, -, hr⟩ := Option.bind_eq_some_iff.mp hc
    exact .ite h (.ite h.scalarFault (.ite h (h.atDue (hk _ _ (noteReads_issuer (h.issuerOf hr)) h.noteReads))))

theorem commandIssue {i : Instr} {reads : List SReg} {tok : SReg} {k : Issuer → State → Out State} (h : s.Canonical)
    (hk : ∀ c t, c.team.Canonical → t.Canonical → Keeps (k c t)) : Keeps (commandIssue i reads tok s k) := by
  unfold Machine.commandIssue
  split
  · trivial
  next c hc =>
    obtain ⟨r, -, hr⟩ := Option.bind_eq_some_iff.mp hc
    exact .ite h (.ite h.scalarFault (.ite h (h.atDue (hk _ _ (noteReads_issuer (h.issuerOf hr)) h.noteReads))))

theorem writeRetire {c : Issuer} {rd : SReg} {v : Word} (h : s.Canonical) : (s.writeRetire c rd v).Canonical := h.modGroup.retire

theorem advance {c : Issuer} (h : s.Canonical) : (s.advance c).Canonical := h.retire

theorem passTrap {w : HeldWork} (h : s.Canonical) : (s.passTrap w).Canonical := by
  unfold State.passTrap
  split
  · split
    · exact ite h.advance h
    · exact h
  · exact h.modGroup.boundary
  · exact h

theorem takeTrap {t : Trap} {team gid : Nat} {work : HeldWork} (h : s.Canonical) : (s.takeTrap t team gid work).Canonical :=
  ite h.takeFault h.takeFault.passTrap

theorem passEffects {c : Issuer} (h : s.Canonical) : (s.passEffects c).Canonical := h.modGroup.advance

theorem passUndecided {c : Issuer} (h : s.Canonical) : (s.passUndecided c).Canonical := h.modGroup.advance

theorem groupRetire {c : Issuer} {f : Group → Group} (h : s.Canonical) : (s.groupRetire c f).Canonical := h.modGroup.advance

theorem alu1 {i : Instr} {rd ra : SReg} {f : Word → Word} (h : s.Canonical) : Keeps (alu1 i rd ra f s) :=
  h.scalarIssue fun _ _ _ hs => hs.writeRetire

theorem alu2 {i : Instr} {rd ra rb : SReg} {f : Word → Word → Word} (h : s.Canonical) : Keeps (alu2 i rd ra rb f s) :=
  h.scalarIssue fun _ _ _ hs => hs.writeRetire

theorem pushOps {ops : List MemOp} (h : s.Canonical) : (s.pushOps ops).1.Canonical :=
  List.foldlRecOn (motive := fun acc : State × List Nat => acc.1.Canonical) _ _ h fun _ hacc _ _ => hacc.same

theorem pushClosing {t : Team} {ops : List MemOp} {r : State × List Nat} (h : s.Canonical) (hr : s.pushClosing t ops = some r) :
    r.1.Canonical := by
  unfold State.pushClosing at hr
  split at hr
  · cases hr
    exact h.pushOps
  · split at hr
    · cases hr
      exact h
    · split at hr
      · cases hr
        exact h.pushOps.modTeam
      · split at hr
        · simp at hr
        · cases hr
          exact h.modTeam.pushOps

/-- The operations that an instruction issues: shared by both copies when it closes an epoch (R358). -/
theorem pushed {t : Team} {ops held : List MemOp} {closing : Bool} {r : State × List Nat} (h : s.Canonical)
    (hr : (if closing then s.pushClosing t ops else some (s.pushOps held)) = some r) : r.1.Canonical := by
  split at hr
  · exact h.pushClosing hr
  · cases hr
    exact h.pushOps

theorem issueScalar {c : Issuer} {ea : DWord} {l : Leaf} {o : MemOp} {dests : List SReg} {closing : Bool} (h : s.Canonical) :
    Keeps (s.issueScalar c ea l o dests closing) := by
  refine .ite h ?_
  split
  · exact h
  next ht => exact (h.pushed ht).usedLeaf.modGroup.advance

theorem refuseScalar {c : Issuer} {f : AccessFault} {ea : DWord} {order : Order} {scope : Scope} (h : s.Canonical) :
    (s.refuseScalar c f ea order scope).Canonical := ite h h.scalarFault

theorem scalarLoad {c : Issuer} {ea : DWord} {n : Nat} {sd : SReg} {order : Order} {scope : Scope} {atomic : Bool} (h : s.Canonical) :
    Keeps (scalarLoad c ea n sd order scope atomic s) := by
  refine .ite ?_ ?_
  · split
    · exact .ite (h.atClose h.issueScalar) h.issueScalar
    · exact h.passUndecided
  · split
    · exact h.refuseScalar
    · exact .ite (h.atClose h.issueScalar) h.issueScalar

theorem scalarStore {c : Issuer} {ea : DWord} {n value : Nat} {order : Order} {scope : Scope} {atomic : Bool} (h : s.Canonical) :
    Keeps (scalarStore c ea n value order scope atomic s) := by
  refine .ite h.passEffects ?_
  split
  · exact h.refuseScalar
  · exact .ite (h.atClose h.issueScalar) h.issueScalar

theorem execSatom {sd sa sb : SReg} {f : SatomFields} (h : s.Canonical) : Keeps (execSatom sd sa sb f s) := by
  unfold Machine.execSatom
  refine h.scalarIssue fun c s _ hs => ?_
  dsimp only
  split
  · exact hs.scalarLoad
  · exact hs.scalarStore
  · refine .ite hs.passEffects ?_
    split
    · exact hs.refuseScalar
    · exact hs.atClose hs.issueScalar

/-! Reads of instructions. -/

theorem readBy {agent : Agent} {uid key : Nat} {issue : Except Halt (MemOp × (State → State))} (h : s.Canonical)
    (hi : Issues issue) : Gives (fun _ => True) Halt.Canonical (s.readBy agent uid key issue) := by
  unfold State.readBy
  split
  · split
    · trivial
    · split
      · trivial
      · split
        · trivial
        · exact h.refetch
  · split
    · exact hi
    · split
      · exact hi _ h.same
      · trivial

theorem splitRead {c : Issuer} {ea : DWord} {n : Nat} {fmtOk : Leaf → Bool} (h : s.Canonical) :
    Gives (fun _ => True) Halt.Canonical (s.splitRead c ea n fmtOk) := by
  refine h.readBy ?_
  split
  · trivial
  · exact .ok fun _ ht => ht.usedLeaf.modGroup

theorem splitReads {c : Issuer} {ea : DWord} {n : Nat} {fmtOk : Leaf → Bool} (h : s.Canonical) :
    Gives (fun _ => True) Halt.Canonical (s.splitReads c ea n fmtOk) := by
  refine List.foldlRecOn _ _ trivial fun acc hacc k _ => ?_
  cases acc with
  | error e => exact hacc
  | ok bs =>
    dsimp only
    split
    next he => exact h.splitRead.error he
    next => trivial

theorem splitHalt {c : Issuer} {bad : State → AccessFault → DWord → State} {x : Halt} (h : s.Canonical) (hx : x.Canonical)
    (hb : ∀ t f a, t.Canonical → (bad t f a).Canonical) : (s.splitHalt c bad x).Canonical := by
  cases x with
  | wait => exact h
  | issued t => exact hx
  | fault f a => exact hb _ _ _ h.same
  | bad key o => exact hb _ _ _ (State.Canonical.same (s := s) h).mismatch

end State.Canonical
end Sys2Proof.Machine

namespace Sys2Proof.Machine
namespace State.Canonical
variable {s : State}

/-! Control registers (R49, R112). -/

theorem execMtcTcfg {sa : SReg} {n : BitVec 4} (h : s.Canonical) : Keeps (execMtcTcfg sa n s) :=
  h.scalarIssue fun _ _ _ hs => .ite hs.scalarFault (.ite hs.passEffects (.ite hs hs.modTeam.advance))

/-- What `mtc` of a descriptor does instead of a load that faults (R217). -/
theorem descriptorFault {c : Issuer} {f : AccessFault} {ea : DWord} (h : s.Canonical) :
    (if c.inPass then s.passUndecided c else s.scalarFault c f ea).Canonical := ite h.passUndecided h.scalarFault

theorem execMtcBd {sa : SReg} {n : BitVec 4} (h : s.Canonical) : Keeps (execMtcBd sa n s) := by
  refine h.scalarIssue fun c s _ hs => .ite hs (.ite hs.descriptorFault ?_)
  split
  next hr => exact hs.splitHalt (hs.splitRead.error hr) fun _ _ _ ht => ht.descriptorFault
  next => exact .ite (groupRetire (s := s.splitTaken c) hs.same) (descriptorFault (s := s.splitTaken c) hs.same)

theorem execMtcQdep {sa : SReg} {n : BitVec 4} (h : s.Canonical) : Keeps (execMtcQdep sa n s) :=
  h.scalarIssue fun _ _ _ hs => .ite hs.scalarFault hs.groupRetire

theorem execMtcG {sa : SReg} {n : BitVec 3} (h : s.Canonical) : Keeps (execMtcG sa n s) :=
  h.scalarIssue fun _ _ _ hs => .ite hs.passEffects hs.modTeam.advance

theorem execMtcFabw {sa : SReg} (h : s.Canonical) : Keeps (execMtcFabw sa s) :=
  h.scalarIssue fun _ _ _ hs => .ite hs.passEffects (advance hs.same)

theorem execFabwApply {asid : Nat} (h : s.Canonical) : Keeps (execFabwApply asid s) := by
  dsimp only [Machine.execFabwApply]
  split
  · exact h
  · exact h.same

theorem readAt {team now gid choice : Nat} (h : s.Canonical) : (s.modTeam team fun t => t.readAt now gid choice).Canonical := h.modTeam

theorem execMfc {sd : SReg} {r : BitVec 12} (h : s.Canonical) : Keeps (execMfc sd r s) := by
  refine h.scalarIssue fun _ _ _ hs => .ite hs.scalarFault (.ite hs.scalarFault ?_)
  dsimp only
  split
  · exact hs.readAt.same.writeRetire
  · exact writeRetire hs.same

theorem execTrap {code : BitVec 16} (h : s.Canonical) : Keeps (execTrap code s) :=
  h.scalarIssue fun _ _ _ hs => .ite hs.passUndecided hs.takeTrap

/-! Passes (R203 to R208). -/

theorem mapStores {asid : Nat} {ptr : DWord} {bs : List Byte} (h : s.Canonical) :
    Gives (fun x => x.1.Canonical) (fun _ => True) (s.mapStores asid ptr bs) := by
  refine List.foldlRecOn _ _ h fun acc hacc p _ => ?_
  cases acc with
  | error e => trivial
  | ok x =>
    dsimp only
    split
    · trivial
    · exact State.Canonical.same (s := x.1) hacc

theorem shareMap {t : Team} (h : s.Canonical) : (s.shareMap t).Canonical := by
  unfold State.shareMap
  split
  · exact h.modTeam
  · exact h

theorem writeMap {team : Nat} (h : s.Canonical) : (s.writeMap team).Canonical := by
  unfold State.writeMap
  split
  · exact h
  · split
    · dsimp only
      split
      · exact h.takeFault
      next t ids hm =>
        have stored : t.Canonical := h.mapStores.ok hm
        refine ite (foldl ?_ fun _ _ _ hs => hs.teamOver) ?_
        all_goals
          split
          · exact stored.modTeam.shareMap
          · exact stored.modTeam
    · exact h

theorem judge {team gid : Nat} (h : s.Canonical) : (s.modTeam team fun t => t.judge gid).Canonical :=
  h.changeTeam fun _ ht => ht.judge

theorem passOver {team gid : Nat} (h : s.Canonical) : (s.passOver team gid).Canonical := by
  dsimp only [State.passOver]
  split
  · exact h.judge.closeGroup
  · split
    · exact ite h.judge.closeGroup (ite h.judge.closeGroup.modTeam h.judge.closeGroup.modTeam.writeMap)
    · exact h.judge.closeGroup

theorem execPassInstructionLimit {team group : Nat} (h : s.Canonical) : Keeps (execPassInstructionLimit team group s) := by
  unfold Machine.execPassInstructionLimit
  split
  · exact h
  · split
    · exact h
    · exact .ite h h.passOver

theorem execPassGroupStart {team : Nat} (h : s.Canonical) : Keeps (execPassGroupStart team s) := by
  unfold Machine.execPassGroupStart
  split
  · exact h
  · split
    · exact .ite h (modTeam h.same)
    · exact h

/-! Branches and clauses (R17 to R23, R105 to R108). -/

theorem predIssue {i : Instr} {reads : List SReg} {p : Nat} {k : Issuer → State → Out State} (h : s.Canonical)
    (hk : ∀ c t, t.Canonical → Keeps (k c t)) : Keeps (predIssue i reads p s k) :=
  h.scalarIssue fun _ _ _ hs => .ite hs.scalarFault (.ite hs (hk _ _ hs))

theorem dropUndecided {c : Issuer} {m : Mask} (h : s.Canonical) : (s.dropUndecided c m).2.Canonical := by
  unfold State.dropUndecided
  split
  · exact h
  · exact h.modGroup

theorem countTaking {c : Issuer} {target : DWord} {em : Mask} (h : s.Canonical) : (s.countTaking c target em).Canonical := ite h h.modGroup

theorem jump {c : Issuer} {target : DWord} (h : s.Canonical) : (s.jump c target).Canonical := h.countTaking.retire

theorem divide {c : Issuer} {taken fall : Mask} {target : DWord} (h : s.Canonical) : (s.divide c taken fall target).Canonical := by
  refine ite h.advance (ite h.jump ?_)
  dsimp only
  split
  · exact h.countTaking.same.modGroup.advance
  · split
    next hf => exact (State.Canonical.modGroup (h.countTaking.same.fitStack.ok hf)).advance
    next => exact h.areaFault

theorem predBranch {i : Instr} {p : BitVec 3} {neg way : Bool} {off : BitVec 21} {taken : Mask → Mask → Bool} (h : s.Canonical) :
    Keeps (predBranch i p neg off way taken s) :=
  h.predIssue fun _ _ hs => .ite hs (.ite hs.dropUndecided.divide (ite hs.jump hs.advance))

theorem execSplit {p : BitVec 3} {neg : Bool} {off : BitVec 21} (h : s.Canonical) : Keeps (execSplit p neg off s) :=
  h.predIssue fun _ _ hs => .ite hs hs.dropUndecided.divide

theorem jumpReg {c : Issuer} {low : Word} (h : s.Canonical) : (jumpReg c low s).Canonical := ite h.retire h.scalarFault

theorem rotate {c : Issuer} {pc : DWord} (h : s.Canonical) : (s.rotate c pc).Canonical := by
  unfold State.rotate
  split
  · exact h.areaFault
  · exact h.retire
  · refine ite h.modGroup.retire ?_
    dsimp only
    split
    next => exact h.areaFault
    next hw => exact (State.Canonical.modGroup (h.deviceWrite.ok hw)).retire

theorem execYield (h : s.Canonical) : Keeps (execYield s) := h.scalarIssue fun _ _ _ hs => .ite hs.advance (.ite hs hs.rotate)

theorem runClause {i : Instr} {reads : List SReg} {p : BitVec 3} {neg : Bool} {addr : Issuer → DWord} (h : s.Canonical) :
    Keeps (runClause i reads p neg addr s) :=
  h.predIssue fun _ _ hs => .ite hs (advance (modGroup hs.dropUndecided).same)

theorem execWaitk {mask : BitVec 12} (h : s.Canonical) : Keeps (execWaitk mask s) :=
  h.scalarIssue fun _ _ _ hs => .ite hs hs.modGroup.advance

/-! Barriers and fences (R284 to R292). -/

theorem barDone {c : Issuer} {o : MemOp} {new : Option BarObj} (h : s.Canonical) : (s.barDone c o new).Canonical := by
  refine modGroup (same (s := match new with
    | some b => s.setScratch c.team.id ((s.scratchOf c.team.id).writeN o.addr b.bytes)
    | none => s) ?_)
  split
  · exact h.setScratch (Memory.wf_writeN _ _ _ (h.scratchOf _))
  · exact h

theorem arrive {c : Issuer} {o : MemOp} {obj : Option Nat} {n : Nat} (h : s.Canonical) : (s.arrive c o obj n).1.Canonical := by
  unfold State.arrive
  split
  · exact h.barDone.changeTeam fun _ ht => ht.same.settleBar
  · dsimp only
    split <;> dsimp only <;> exact h.barDone

theorem arriveOnly {c : Issuer} {sd : SReg} {obj : Option Nat} {o : MemOp} {n : Nat} (h : s.Canonical) :
    Keeps (arriveOnly c sd obj o n s) :=
  .ite h.arrive.modGroup.writeRetire h.arrive.writeRetire

theorem barIssue {i : Instr} {sd sa : SReg} {reads : List SReg} {arriving : Bool} {k : Issuer → Option Nat → MemOp → State → Out State}
    (h : s.Canonical) (hk : ∀ c obj o t, t.Canonical → Keeps (k c obj o t)) : Keeps (barIssue i sd sa reads arriving s k) := by
  have go (c : Issuer) (obj : Option Nat) {t : State} (ht : t.Canonical) : Keeps (barIssue.go arriving k c obj t) :=
    .ite ht (.ite ht (.ite (ht.atClose (hk _ _ _ _ ht)) (hk _ _ _ _ ht)))
  refine h.scalarIssue fun c t _ ht => .ite ht.advance ?_
  split
  · exact .ite ht.scalarFault (.ite ht.scalarFault (go _ _ ht))
  · exact .ite (go _ _ ht) (.ite ht ht.rotate)

theorem barWait {c : Issuer} {w : BarWait} (h : s.Canonical) : (s.barWait c w).Canonical := h.modGroup.modTeam

theorem execBarJoin {sd sa : SReg} (h : s.Canonical) : Keeps (execBarJoin sd sa s) :=
  h.barIssue fun _ _ _ _ hs => .ite hs.arrive.modGroup.writeRetire (.ite hs.arrive.writeRetire (.ite hs.arrive.writeRetire hs.arrive.barWait))

theorem execBarHold {sd sa sb : SReg} (h : s.Canonical) : Keeps (execBarHold sd sa sb s) :=
  h.barIssue fun _ _ _ _ hs => .ite hs.barDone.modGroup.writeRetire (.ite hs.barDone.writeRetire hs.barDone.barWait)

theorem execBarOwe {sd sa sb : SReg} (h : s.Canonical) : Keeps (execBarOwe sd sa sb s) :=
  h.barIssue fun _ _ _ _ hs => .ite hs.barDone.modGroup.writeRetire hs.barDone.writeRetire

theorem execBarrierReturn {r : SplitRef} (h : s.Canonical) : Keeps (execBarrierReturn r s) := by
  unfold Machine.execBarrierReturn
  split
  · exact h
  · split
    · exact h
    · exact .ite h h.modGroup.modGroup.boundary

theorem execFence {lanes : Bool} {kind : BitVec 2} {scope : BitVec 3} (h : s.Canonical) : Keeps (execFence lanes kind scope s) :=
  h.scalarIssue fun _ _ _ hs => .ite hs.advance (.ite hs (hs.atClose (modGroup hs.same).advance))

theorem execQfence {mask : BitVec 8} (h : s.Canonical) : Keeps (execQfence mask s) :=
  h.scalarIssue fun _ _ _ hs => .ite hs.advance (groupRetire hs.same)

end State.Canonical
end Sys2Proof.Machine

namespace Sys2Proof.Machine
namespace State.Canonical
variable {s : State}

/-! The lane path: what every lane instruction shares. -/

theorem laneDone {c : LaneCtx} (h : s.Canonical) : (s.laneDone c).Canonical := ite h.modGroup.modTeam.boundary h.modGroup.modTeam

theorem laneFault {c : LaneCtx} {f : AccessFault} {addr : DWord} {lane : Option Nat} (h : s.Canonical) :
    (s.laneFault c f addr lane).Canonical := h.takeFault

/-- Lanes that leave a pass, if there are any (R217). -/
theorem modGroupUnless {p : Prop} [Decidable p] {team gid : Nat} {f : Group → Group} (h : s.Canonical) :
    (if p then s else s.modGroup team gid f).Canonical := ite h h.modGroup

theorem laneIssue {hd : LaneHead} {k : LaneCtx → State → Out State} (h : s.Canonical) (hk : ∀ c t, t.Canonical → Keeps (k c t)) :
    Keeps (laneIssue hd s k) := by
  unfold Machine.laneIssue
  split
  · trivial
  · split
    · trivial
    · exact .ite h (h.atDue (.ite h.modGroupUnless.laneDone (hk _ _ h.modGroupUnless)))

theorem withQueues {c : LaneCtx} {pops : List Nat} {push : Option Nat} {k : State → Out State} (h : s.Canonical) (hk : Keeps (k s)) :
    Keeps (withQueues c s pops push k) := by
  unfold Machine.withQueues
  split
  · exact h.laneFault
  · exact h.modGroup
  · exact h
  · exact hk

theorem later {c : LaneCtx} {fs : Bool} {effects : List LateEffect} (h : s.Canonical) : (s.later c fs effects).Canonical :=
  h.foldl fun _ _ _ hs => modGroup hs.same

theorem putGeneral {c : LaneCtx} {hd : LaneHead} {n : Nat} {D : LMap} {f : Fin 32 → Nat} (h : s.Canonical) :
    (s.putGeneral c hd n D f).Canonical :=
  ite h.modGroup.same (ite h.modGroup.same h.later)

theorem putBounds {c : LaneCtx} {hd : LaneHead} {n : Nat} {D : LMap} {f : Fin 32 → Bounds} {tag : Fin 32 → LType} (h : s.Canonical) :
    (s.putBounds c hd n D f tag).Canonical :=
  ite h.modGroup.same (ite h.later h.modGroup)

theorem laneElements {i : Instr} {hd : LaneHead} {o : LaneOp} {c : LaneCtx} (h : s.Canonical) : Keeps (laneElements i hd o c s) := by
  unfold Machine.laneElements
  exact h.withQueues h.modGroup.putGeneral.laneDone

theorem laneBounds {i : Instr} {hd : LaneHead} {o : LaneOp} {c : LaneCtx} (h : s.Canonical) : Keeps (laneBounds i hd o c s) :=
  h.putBounds.laneDone

theorem laneCompute {i : Instr} {hd : LaneHead} {o : LaneOp} (h : s.Canonical) : Keeps (laneCompute i hd o s) :=
  h.laneIssue fun _ _ hs => .ite hs.laneBounds hs.laneElements

theorem lanePredElements {i : Instr} {hd : LaneHead} {f : LaneCtx → Args → Fin 32 → Bool} {c : LaneCtx} (h : s.Canonical) :
    Keeps (lanePredElements i hd f c s) := by
  unfold Machine.lanePredElements
  exact h.withQueues h.modGroup.laneDone

theorem lanePredBounds {hd : LaneHead} {f : Fin 32 → Tri} {c : LaneCtx} (h : s.Canonical) : Keeps (lanePredBounds hd f c s) :=
  h.modGroup.laneDone

theorem laneValue {i : Instr} {hd : LaneHead} {f : Fin 32 → Nat} {c : LaneCtx} (h : s.Canonical) : Keeps (laneValue i hd f c s) := by
  unfold Machine.laneValue
  exact h.withQueues h.putGeneral.laneDone

/-! Instructions of the lane path. -/

theorem execMov {f : LA} (h : s.Canonical) : Keeps (execMov f s) := by
  unfold Machine.execMov
  exact h.laneIssue fun _ _ hs => .ite (laneDone hs.modGroup.same) (.ite hs.laneBounds hs.laneElements)

theorem execUnpk {f : LA} (h : s.Canonical) : Keeps (execUnpk f s) := by
  unfold Machine.execUnpk
  exact h.laneIssue fun _ _ hs => .ite hs.laneElements (.ite hs.laneBounds hs.putBounds.laneDone)

theorem execIcmp {f : LA} (h : s.Canonical) : Keeps (execIcmp f s) := by
  unfold Machine.execIcmp
  exact h.laneIssue fun _ _ hs => .ite hs.lanePredBounds hs.lanePredElements

theorem execFcmp {f : LA} (h : s.Canonical) : Keeps (execFcmp f s) := by
  unfold Machine.execFcmp
  exact h.laneIssue fun _ _ hs => .ite hs.lanePredBounds hs.lanePredElements

theorem execSel {f : LA} (h : s.Canonical) : Keeps (execSel f s) := by
  unfold Machine.execSel
  exact h.laneIssue fun _ _ hs => .ite hs.laneElements (.ite hs.putBounds.laneDone (modGroup hs.same).laneDone)

theorem execPset {f : LA} (h : s.Canonical) : Keeps (execPset f s) := by
  unfold Machine.execPset
  exact h.laneIssue fun _ _ hs => .ite hs.lanePredBounds hs.modGroup.laneDone

theorem execPmov {f : LA} (h : s.Canonical) : Keeps (execPmov f s) :=
  h.laneIssue fun _ _ hs => .ite (.ite hs.putBounds.laneDone hs.laneValue) (.ite hs.lanePredBounds hs.lanePredElements)

theorem execVote {f : LA} (h : s.Canonical) : Keeps (execVote f s) :=
  h.laneIssue fun _ _ hs => .ite (.ite hs.putBounds.laneDone hs.laneValue) (.ite hs.lanePredBounds hs.modGroup.laneDone)

theorem mapEditElements {i : Instr} {f : LA} {wide : Bool} {n : Nat} {sel : LaneCtx → (Fin 32 → Nat) → Fin 32 → Fin 32} {c : LaneCtx}
    (h : s.Canonical) : Keeps (mapEditElements i f wide n sel c s) := by
  unfold Machine.mapEditElements
  refine h.withQueues (laneDone (same (s := if wide then _ else _) (ite h.modGroup.modGroup (ite h.modGroup.modGroup ?_))))
  split
  · exact h.modGroup.putGeneral
  · exact h.modGroup

theorem mapEditBounds {f : LA} {wide : Bool} {n : Nat} {und : LaneCtx → Mask} {sel : LaneCtx → (Fin 32 → Nat) → Fin 32 → Fin 32}
    {c : LaneCtx} (h : s.Canonical) : Keeps (mapEditBounds f wide n und sel c s) := by
  unfold Machine.mapEditBounds
  exact .ite h.modGroupUnless.laneDone (laneDone (same (s := if wide then _ else if _ then _ else _)
    (ite h.modGroupUnless.modGroup (ite h.modGroupUnless.modGroup h.modGroupUnless.putBounds))))

theorem mapEdit {i : Instr} {f : LA} {wide : Bool} {und : LaneCtx → Mask} {sel : LaneCtx → (Fin 32 → Nat) → Fin 32 → Fin 32}
    (h : s.Canonical) : Keeps (mapEdit i f wide und sel s) := by
  unfold Machine.mapEdit
  exact h.laneIssue fun _ _ hs => .ite hs.mapEditBounds hs.mapEditElements

theorem execMapget {f : LA} (h : s.Canonical) : Keeps (execMapget f s) :=
  h.laneIssue fun _ _ hs => .ite (putBounds hs.same).laneDone (laneValue hs.same)

theorem execMat {f : LA} (h : s.Canonical) : Keeps (execMat f s) := by
  unfold Machine.execMat
  exact h.laneIssue fun _ _ hs => .ite (modGroup hs.same).laneDone
    (.ite (.ite (modGroup hs.same).laneDone hs.putBounds.laneDone) (hs.withQueues hs.modGroup.putGeneral.laneDone))

theorem moveQuad {f : LA} {src : Nat → Fin 32 → Nat × Fin 32} (h : s.Canonical) : Keeps (moveQuad f src s) := by
  unfold Machine.moveQuad
  exact h.laneIssue fun _ _ hs => (modGroup hs.same).laneDone

theorem laterWide {c : LaneCtx} {hd : LaneHead} {d : Nat} {map : WReg → WReg} {lanes : WReg → List (Fin 32 × WLane)} (h : s.Canonical) :
    (s.laterWide c hd d map lanes).Canonical := h.modGroup.later

theorem execScan {f : LA} (h : s.Canonical) : Keeps (execScan f s) := by
  unfold Machine.execScan
  exact h.laneIssue fun _ _ hs => .ite hs.laneDone (hs.withQueues hs.modGroup.laterWide.laneDone)

theorem execDacc {f : LA} (h : s.Canonical) : Keeps (execDacc f s) :=
  h.laneIssue fun _ _ hs => .ite hs.laneDone (laterWide hs.same).laneDone

theorem execWrnd {f : LA} (h : s.Canonical) : Keeps (execWrnd f s) := by
  unfold Machine.execWrnd
  exact h.laneIssue fun _ _ hs => .ite hs.putBounds.laneDone (hs.withQueues hs.modGroup.putGeneral.laneDone)

theorem wideWrite {f : LA} {i : Instr} {maps : LaneCtx → Sources → List (Option LMap)} {v : LaneCtx → Sources → Fin 32 → WLane}
    (h : s.Canonical) : Keeps (wideWrite f i maps v s) :=
  h.laneIssue fun _ _ hs => .ite hs.laneDone (hs.withQueues (modGroup hs.same).laneDone)

theorem execWmov {f : LA} (h : s.Canonical) : Keeps (execWmov f s) := by
  unfold Machine.execWmov
  exact .ite h.wideWrite (.ite
    (h.laneIssue fun _ _ hs => .ite hs.putBounds.laneDone (hs.withQueues hs.putGeneral.laneDone)) h.wideWrite)

theorem execIvtest {f : LA} (h : s.Canonical) : Keeps (execIvtest f s) := by
  unfold Machine.execIvtest
  exact h.laneIssue fun _ _ hs => .ite hs.lanePredBounds hs.lanePredElements

theorem ivExtreme {i : Instr} {f : LA} {high : Bool} (h : s.Canonical) : Keeps (ivExtreme i f high s) := by
  unfold Machine.ivExtreme
  exact h.laneIssue fun _ _ hs => .ite hs.putBounds.laneDone (hs.withQueues (laneDone (ite (modGroup hs.same) hs.putGeneral)))

theorem execNopl {f : LA} (h : s.Canonical) : Keeps (execNopl f s) := h.laneIssue fun _ _ hs => hs.laneDone

theorem execLtrap {f : LA} (h : s.Canonical) : Keeps (execLtrap f s) :=
  h.laneIssue fun _ _ hs => .ite hs.modGroup.laneDone hs.takeTrap

theorem execLclk {f : LA} (h : s.Canonical) : Keeps (execLclk f s) :=
  h.laneIssue fun _ _ hs => .ite hs.putBounds.laneDone (.ite (hs.withQueues hs.modGroup.putGeneral.laneDone) hs.laneValue)

/-! Memory instructions of the lane path (R267 to R281). -/

theorem refuseLane {c : LaneCtx} {f : LM} {e : AccessFault} {a : DWord} {i : Fin 32} (h : s.Canonical) :
    (s.refuseLane c f e a i).Canonical := ite h h.laneFault

theorem keptLeaves {c : LaneCtx} {as : List LaneAccess} (h : s.Canonical) : (s.keptLeaves c as).Canonical := by
  refine same (s := as.foldl (fun s a => match a.target with | .page l => s.keepLeaf c.core c.asid a.ptr l | _ => s) s) (h.foldl fun s a _ hs => ?_)
  split
  · exact hs.same
  · exact hs

theorem issueLane {c : LaneCtx} {held : Nat} {ops : List MemOp} {as : List LaneAccess} {closing shared : Bool} {k : State → State}
    (h : s.Canonical) (hk : ∀ t : State, t.Canonical → (k t).Canonical) : Keeps (s.issueLane c held ops as closing shared k) := by
  have go : Keeps (if !s.canIssue ops then .next s
    else
      let s' : State := { s with fresh := s.fresh + held }
      match (if shared then s'.pushClosing c.team ops else some (s'.pushOps (s'.holdOps c.team ops))) with
      | none => .next s
      | some (s, _) =>
        let s := s.keptLeaves c as
        let s := s.modGroup c.team.id c.group.gid fun g =>
          ops.foldl (fun g o => match o.flag with | some f => g.tagFlag f | none => g) g
        .next ((k s).laneDone c)) := by
    refine .ite h ?_
    dsimp only
    split
    · exact h
    next ht => exact (hk _ (State.Canonical.pushed (s := { s with fresh := s.fresh + held }) h.same ht).keptLeaves.modGroup).laneDone
  exact .ite (h.atClose go) go

theorem memQueues {i : Instr} {f : LM} {nb : Bool} {c : LaneCtx} {k : State → Out State} (h : s.Canonical) (hk : Keeps (k s)) :
    Keeps (memQueues i f nb c s k) := by
  unfold Machine.memQueues
  exact .ite h.modGroup.laneDone (h.withQueues hk)

theorem reserve {c : LaneCtx} {hd : LaneHead} {n eid : Nat} {D : LMap} {as : List LaneAccess} {waiting : Nat} (h : s.Canonical) :
    (s.reserve c hd n eid D as waiting).Canonical := ite h.modGroup (ite h.modGroup (ite h.later h))

theorem memResult {i : Instr} {f : LM} {n w : Nat} {T : LMap} {as : List LaneAccess} {closing shared nb : Bool}
    {op : Nat → LaneAccess → MemOp} {c : LaneCtx} (h : s.Canonical) : Keeps (memResult i f n w T as closing shared nb op c s) := by
  unfold Machine.memResult
  exact h.issueLane fun _ ht => ht.modGroup.reserve

theorem withoutLanes {c : LaneCtx} {gone : Mask} (h : s.Canonical) : (s.withoutLanes c gone).2.Canonical := by
  unfold State.withoutLanes
  split
  · exact h
  · exact h.modGroup

theorem loadBounds {f : LM} {m : MemForm} {n w : Nat} {sx nb : Bool} {op : State → LaneAccess → MemOp} {c : LaneCtx} (h : s.Canonical) :
    Keeps (loadBounds f m n w sx nb op c s) := by
  unfold Machine.loadBounds
  exact .ite h.modGroup.withoutLanes.laneDone (.ite
    (.ite h.modGroup (h.modGroup.withoutLanes.issueLane fun _ ht => ht.modGroup))
    (.ite h.modGroup (h.modGroup.withoutLanes.issueLane fun _ ht => ht.modGroup.putBounds)))

theorem storeBounds {f : LM} {m : MemForm} {nb : Bool} {result : Option Nat} {i : Instr} {c : LaneCtx} (h : s.Canonical) :
    Keeps (storeBounds f m nb result i c s) := by
  unfold Machine.storeBounds
  refine .ite h.modGroup.withoutLanes.modGroup.laneDone ?_
  split
  · exact h.modGroup.withoutLanes.modGroup.laneDone
  · exact h.modGroup.withoutLanes.modGroup.putBounds.laneDone

theorem laneLoad {i : Instr} {f : LM} {reach : Reach} {well : Bool} (h : s.Canonical) : Keeps (laneLoad i f reach well s) := by
  unfold Machine.laneLoad
  refine h.laneIssue fun c s hs => .ite hs.loadBounds (hs.memQueues ?_)
  dsimp only
  split
  · exact hs.refuseLane
  · exact hs.memResult

theorem laneStore {i : Instr} {f : LM} {reach : Reach} {well : Bool} (h : s.Canonical) : Keeps (laneStore i f reach well s) := by
  unfold Machine.laneStore
  refine h.laneIssue fun c s hs => .ite hs.storeBounds (hs.memQueues ?_)
  dsimp only
  split
  · exact hs.refuseLane
  · exact hs.issueLane fun _ ht => ht.modGroup

theorem laneAtomic {i : Instr} {f : LM} {reach : Reach} {well : Bool} (h : s.Canonical) : Keeps (laneAtomic i f reach well s) := by
  unfold Machine.laneAtomic
  refine h.laneIssue fun c s hs => .ite hs.storeBounds (hs.memQueues ?_)
  dsimp only
  split
  · exact hs.refuseLane
  · split
    · exact hs.issueLane fun _ ht => ht.modGroup
    · exact hs.issueLane fun _ ht => ht.modGroup
    · exact hs.memResult

theorem execTagld {f : LM} (h : s.Canonical) : Keeps (execTagld f s) := by
  unfold Machine.execTagld
  refine h.laneIssue fun c s hs => .ite hs.loadBounds (hs.memQueues ?_)
  dsimp only
  split
  · exact hs.laneFault
  · exact hs.memResult

theorem execTagst {f : LM} (h : s.Canonical) : Keeps (execTagst f s) := by
  unfold Machine.execTagst
  refine h.laneIssue fun c s hs => .ite hs.storeBounds (hs.memQueues ?_)
  dsimp only
  split
  · exact hs.laneFault
  · exact hs.issueLane fun _ ht => ht.modGroup

theorem execConf {f : LM} (h : s.Canonical) : Keeps (execConf f s) :=
  h.laneIssue fun _ _ hs => .ite hs.lanePredBounds hs.lanePredElements

theorem execPref {f : LM} (h : s.Canonical) : Keeps (execPref f s) := by
  unfold Machine.execPref
  exact h.laneIssue fun _ _ hs => .ite hs.laneDone hs.keptLeaves.laneDone

theorem execQcnt {f : LM} (h : s.Canonical) : Keeps (execQcnt f s) :=
  h.laneIssue fun _ _ hs => .ite hs.laneFault hs.laneValue

theorem execLdt {f : LM} (h : s.Canonical) : Keeps (execLdt f s) := by
  refine h.laneIssue fun c s hs => .ite hs.putBounds.laneDone (hs.memQueues ?_)
  dsimp only
  split
  · exact hs.laneFault
  · exact hs.issueLane fun _ ht => ite ht.modGroup.modGroup (ite ht.modGroup.modGroup ht.modGroup)

end State.Canonical
end Sys2Proof.Machine

namespace Sys2Proof.Machine
namespace State.Canonical
variable {s : State}

/-! Engine commands (R291 to R294). -/

theorem cmdWrite {o : MemOp} {data : List (Byte × Byte)} (h : s.Canonical) :
    Gives State.Canonical Halt.Canonical (s.cmdWrite o data) := .ite trivial (h.same : State.Canonical _)

theorem cmdWrites {a : Active} {os : List MemOp} (h : s.Canonical) : Gives State.Canonical Halt.Canonical (s.cmdWrites a os) := by
  unfold State.cmdWrites
  split
  · exact h
  next o _ => exact .ite trivial (State.Canonical.foldl h fun _ _ _ hs => hs.same)

theorem cmdCheck (s : State) {a : Active} {ptr : DWord} {n : Nat} {k : Access} {fmtOk : Leaf → Bool} :
    Gives (fun _ => True) Halt.Canonical (s.cmdCheck a ptr n k fmtOk) := by
  unfold State.cmdCheck
  split <;> trivial

theorem cmdRead {a : Active} {key : Nat} {issue : Except Halt (MemOp × (State → State))} (h : s.Canonical)
    (hi : Issues issue) : Gives (fun _ => True) Halt.Canonical (s.cmdRead a key issue) := h.readBy hi

theorem cmdLoad {a : Active} {ptr : DWord} {n : Nat} {order : Order} {fmtOk : Leaf → Bool} (h : s.Canonical) :
    Gives (fun _ => True) Halt.Canonical (s.cmdLoad a ptr n order fmtOk) := by
  refine h.cmdRead ?_
  split
  next he => exact (cmdCheck s).error he
  next => exact .ok fun _ ht => ht.usedLeaf

theorem cmdFetch {a : Active} {ptr : DWord} {n : Nat} {fmtOk : Leaf → Bool} (h : s.Canonical) :
    Gives (fun _ => True) Halt.Canonical (s.cmdFetch a ptr n fmtOk) := by
  refine List.foldlRecOn _ _ trivial fun acc hacc q _ => ?_
  cases acc with
  | error e => exact hacc
  | ok bs =>
    dsimp only
    split
    next he => exact h.cmdLoad.error he
    next => trivial

theorem abortCmd {c : Cmd} {cause : Cause} (h : s.Canonical) : (s.abortCmd c cause).Canonical := h.notify.endCmd.contain

theorem cmdFault {a : Active} {f : AccessFault} {addr : DWord} {src : Nat} (h : s.Canonical) : (s.cmdFault a f addr src).Canonical :=
  ite h.takeFault h.record.abortCmd

theorem cmdHalt {a : Active} {src : Nat} {x : Halt} (h : s.Canonical) (hx : x.Canonical) : (s.cmdHalt a src x).Canonical := by
  unfold State.cmdHalt
  cases x with
  | wait => exact h
  | issued t => exact hx
  | fault f addr => exact h.cmdFault
  | bad key o => exact h.mismatch.cmdFault

theorem enterCommand {c : Issuer} {i : Instr} {tok : SReg} {q : Nat} {kind : CmdKind} {t : State} (h : s.Canonical)
    (ht : s.enterCommand c i tok q kind = some t) : t.Canonical := by
  unfold State.enterCommand at ht
  dsimp only at ht
  split at ht
  · cases ht
    exact modGroup h.same
  · split at ht
    · cases ht
      exact (modGroup h.same).modTeam
    · split at ht
      · simp at ht
      · cases ht
        exact (modGroup h.same).modTeam.finishCmd

/-- A command enters and its instruction retires, or the instruction waits (R358). -/
theorem enter {c : Issuer} {i : Instr} {tok : SReg} {q : Nat} {kind : CmdKind} (h : s.Canonical) :
    Keeps (match s.enterCommand c i tok q kind with
      | none => .next s
      | some s => .next (s.advance c)) := by
  split
  next => exact h
  next ht => exact (h.enterCommand ht).advance

/-! Copies (R293 to R307). -/

theorem issueCopy {c : Issuer} {i : Instr} {sd : SReg} {q : BitVec 3} {k : CopyState} (h : s.Canonical) :
    Keeps (s.issueCopy c i sd q k) := .ite h (h.atClose h.enter)

theorem copyIssue {i : Instr} {sd sa sb : SReg} {bar : Bool} {k : Issuer → CopyState → State → Out State} (h : s.Canonical)
    (hk : ∀ c x t, t.Canonical → Keeps (k c x t)) : Keeps (copyIssue i sd sa sb bar s k) :=
  h.commandIssue fun _ _ _ hs => .ite hs.passEffects (.ite hs.scalarFault (.ite hs.scalarFault (.ite hs.scalarFault (hk _ _ _ hs))))

theorem execCpys {sd sa sb : SReg} {bar : Bool} {q : BitVec 3} (h : s.Canonical) : Keeps (execCpys sd sa sb bar q s) := by
  refine h.copyIssue fun c k s hs => .ite hs (hs.atClose ?_)
  split
  next hr => exact hs.splitHalt (hs.splitReads.error hr) fun _ _ _ ht => ht.scalarFault
  next =>
    have taken : (s.splitTaken c).Canonical := hs.same
    refine .ite taken.scalarFault ?_
    split
    next => exact hs
    next ht => exact (taken.enterCommand ht).advance

theorem execCopyStart {cmd : Nat} (h : s.Canonical) : Keeps (execCopyStart cmd s) := by
  unfold Machine.execCopyStart
  split
  · exact h
  · split
    · split
      · exact .ite h.endCmd h
      · split
        next hr => exact h.cmdHalt (h.cmdFetch.error hr)
        next =>
          split
          · exact h.same
          · exact .ite h.endCmd (.ite (endCmd h.same) h.same)
    · exact h

theorem writeTile {team n a : Nat} {data : List (Byte × Byte)} (h : s.Canonical) :
    (s.modTeam team fun t => t.writeTile n a data).Canonical :=
  h.changeTeam fun t ht => ⟨ht.scratch, t.writeTile_wf n a data ht.tiles⟩

theorem writeUnit {a : Active} {p : Shape} {secs : List Nat} {fills : List (Nat × Fill)} {value : Fill → Byte}
    {stored : Nat → Nat → Nat → Byte} (h : s.Canonical) :
    Gives State.Canonical Halt.Canonical (s.writeUnit a p secs fills value stored) := by
  dsimp only [State.writeUnit]
  split
  · split
    · trivial
    · exact .ite (.ite trivial h.usedLeaf.cmdWrite) h.usedLeaf.cmdWrites
  · exact .ite trivial h.cmdWrite
  · exact h.writeTile
  · split
    next he => exact h.cmdWrite.error he
    next hw => exact State.Canonical.same (h.cmdWrite.ok hw)

theorem readSector {a : Active} {p : Shape} {sec first : Nat} {sparse : Bool} (h : s.Canonical) :
    Gives (fun _ => True) Halt.Canonical (s.readSector a p sec first sparse) := by
  unfold State.readSector
  split
  · refine .ite ?_ ((h.cmdRead ?_).map fun _ _ => trivial)
    · split
      next he =>
        refine (h.cmdRead ?_).error he
        dsimp only
        split
        · exact trivial
        · exact .ok fun _ ht => ht.usedLeaf
      next => split <;> trivial
    · dsimp only
      split
      · exact trivial
      · exact .ok fun _ ht => ht.usedLeaf
  · exact .ite trivial ((h.cmdRead (.ok fun _ ht => ht)).map fun _ _ => trivial)
  · exact .ite trivial trivial
  · trivial

theorem readSectors {a : Active} {p : Shape} {bytes : List (Nat × Bool)} (h : s.Canonical) :
    Gives (fun _ => True) Halt.Canonical (s.readSectors a p bytes) := by
  refine List.foldlRecOn _ _ trivial fun acc hacc k _ => ?_
  cases acc with
  | error e => exact hacc
  | ok m => exact .ite trivial (h.readSector.map fun _ _ => trivial)

theorem readShifts {a : Active} {p : Shape} {blocks : List (Nat × Nat × Nat)} (h : s.Canonical) :
    Gives (fun _ => True) Halt.Canonical (s.readShifts a p blocks) := by
  refine .ite trivial (List.foldlRecOn _ _ trivial fun acc hacc b _ => ?_)
  cases acc with
  | error e => exact hacc
  | ok m =>
    dsimp only
    split
    next he => exact (cmdCheck s).error he
    next => exact (h.cmdRead (.ok fun _ ht => ht.usedLeaf)).map fun _ _ => trivial

theorem pump {a : Active} {k : CopyState} {p : Shape} {remote : RemoteInput} (h : s.Canonical) :
    Gives State.Canonical Halt.Canonical (s.pump a k p remote) := by
  unfold State.pump
  refine .ite (.ite (h.writeUnit.map fun _ ht => ht.same) ?_) ?_
  · split
    · exact .value h.same
    · exact .ite (.value h.same) trivial
    · exact .ite (h.writeUnit.map fun _ ht => ht.same) trivial
    · trivial
  · split
    next he => exact h.readSectors.error he
    next =>
      split
      next he => exact h.readShifts.error he
      next => exact h.writeUnit.map fun _ ht => ht.same

theorem remoteDone {cmd cause : Nat} (h : s.Canonical) : (s.remoteDone cmd cause).Canonical := by
  unfold State.remoteDone
  have homed {l : List MemOp} {f : MemOp → MemOp} : (l.foldl (fun s o => s.setOp (f o)) s).Canonical := h.foldl fun _ _ _ hs => hs.same
  dsimp only
  split
  · exact ite homed.abortCmd homed.finishCmd
  · exact homed.finishCmd

theorem execPumpSector {cmd : Nat} {remote : RemoteInput} (h : s.Canonical) : Keeps (execPumpSector cmd remote s) := by
  unfold Machine.execPumpSector
  split
  · exact h.remoteDone
  · split
    · exact h
    · split
      · split
        · exact h
        · refine .ite h (.ite h.endCmd (.ite h (.ite h ?_)))
          split
          next hr => exact h.cmdHalt (h.pump.error hr)
          next hr =>
            split
            · exact .ite (h.pump.ok hr).endCmd (h.pump.ok hr)
            · exact h.pump.ok hr
      · exact h

/-! Collectives (R362 to R375). -/

theorem execSiph {sd sa : SReg} {q : BitVec 3} (h : s.Canonical) : Keeps (execSiph sd sa q s) :=
  h.commandIssue fun _ _ _ hs => .ite hs.passEffects (.ite hs.scalarFault (.ite hs (hs.atClose hs.enter)))

theorem learnLosses (h : s.Canonical) : s.learnLosses.Canonical := h.foldl fun _ _ _ hs => hs.same

theorem cmdPut {a : Active} {ptr : DWord} {bs : List Byte} {put : Nat} {fmtOk : Leaf → Bool} (h : s.Canonical) :
    Gives (fun r => ∀ t, r = some t → t.Canonical) Halt.Canonical (s.cmdPut a ptr bs put fmtOk) := by
  unfold State.cmdPut
  split
  · exact nofun
  · dsimp only
    split
    next he => exact (cmdCheck s).error he
    next =>
      refine h.cmdWrite.map fun t ht u hu => ?_
      cases hu
      exact ht.usedLeaf

/-- A sector of a command's bytes is written, or, once all are, something follows. -/
theorem cmdPutThen {a : Active} {ptr : DWord} {bs : List Byte} {put : Nat} {fmtOk : Leaf → Bool} {f : State → State} {t : State}
    (h : s.Canonical) (hf : ∀ u : State, u.Canonical → (f u).Canonical) (ht : t.Canonical) :
    Gives State.Canonical Halt.Canonical ((s.cmdPut a ptr bs put fmtOk).map fun r => match r with | some s => f s | none => t) := by
  refine h.cmdPut.map fun r hr => ?_
  cases r with
  | none => exact ht
  | some u => exact hf u (hr u rfl)

theorem sendStep {a : Active} {st : CollState} (h : s.Canonical) : Gives State.Canonical Halt.Canonical (s.sendStep a st) :=
  .ite trivial (h.cmdFetch.map fun _ _ => h.same)

theorem receiveStep {a : Active} {st : CollState} {m : ChunkMsg} (h : s.Canonical) :
    Gives State.Canonical Halt.Canonical (s.receiveStep a st m) := by
  refine .ite (h.cmdPutThen (fun _ hu => hu.same) h.same) ?_
  split
  next he => exact h.cmdFetch.error he
  next => exact h.cmdPutThen (fun _ hu => hu.same) h.same

theorem finishColl {a : Active} {st : CollState} (h : s.Canonical) : Gives State.Canonical Halt.Canonical (s.finishColl a st) :=
  h.cmdPutThen (fun _ hu => hu.same) (endCmd h.same)

theorem gateStep {a : Active} {st : CollState} (h : s.Canonical) : Gives State.Canonical Halt.Canonical (s.gateStep a st) :=
  .ite (.value h.same) (h.cmdLoad.map fun _ _ => ite h.same h.same)

theorem collStep {a : Active} {st : CollState} (h : s.Canonical) : Gives State.Canonical Halt.Canonical (s.collStep a st) := by
  dsimp only [State.collStep]
  split
  · exact .value h.same
  · refine .ite ?_ (.ite h.finishColl (.ite h.gateStep (.ite h.finishColl (.ite h.sendStep trivial))))
    split
    · exact h.receiveStep
    · exact trivial

theorem collGo {id : Nat} (h : s.Canonical) : (s.collGo id).Canonical := by
  unfold State.collGo
  split
  · exact h
  · split
    · split
      next hr => exact h.collStep.ok hr
      next hr => exact h.cmdHalt (h.collStep.error hr)
    · exact h

theorem execCollectiveStart {cmd : Nat} (h : s.Canonical) : Keeps (execCollectiveStart cmd s) := by
  unfold Machine.execCollectiveStart
  split
  · exact h
  · split
    · split
      next hr => exact h.cmdHalt (h.cmdFetch.error hr)
      next =>
        split
        · exact h.same
        · refine .ite h.endCmd (.ite h ?_)
          split
          next hr => exact h.cmdHalt (h.cmdFetch.error hr)
          next => exact .ite h.endCmd h.same
    · exact h

theorem execSiphonChunk {msg : ChunkMsg} (h : s.Canonical) : Keeps (execSiphonChunk msg s) := .ite h h.same

theorem execSiphonFaultNotice {at_ : SiphonAt} {buf : DWord} {node : Nat} (h : s.Canonical) : Keeps (execSiphonFaultNotice at_ buf node s) :=
  learnLosses h.same

theorem execSiphonMemberDeadline {cmd node : Nat} (h : s.Canonical) : Keeps (execSiphonMemberDeadline cmd node s) := by
  unfold Machine.execSiphonMemberDeadline
  split
  · exact h
  · split
    · exact .ite h h.same
    · exact h

end State.Canonical
end Sys2Proof.Machine

namespace Sys2Proof.Machine

/-! The matrix loops (R176 to R188), the end of a group, and launches (R319 to R333). -/

theorem Team.Canonical.tile {t : Team} (h : t.Canonical) (n : Nat) : ((t.tiles[n]?).getD []).wf = true := by
  cases ht : t.tiles[n]? with
  | none => rfl
  | some m => exact List.all_eq_true.mp h.tiles m (List.mem_of_getElem? ht)

theorem Team.Canonical.loop {c : Issuer} {id : Nat} {sd sa : SReg} {base : DWord} {mode : Nat} {z : Bool} {tc ta : Nat}
    (h : c.team.Canonical) : (c.loop id sd sa base mode z tc ta).Canonical := by
  refine List.all_eq_true.mpr fun m hm => ?_
  obtain ⟨n, -, rfl⟩ := List.mem_map.mp hm
  exact h.tile n

theorem Team.Canonical.afterStep {t : Team} {l : Loop} {a b : Block} (h : t.Canonical) : (t.afterStep l a b).Canonical :=
  ⟨h.scratch, t.afterStep_wf l a b h.tiles⟩

namespace State.Canonical
variable {s : State}

/-! Matrix loops (R175 to R188). -/

theorem mapLoops {f : Loop → Loop} (h : s.Canonical) (hf : ∀ l : Loop, l.Canonical → (f l).Canonical) :
    ({ s with loops := s.loops.map f } : State).Canonical :=
  { h with loops := List.forall_mem_map.mpr fun l hl => hf l (h.loops l hl) }

theorem addLoop {l : Loop} (h : s.Canonical) (hl : l.Canonical) : ({ s with loops := s.loops ++ [l] } : State).Canonical :=
  { h with loops := List.forall_mem_append.mpr ⟨h.loops, List.forall_mem_singleton.mpr hl⟩ }

theorem startLoop {c : Issuer} {i : Instr} {sd : SReg} {l : Loop} {t : State} (h : s.Canonical) (hl : l.Canonical)
    (ht : s.startLoop c i sd l = some t) : t.Canonical := by
  have started : ({ s with loops := s.loops ++ [{ l with id := s.fresh, served := s.fresh }] } : State).Canonical := h.addLoop hl
  unfold State.startLoop at ht
  dsimp only at ht
  split at ht
  · cases ht
    exact modGroup started.same
  · split at ht
    · cases ht
      exact (modGroup started.same).modTeam
    · exact h.enterCommand ht

theorem loopIssue {i : Instr} {sd sa : SReg} {more : List SReg} {mode : Nat} {z : Bool} {tc ta : BitVec 4} {base : Issuer → DWord}
    (h : s.Canonical) : Keeps (loopIssue i sd sa more mode z tc ta base s) := by
  refine h.commandIssue fun c s hc hs => .ite hs.scalarFault (.ite hs.passEffects (.ite hs.scalarFault (.ite hs.scalarFault
    (.ite hs.scalarFault (.ite hs.scalarFault (.ite hs.scalarFault (.ite hs.scalarFault (.ite hs (hs.atClose (.ite hs.writeRetire ?_))))))))))
  split
  next => exact hs
  next ht => exact (hs.startLoop hc.loop ht).advance

theorem rollback {team : Nat} {l : Loop} (h : s.Canonical) (hl : l.Canonical) : (s.modTeam team l.rollback).Canonical :=
  h.changeTeam fun _ ht => ht.rollback hl

theorem loopFault {l : Loop} {t : Team} {g : Group} {f : AccessFault} {addr : DWord} (h : s.Canonical) (hl : l.Canonical) :
    (s.loopFault l t g f addr).Canonical := by
  unfold State.loopFault
  exact takeFault (mapLoops (h.rollback hl).same fun l hl => by split <;> exact hl)

theorem endLoop {l : Loop} {t : Team} (h : s.Canonical) : (s.endLoop l t).Canonical := by
  have ended : ({ s with loops := s.loops.filter fun x => x.id != l.id } : State).Canonical :=
    { h with loops := fun x hx => h.loops x (List.mem_filter.mp hx).1 }
  exact (writeToken ended.same).completeCmd

theorem loopHalt {l : Loop} {t : Team} {g : Group} {x : Halt} (h : s.Canonical) (hl : l.Canonical) (hx : x.Canonical) :
    (s.loopHalt l t g x).Canonical := by
  unfold State.loopHalt
  cases x with
  | wait => exact h
  | issued t => exact hx
  | fault f addr => exact h.loopFault hl
  | bad key o => exact h.mismatch.loopFault hl

theorem loopStep {l : Loop} {t : Team} {m : Sectors} (h : s.Canonical) : (s.loopStep l t m).Canonical := by
  have stepped {a b : Block} {keys : Nat → Bool} : ((s.modTeam t.id fun t => t.afterStep l a b).takenOf (l.agent t) l.uid keys).Canonical :=
    same (changeTeam h fun _ ht => ht.afterStep)
  unfold State.loopStep
  exact ite { stepped.mapLoops fun l hl => by split <;> exact hl with } stepped.endLoop

theorem loopFetch {l : Loop} {t : Team} {j : Nat} {bytes : List Nat} (h : s.Canonical) :
    Gives (fun _ => True) Halt.Canonical (s.loopFetch l t j bytes) := by
  refine List.foldlRecOn _ _ trivial fun acc hacc k _ => ?_
  cases acc with
  | error e => exact hacc
  | ok m =>
    refine (h.readBy ?_).map fun _ _ => trivial
    refine Gives.ite ?_ (Issues.ok fun _ ht => ht)
    dsimp only
    split
    · exact trivial
    · exact Issues.ok fun _ ht => ht.usedLeaf

theorem stepFetch {l : Loop} {t : Team} {j : Nat} (h : s.Canonical) : Gives (fun _ => True) Halt.Canonical (s.stepFetch l t j) := by
  unfold State.stepFetch
  split
  next he => exact h.loopFetch.error he
  next => exact h.loopFetch.map fun _ _ => trivial

theorem fetchAhead {l : Loop} {t : Team} {x : Halt} (h : s.Canonical) (hx : s.fetchAhead l t = some x) : x.Canonical := by
  unfold State.fetchAhead at hx
  split at hx
  · simp at hx
  · dsimp only at hx
    split at hx
    · simp at hx
    · split at hx
      · simp at hx
      · simp at hx
      next he =>
        cases hx
        exact h.stepFetch.error he

theorem execMloopStep {loop : Nat} (h : s.Canonical) : Keeps (execMloopStep loop s) := by
  unfold Machine.execMloopStep
  split
  · exact h
  next l hl =>
    have kept : l.Canonical := h.loops l (List.mem_of_find?_eq_some hl)
    split
    · exact h
    · split
      next hx => exact h.loopHalt kept (h.fetchAhead hx)
      next =>
        split
        next he => exact h.loopHalt kept (h.stepFetch.error he)
        next => exact .ite h.loopStep h

/-! The end of a split (R28, R117). -/

theorem leave {c : Issuer} (h : s.Canonical) : (s.leave c).Canonical := by
  unfold State.leave
  split
  · exact h.areaFault
  · have left {f : Group → Group} {pc : DWord} :
        ((({ s with fresh := s.fresh + 1 } : State).modGroup c.team.id c.group.gid f).retire c.ref pc).Canonical := (modGroup h.same).retire
    dsimp only
    split
    · exact left
    · exact ite left (ite left.passOver left.closeGroup.groupOver)

theorem execExit (h : s.Canonical) : Keeps (execExit s) :=
  h.scalarIssue fun _ _ _ hs => .ite hs (hs.atClose (.ite hs.leave hs))

/-! Launches (R309 to R330). -/

theorem pickCore {l : Launch} {die index copy c : Nat} {not_ : List Nat} {t : State} (h : s.Canonical)
    (ht : s.pickCore l die index copy not_ = some (c, t)) : t.Canonical := by
  unfold State.pickCore at ht
  split at ht
  · split at ht
    · simp at ht
    · split at ht
      · simp at ht
      · cases ht
        exact h.same
  · split at ht
    · simp at ht
    · cases ht
      exact h.same

theorem pushQueue {t : Team} {u : State} (h : s.Canonical) (ht : t.Canonical) (hu : s.pushQueue t = some u) : u.Canonical := by
  unfold State.pushQueue at hu
  dsimp only at hu
  split at hu
  · simp at hu
  · cases hu
    exact { h with teams := List.forall_mem_append.mpr ⟨h.teams, List.forall_mem_singleton.mpr ht⟩ }

theorem dealTeam {l : Launch} {stage index : Nat} {again : Bool} {t : State} (h : s.Canonical)
    (ht : s.dealTeam l stage index again = some t) : t.Canonical := by
  unfold State.dealTeam at ht
  dsimp only at ht
  split at ht
  · simp at ht
  next hp =>
    have picked := State.Canonical.pickCore (same h) hp
    split at ht
    · exact State.Canonical.pushQueue picked.same ⟨rfl, rfl⟩ ht
    · split at ht
      · simp at ht
      next hq =>
        have first := State.Canonical.pushQueue picked.same ⟨rfl, rfl⟩ hq
        split at ht
        · simp at ht
        next hp => exact State.Canonical.pushQueue (first.pickCore hp) ⟨rfl, rfl⟩ ht

theorem stageOpen {l : Launch} {stage queued : Nat} (h : s.Canonical) :
    Gives (fun _ => True) State.Canonical (s.stageOpen l stage queued) := by
  unfold State.stageOpen
  split
  · trivial
  · refine .ite trivial (.ite trivial ?_)
    split
    next he => exact h.schedulerRead.error he
    next =>
      refine .ite trivial ?_
      split
      · trivial
      · refine .ite trivial ?_
        split
        next he => exact h.schedulerRead.error he
        next => trivial

theorem dealOne {l : Launch} {j : Nat} {t : State} (h : s.Canonical) (ht : s.dealOne l j = some t) : t.Canonical := by
  unfold State.dealOne at ht
  dsimp only at ht
  split at ht
  next he =>
    cases ht
    exact h.stageOpen.error he
  · simp at ht
  · obtain ⟨u, hu, rfl⟩ := Option.map_eq_some_iff.mp ht
    exact (h.dealTeam hu).same

theorem deal {fuel : Nat} (h : s.Canonical) : (s.deal fuel).Canonical := by
  induction fuel generalizing s with
  | zero => exact h
  | succ fuel ih =>
    unfold State.deal
    dsimp only
    split
    next ht =>
      obtain ⟨x, -, hx⟩ := List.exists_of_findSome?_eq_some ht
      exact ih (h.dealOne hx)
    next => exact h

theorem accept {asid : Nat} {r : LaunchRec} {parent : Option Nat} (h : s.Canonical) : (s.accept asid r parent).Canonical :=
  (closeStages h.same).checkLaunch.deal

theorem execLnch {sd sa : SReg} {atEnd : Bool} (h : s.Canonical) : Keeps (execLnch sd sa atEnd s) :=
  h.commandIssue fun _ _ _ hs => .ite hs.passEffects (.ite hs.scalarFault (hs.atClose hs.enter))

theorem launchChild {a : Active} {record : DWord} {atEnd : Bool} {bs : List Byte} (h : s.Canonical) :
    (s.launchChild a record atEnd bs).Canonical := by
  unfold State.launchChild
  split
  · exact (ite h h.writeCpl).endCmd
  · exact ite (accept h.same) (accept h.same).endCmd

theorem performLaunch {a : Active} {record : DWord} {atEnd : Bool} (h : s.Canonical) : (s.performLaunch a record atEnd).Canonical := by
  unfold State.performLaunch
  split
  · exact h
  next hr => exact h.cmdFetch.error hr
  · exact h.endCmd
  · exact h.mismatch.endCmd
  · exact h.launchChild

theorem placeGroups {t : Team} {l : Launch} {gs : List Group} (h : s.Canonical) : (s.placeGroups t l gs).Canonical :=
  { h with teams := List.forall_mem_map.mpr fun u hu => (h.teams u hu).same.ite (h.teams u hu) }

theorem makeResident {t : Team} {l : Launch} {area : Nat} (h : s.Canonical) (ht : t.Canonical) : (s.makeResident t l area).Canonical := by
  have cleared : ((List.replicate l.record.tiles ([] : Memory)).all fun m : Memory => m.wf) = true :=
    List.all_eq_true.mpr fun m hm => List.eq_of_mem_replicate hm ▸ rfl
  unfold State.makeResident
  refine ite (h.replaceTeam ?_).same (placeGroups (h.replaceTeam ?_).same)
  all_goals exact ⟨ht.scratch, cleared⟩

theorem release {t : Team} {l : Launch} {p : PassState} (h : s.Canonical) : (s.release t l p).Canonical :=
  same (s := (s.modTeam t.id fun t => { t with pass := t.pass.map fun p => { p with released := true } }).placeGroups t l _) h.modTeam.placeGroups

theorem execTeamDispatch {team : Nat} (h : s.Canonical) : Keeps (execTeamDispatch team s) := by
  unfold Machine.execTeamDispatch
  split
  · exact h
  next t ht =>
    split
    · exact h
    · refine .ite h ?_
      split
      · refine .ite h ?_
        split
        next he => exact h.stageOpen.error he
        next => exact h
        next =>
          split
          · exact h
          · exact (h.makeResident (h.team? ht)).deal
      · exact .ite h h.release
      · exact h

theorem execStealRequest {thief victim : Nat} (h : s.Canonical) : Keeps (execStealRequest thief victim s) := .ite h h.same

theorem execStealAnswer {thief : Nat} (h : s.Canonical) : Keeps (execStealAnswer thief s) := by
  unfold Machine.execStealAnswer
  dsimp only
  split
  · exact h
  · split
    · exact h.same
    · exact (modTeam h.same).deal

/-! Stage queues (R323 to R327). -/

theorem stageIssue {i : Instr} {sd sb : SReg} {nb push : Bool} (h : s.Canonical) : Keeps (stageIssue i sd sb nb push s) :=
  h.commandIssue fun _ _ _ hs => .ite hs.passEffects (.ite hs.scalarFault (.ite hs.scalarFault (hs.atClose hs.enter)))

theorem engineRead {o : MemOp} (h : s.Canonical) : Gives (fun x => x.2.Canonical) Halt.Canonical (s.engineRead o) :=
  .ite trivial (.value h.same)

theorem queueRead {a : Active} {ptr : DWord} {order : Order} (h : s.Canonical) :
    Gives (fun x => x.2.Canonical) Halt.Canonical (s.queueRead a ptr order) := by
  unfold State.queueRead
  split
  next he => exact (cmdCheck s).error he
  next =>
    split
    next he => exact h.engineRead.error he
    next hr =>
      dsimp only [Gives]
      exact State.Canonical.usedLeaf (h.engineRead.ok hr)

theorem queueWrite {a : Active} {ptr : DWord} {bs : List Byte} {order : Order} (h : s.Canonical) :
    Gives State.Canonical Halt.Canonical (s.queueWrite a ptr bs order) := by
  unfold State.queueWrite
  split
  next he => exact (cmdCheck s).error he
  next => exact .ite trivial (.value (homeOp h.same).usedLeaf)

theorem takeEntry {a : Active} {j : Nat} {st : StageRec} {nb : Bool} {off : Nat} (h : s.Canonical) :
    Gives State.Canonical Halt.Canonical (s.takeEntry a j st nb off) := by
  unfold State.takeEntry
  split
  next he => exact h.queueRead.error he
  next hr =>
    have h1 := h.queueRead.ok hr
    refine .ite (.ite (.value (State.Canonical.endCmd h1)) (.ite (.value (State.Canonical.endCmd h1)) trivial)) (.ite trivial ?_)
    split
    next he => exact (State.Canonical.queueRead h1).error he
    next hr =>
      have h2 := (State.Canonical.queueRead h1).ok hr
      split
      next he => exact (State.Canonical.queueWrite h2).error he
      next hw =>
        have h3 : State.Canonical _ := (State.Canonical.queueWrite h2).ok hw
        split
        next he => exact h3.cmdWrite.error he
        next hw => exact .value (State.Canonical.endCmd (h3.cmdWrite.ok hw)).closeStages.checkLaunch

theorem putEntry {a : Active} {st : StageRec} {nb : Bool} {off : Nat} {slot : Option Nat} (h : s.Canonical) :
    Gives State.Canonical Halt.Canonical (s.putEntry a st nb off slot) := by
  unfold State.putEntry
  split
  · split
    next he => exact h.queueRead.error he
    next hr =>
      have h1 := h.queueRead.ok hr
      refine .ite (.ite (.value (State.Canonical.endCmd h1)) trivial) (.ite trivial ?_)
      split
      next he => exact (State.Canonical.engineRead h1).error he
      next hr =>
        have h2 := (State.Canonical.engineRead h1).ok hr
        split
        next he => exact (State.Canonical.queueWrite h2).error he
        next hw => exact .value (State.Canonical.same ((State.Canonical.queueWrite h2).ok hw))
  · split
    next he => exact h.queueWrite.error he
    next hw => exact .value (State.Canonical.endCmd (h.queueWrite.ok hw))

theorem performStage {id : Nat} (h : s.Canonical) : (s.performStage id).Canonical := by
  unfold State.performStage
  split
  · exact h
  · split
    · refine ite h ?_
      split
      · exact h.endCmd
      · refine ite h ?_
        have moved {push : Bool} {a : Active} {j : Nat} {st : StageRec} {nb : Bool} {off : Nat} {slot : Option Nat} :
            Gives State.Canonical Halt.Canonical (if push then s.putEntry a st nb off slot else s.takeEntry a j st nb off) :=
          .ite h.putEntry h.takeEntry
        split
        next hr => exact moved.ok hr
        next hr => exact h.cmdHalt (moved.error hr)
    · exact ite h h.performLaunch
    · exact h

theorem readCounter {launch stage : Nat} (h : s.Canonical) : (s.readCounter launch stage).Canonical := by
  unfold State.readCounter
  split
  · exact h
  · split
    · refine ite h ?_
      split
      next he => exact h.schedulerRead.error he
      next =>
        refine ite h ?_
        split
        · exact deal h.same
        · exact h
    · exact h

theorem execStageTeamSave {team : Nat} (h : s.Canonical) : Keeps (execStageTeamSave team s) := by
  unfold Machine.execStageTeamSave
  split
  · exact h
  · split
    · exact h
    · exact .ite h h.modTeam

end State.Canonical
end Sys2Proof.Machine

namespace Sys2Proof.Machine
namespace State.Canonical
variable {s : State}

/-! The ordering machine (R254 to R266). -/

theorem execLoadSatisfy {op : Nat} (h : s.Canonical) : Keeps (execLoadSatisfy op s) := by
  unfold Machine.execLoadSatisfy
  split
  · exact h
  · exact .ite h h.same

theorem execWriteMove {op : Nat} (h : s.Canonical) : Keeps (execWriteMove op s) := by
  unfold Machine.execWriteMove
  split
  · exact h
  · exact .ite h h.same

theorem pumpBar {o : MemOp} (h : s.Canonical) : (s.pumpBar o).Canonical := by
  unfold State.pumpBar
  split
  · split
    · exact same (h.setScratch (Memory.wf_writeN _ _ _ (h.scratchOf _)))
    · exact h
  · exact h

theorem blockFault {o : MemOp} (h : s.Canonical) : (s.blockFault o).Canonical := by
  unfold State.blockFault
  split
  · split
    · exact h.cmdFault
    · exact h
  · exact h

theorem homeBlock {o : MemOp} {hdr : Nat} {data : List (Byte × Byte)} (h : s.Canonical) : (s.homeBlock o hdr data).Canonical := by
  unfold State.homeBlock
  split
  · exact (homeOp h.same).blockFault
  · exact h.homeOp.homeNew

theorem sectorFault {o : MemOp} (h : s.Canonical) : (s.sectorFault o).Canonical := by
  unfold State.sectorFault
  split
  · split
    · exact h
    · split
      · exact h
      · exact ite h h.takeFault
  · split
    · exact h.cmdFault
    · exact h
  · exact h.same
  · exact h

theorem dropSpoiled {o : MemOp} (h : s.Canonical) : (s.dropSpoiled o).Canonical := sectorFault h.mismatch.same

theorem home {o : MemOp} (h : s.Canonical) : (s.home o).Canonical := by
  refine ite h.dropSpoiled ?_
  dsimp only
  split
  · exact h.homeOp
  · exact h.homeBlock
  · exact h.homeOp.pumpBar

theorem execWriteHome {op : Nat} (h : s.Canonical) : Keeps (execWriteHome op s) := by
  unfold Machine.execWriteHome
  split
  · exact h
  · exact .ite h.home h

theorem execRecordApply {die home : Nat} (h : s.Canonical) : Keeps (execRecordApply die home s) := by
  refine .ite h ?_
  split
  · exact h
  · exact { h with views := vmod_all _ _ _ _ h.views fun m hm => Memory.wf_writeMasked m _ _ hm }

theorem execHostCompletion {op : Nat} (h : s.Canonical) : Keeps (execHostCompletion op s) := by
  unfold Machine.execHostCompletion
  split
  · exact h
  · exact h.same

theorem deliver {o : MemOp} {bs : List Byte} (h : s.Canonical) : (s.deliver o bs).Canonical := by
  unfold State.deliver
  split
  · exact h
  · dsimp only
    split
    iterate 4 exact h
    iterate 3 exact same h.modGroup
    split
    · exact h
    · exact h.modGroup.same

theorem land {o : MemOp} (h : s.Canonical) : (s.land o).Canonical :=
  ite h (ite h.deliver (ite (sectorFault h.mismatch.same) h.refetch))

theorem echoed {o : MemOp} (h : s.Canonical) : (s.echoed o).Canonical := by
  unfold State.echoed
  split
  · split
    · exact ite h.same h
    · exact h
  · exact h

theorem completed {team gid : Nat} {flag : Option (Fin 12)} {waits : Bool} (h : s.Canonical) : (s.completed team gid flag waits).Canonical :=
  h.modGroup

theorem complete {o : MemOp} (h : s.Canonical) : (s.complete o).Canonical := by
  have told {u : State} (hu : u.Canonical) : (match o.dest with
      | .vector asid => u.fireVector asid
      | .ack node => { u with sent := u.sent ++ [FabricMsg.answer node false [] 0] }
      | _ => u).Canonical := by
    split
    · exact hu.fireVector
    · exact hu.same
    · exact hu
  have freed {u : State} {waits : Bool} (hu : u.Canonical) : (match o.group? with
      | some (t, g) => u.completed t g o.flag waits
      | none => u).Canonical := by
    split
    · exact hu.completed
    · exact hu
  have ended {u : State} (hu : u.Canonical) : (match o.agent with
      | .engine _ _ _ id => u.finishCmd id
      | _ => u).Canonical := by
    split
    · exact hu.finishCmd
    · exact hu
  exact ite h (ended (freed (told h.same)))

theorem execOperationComplete {op : Nat} (h : s.Canonical) : Keeps (execOperationComplete op s) := by
  unfold Machine.execOperationComplete
  split
  · exact completed h.modGroup.same
  · split
    · exact h.performStage
    · have landed {u : State} (hu : u.Canonical) : (match u.op? op with | some o => u.land o | none => u).Canonical := by
        split
        · exact hu.land
        · exact hu
      have done {u : State} (hu : u.Canonical) : (match u.op? op with | some o => u.complete o | none => u).Canonical := by
        split
        · exact hu.complete
        · exact hu
      exact same (done (landed h.echoed))

/-! Redundant execution (R358, R359). -/

theorem closeEpoch {t0 t1 : Nat} (h : s.Canonical) : (s.closeEpoch t0 t1).Canonical := by
  unfold State.closeEpoch
  refine foldl (same (s := (s.epochOps t1).foldl (fun s o => match o.group? with
    | some (t, g) => s.completed t g o.flag (s.awaits t g o.id)
    | none => s) s) (h.foldl fun s o _ hs => ?_)) fun _ _ _ hs => hs.modTeam
  split
  · exact hs.completed
  · exact hs

theorem execEpochCompare {team : Nat} (h : s.Canonical) : Keeps (execEpochCompare team s) := by
  unfold Machine.execEpochCompare
  split
  · exact h
  · split
    · exact h
    · split
      · exact h
      · refine .ite h (.ite h.closeEpoch ?_)
        split
        · exact h.takeFault
        · exact h

end State.Canonical
end Sys2Proof.Machine

namespace Sys2Proof.Machine

/-! The saving and restoring of contexts and the host (R329 to R354, R376 to R379). -/

theorem all_wf_mapIdx {α : Type} (l : List α) (f : Nat → α → Memory) (hf : ∀ i a, (f i a).wf = true) :
    ((l.mapIdx f).all fun m => m.wf) = true :=
  List.all_eq_true.mpr fun m hm => by
    obtain ⟨i, hi, rfl⟩ := List.mem_mapIdx.mp hm
    exact hf i _

namespace State.Canonical
variable {s : State}

/-! Context saves and restores (R331 to R353). -/

theorem writeArea {t : Team} {l : Launch} (h : s.Canonical) : Gives State.Canonical (fun _ => True) (s.writeArea t l) := by
  refine List.foldlRecOn _ _ h fun acc hacc p _ => ?_
  cases acc with
  | error e => trivial
  | ok s =>
    dsimp only
    split
    next hw => exact (State.Canonical.deviceWrite hacc).ok hw
    next => trivial

theorem restoreCmds {tiles : Nat} {g : Group} {bs : List Byte} {t : State} (h : s.Canonical) (ht : s.restoreCmds tiles g bs = some t) :
    t.Canonical := by
  refine List.foldlRecOn (motive := fun acc : Option State => ∀ t, acc = some t → t.Canonical) _ _ ?_ (fun acc hacc q _ => ?_) t ht
  · rintro _ ⟨⟩
    exact h
  · refine List.foldlRecOn (motive := fun acc : Option State => ∀ t, acc = some t → t.Canonical) _ _ hacc fun acc hacc x _ t ht => ?_
    obtain ⟨u, hu, ht⟩ := Option.bind_eq_some_iff.mp ht
    split at ht
    · cases ht
      exact hacc _ hu
    · obtain ⟨c, -, rfl⟩ := Option.map_eq_some_iff.mp ht
      exact (hacc _ hu).same

/-- A team and its loops are replaced by what an area holds of them (R353). -/
theorem placeArea {id : Nat} {t : Team} {ls : List Loop} (h : s.Canonical) (ht : t.Canonical) (hl : t.Canonical → ∀ l ∈ ls, l.Canonical) :
    ({ s with teams := s.teams.map fun u => if u.id == id then t else u
              loops := s.loops.map fun l => (ls.find? fun x => x.id == l.id).getD l } : State).Canonical := by
  refine { h.replaceTeam ht with loops := List.forall_mem_map.mpr fun l hm => ?_ }
  cases hf : ls.find? fun x => x.id == l.id with
  | none => exact h.loops l hm
  | some x => exact hl ht x (List.mem_of_find?_eq_some hf)

theorem readArea {t : Team} {l : Launch} {bs : List Byte} {u : State} (h : s.Canonical) (hu : s.readArea t l bs = some u) :
    u.Canonical := by
  unfold State.readArea at hu
  dsimp only at hu
  split at hu
  · refine List.foldlRecOn (motive := fun acc : Option State => ∀ u, acc = some u → u.Canonical) _ _ ?_ (fun acc hacc g _ u hu => ?_) u hu
    · rintro _ ⟨⟩
      refine same (placeArea h ⟨Memory.wf_writeN _ _ _ rfl, all_wf_mapIdx _ _ fun _ _ => Memory.wf_writeN _ _ _ rfl⟩ fun ht x hx => ?_)
      obtain ⟨l, -, rfl⟩ := List.mem_map.mp hx
      exact all_wf_mapIdx _ _ fun _ _ => ht.tile _
    · split at hu
      · exact hacc _ hu
      · obtain ⟨v, hv, hu⟩ := Option.bind_eq_some_iff.mp hu
        exact (hacc _ hv).restoreCmds hu
  · simp at hu

theorem forgetReads {team : Nat} (h : s.Canonical) : (s.forgetReads team).Canonical := h.same

theorem recallLoops {team : Nat} (h : s.Canonical) : (s.recallLoops team).Canonical := by
  unfold State.recallLoops
  refine mapLoops (List.foldlRecOn _ _ h fun u hu l hl => hu.rollback (h.loops l (List.mem_filter.mp hl).1)) fun l hl => ?_
  split <;> exact hl

theorem discardPass {t : Team} {l : Launch} (h : s.Canonical) : (s.discardPass t l).Canonical :=
  ite h (modTeam (same (h.foldl fun _ _ _ hs => hs.closeGroup)))

theorem teamAreaFault {t : Team} {sub : Nat} {addr : DWord} (h : s.Canonical) : (s.teamAreaFault t sub addr).Canonical := by
  unfold State.teamAreaFault
  split
  · exact h.takeFault
  · exact h.takeFault

theorem saveTeam {t : Team} {l : Launch} (h : s.Canonical) : (s.saveTeam t l).Canonical := by
  have idle : (((s.recallLoops t.id).forgetReads t.id).discardPass t l).Canonical := h.recallLoops.forgetReads.discardPass
  unfold State.saveTeam
  dsimp only
  split
  · exact idle
  · split
    next => exact idle.teamAreaFault.modTeam
    next hw => exact modTeam (idle.writeArea.ok hw)

theorem execContextSave {team : Nat} (h : s.Canonical) : Keeps (execContextSave team s) := by
  unfold Machine.execContextSave
  split
  · exact h
  · split
    · exact h
    · exact .ite h (State.Canonical.foldl h fun _ _ _ hs => hs.saveTeam)

theorem restoreTeam {t : Team} {l : Launch} {core : Nat} (h : s.Canonical) : (s.restoreTeam t l core).Canonical := by
  unfold State.restoreTeam
  split
  · exact h.teamAreaFault
  · split
    next => exact h.teamAreaFault
    next hu => exact foldl (h.readArea hu).modTeam fun _ _ _ hs => hs.finishCmd

theorem resumeFault {x : HeldFault} (h : s.Canonical) : (s.resumeFault x).Canonical := by
  unfold State.resumeFault
  dsimp only
  split
  · exact passTrap h.same
  · exact passTrap h.same
  · exact writeMap h.same
  · exact (closeStages h.same).checkLaunch
  · exact h.same

theorem abandonFault {x : HeldFault} (h : s.Canonical) : (s.abandonFault x).Canonical := by
  unfold State.abandonFault
  dsimp only
  split
  · exact ite (contain h.same).passTrap (contain h.same)
  · exact ite (contain h.same).passTrap (contain h.same)
  · split
    · exact contain h.same
    · exact h.same
  · split
    · exact abortCmd h.same
    · exact h.same
  · exact cancelLaunch h.same
  · exact contain h.same
  · exact h.same
  · exact h.same

theorem execContextRestore {team core : Nat} (h : s.Canonical) : Keeps (execContextRestore team core s) := by
  unfold Machine.execContextRestore
  split
  · exact h
  · split
    · exact h
    · refine .ite h ?_
      split
      · exact h
      · exact foldl (h.foldl fun _ _ _ hs => hs.restoreTeam) fun _ _ _ hs => ite hs.resumeFault hs.abandonFault

theorem flushTeam {team : Nat} (h : s.Canonical) : (s.flushTeam team).Canonical := by
  unfold State.flushTeam
  split
  · exact h
  · exact same (h.foldl fun _ _ _ hs => hs.dropTeam)

theorem applyMeans {t : Team} {m : Means} {estimate bound : Nat} (h : s.Canonical) : (s.applyMeans t m estimate bound).Canonical := by
  unfold State.applyMeans
  split
  · exact h.modTeam
  · exact h.modTeam
  · exact h.flushTeam

theorem takeOff {teams : List Team} {bound : Nat} (h : s.Canonical) : (s.takeOff teams bound).1.Canonical := by
  refine List.foldlRecOn (motive := fun acc : State × Bool => acc.1.Canonical) _ _ h fun acc hacc t _ => ?_
  dsimp only
  split
  · exact hacc
  · split
    · exact hacc
    · split
      · exact hacc
      · exact State.Canonical.foldl hacc fun _ _ _ hs => hs.applyMeans

theorem execDrainOverrun {team : Nat} (h : s.Canonical) : Keeps (execDrainOverrun team s) := by
  unfold Machine.execDrainOverrun
  split
  · exact h
  · split
    · exact h
    · split
      · exact h
      · exact .ite h (State.Canonical.foldl h fun _ _ _ hs => hs.modTeam)

/-! The host (R376 to R379). -/

theorem execTrapRecordWrite {asid : Nat} (h : s.Canonical) : Keeps (execTrapRecordWrite asid s) := by
  unfold Machine.execTrapRecordWrite
  dsimp only
  split
  · exact h
  · refine .ite h ?_
    split
    next ht => exact (deviceSend h.same ht).flushFinals
    next =>
      have full : ∀ {a : Asid}, ((s.setAsid a).setStat asid 5).Canonical := h.same
      split
      · exact full.fireVector.abandonFault.flushFinals
      · exact full.fireVector.flushFinals

theorem commandDone {asid result count : Nat} {done : DWord} {missed : Bool} (h : s.Canonical) :
    (s.commandDone asid done result missed count).Canonical := h.deviceWord

theorem readCommands {asid fuel : Nat} (h : s.Canonical) : (s.readCommands asid fuel).Canonical := by
  induction fuel generalizing s with
  | zero => exact h
  | succ fuel ih =>
    unfold State.readCommands
    dsimp only
    split
    · exact h
    · refine ite h ?_
      split
      · exact ih (fireVector h.same)
      · exact ite h.same (ih (commandDone h.same))

theorem endCommand {asid : Nat} {c : HostCmd} {k : Order4} (h : s.Canonical) : (s.endCommand asid c k).Canonical :=
  (commandDone h.same).readCommands

theorem modHead {asid : Nat} {f : HostCmd → HostCmd} (h : s.Canonical) : (s.modHead asid f).Canonical := by
  unfold State.modHead
  dsimp only
  split
  · exact h.same
  · exact h

theorem execInvalidate {asid : Nat} (h : s.Canonical) : Keeps (execInvalidate asid s) := by
  unfold Machine.execInvalidate
  split
  · exact h
  · exact .ite h (modHead h.same)

theorem execInvalidateCompletion {asid : Nat} (h : s.Canonical) : Keeps (execInvalidateCompletion asid s) := by
  unfold Machine.execInvalidateCompletion
  split
  · exact h
  · exact .ite h (endCommand h.same)

theorem execPreEmpt {asid : Nat} (h : s.Canonical) : Keeps (execPreEmpt asid s) := by
  unfold Machine.execPreEmpt
  split
  · exact h
  · split
    · exact .ite h h.endCommand
    · have held {a : Asid} {p : Prop} [Decidable p] : (if p then s else s.setAsid a).Canonical := ite h h.same
      exact .ite held.takeOff.modHead held.takeOff.modHead.endCommand

theorem execPreEmptHoldEnd {asid : Nat} (h : s.Canonical) : Keeps (execPreEmptHoldEnd asid s) := deal h.same

theorem unhalt {asid : Nat} (h : s.Canonical) : (s.unhalt asid).Canonical :=
  deal { h with teams := List.forall_mem_map.mpr fun t ht => (h.teams t ht).same.ite (h.teams t ht) }

theorem execCancel {asid : Nat} (h : s.Canonical) : Keeps (execCancel asid s) := by
  unfold Machine.execCancel
  split
  · exact h
  next k _ =>
    have cancelled {ids : List Nat} : (ids.foldl (fun s id => s.cancelLaunch id none) s).Canonical := h.foldl fun _ _ _ hs => hs.cancelLaunch
    exact (ite cancelled.unhalt cancelled).endCommand.deal

theorem execResumeContext {asid : Nat} (h : s.Canonical) : Keeps (execResumeContext asid s) := by
  unfold Machine.execResumeContext
  split
  · exact h
  · exact (ite h.unhalt h).endCommand

theorem answer {asid : Nat} {abandon : Bool} {again : FabricRequest → State → State} (h : s.Canonical)
    (ha : ∀ req (t : State), t.Canonical → (again req t).Canonical) : (s.answer asid abandon again).Canonical := by
  unfold State.answer
  split
  · exact h
  · refine ite h (endCommand ?_)
    split
    · exact h
    · refine ite h.same (ite h.abandonFault ?_)
      split
      · exact ha _ _ h.resumeFault
      · exact h.resumeFault

theorem requesterWrite {agent : Agent} {asid pa : Nat} {sc : Bool} {data : List (Byte × Byte)} (h : s.Canonical) :
    (s.requesterWrite agent asid pa sc data).Canonical := h.foldl fun _ _ _ hs => hs.same

theorem requesterRead {agent : Agent} {asid pa n : Nat} (h : s.Canonical) : (s.requesterRead agent asid pa n).2.Canonical :=
  List.foldlRecOn (motive := fun acc : List Byte × State => acc.2.Canonical) _ _ h fun _ hacc _ _ => hacc.same

theorem ownWrite {pa : Nat} {bs : List Byte} (h : s.Canonical) : (s.ownWrite pa bs).Canonical := h.foldl fun _ _ _ hs => hs.same

theorem execHostMemoryAccess {acc : HostAccess} (h : s.Canonical) : Keeps (execHostMemoryAccess acc s) := by
  unfold Machine.execHostMemoryAccess
  dsimp only
  split
  · exact .ite h.requesterWrite h
  · exact .ite h.requesterRead.same h
  · exact .ite h.ownWrite h

theorem quietWrite {asid : Nat} {ok : Bool} {f : Asid → Asid} (h : s.Canonical) : (s.quietWrite asid ok f).Canonical := ite h.same h.same

theorem writeCmd {asid : Nat} {addr : DWord} (h : s.Canonical) : (s.writeCmd asid addr).Canonical := readCommands h.same

theorem refuseKick {asid : Nat} {k : Kick} (h : s.Canonical) : (s.refuseKick asid k).Canonical := fireVector h.same

theorem consumeKick {k : Kick} (h : s.Canonical) : (s.consumeKick k).Canonical := h.same

theorem judgeKick {k : Kick} {bs : List Byte} (h : s.Canonical) : (s.judgeKick k bs).Canonical := by
  unfold State.judgeKick
  split
  · exact h.refuseKick.consumeKick
  · exact h.writeCpl.consumeKick
  · exact h.accept.consumeKick

theorem serveKick (h : s.Canonical) : s.serveKick.Canonical := by
  unfold State.serveKick
  split
  · exact h
  · refine ite h (ite h.refuseKick.consumeKick (ite h ?_))
    split
    · exact ite h.same (ite h.refuseKick.consumeKick h.same)
    · exact ite h.refuseKick.consumeKick h.same
    · exact ite h.judgeKick h.same
    · exact h.refuseKick.consumeKick

theorem writeKick {asid : Nat} {v : DWord} (h : s.Canonical) : (s.writeKick asid v).Canonical := ite (serveKick h.same) h.same

theorem execKick {asid : Nat} {value : DWord} (h : s.Canonical) : Keeps (execKick asid value s) := .ite h h.writeKick

theorem execSubmissionSeqReread {asid : Nat} (h : s.Canonical) : Keeps (execSubmissionSeqReread asid s) := by
  unfold Machine.execSubmissionSeqReread
  split
  · exact .ite h.serveKick h
  · exact h

theorem writeAsid {asid off : Nat} {v : DWord} (h : s.Canonical) : (s.writeAsid asid off v).Canonical := by
  unfold State.writeAsid
  dsimp only
  split
  iterate 3 exact h.quietWrite
  · exact h.writeKick
  iterate 2 exact h.quietWrite
  · exact h.same
  iterate 2 exact h.quietWrite
  · exact h.writeCmd
  · exact ite h.same h.same
  · exact h.same
  · exact h

theorem execHostRegisterWrite {offset : Nat} {value : DWord} (h : s.Canonical) : Keeps (execHostRegisterWrite offset value s) :=
  .ite (.ite h (.ite h.same (.ite h.same h))) (.ite h h.writeAsid)

end State.Canonical
end Sys2Proof.Machine

namespace Sys2Proof.Machine
namespace State.Canonical
variable {s : State}

/-! The fabric (R363 to R368). -/

theorem remoteFault {node asid : Nat} {f : AccessFault} {addr : DWord} {req : FabricRequest} (h : s.Canonical) :
    (s.remoteFault node asid f addr req).Canonical :=
  ite h.same (ite h.record.same h.record.same)

theorem remoteBytes {node asid : Nat} {l : Leaf} {ptr : DWord} {r : Option (List Byte) × State} (h : s.Canonical)
    (hr : s.remoteBytes node asid l ptr = r) : r.2.Canonical := by
  subst hr
  unfold State.remoteBytes
  dsimp only
  split
  · exact h.requesterRead.requesterRead
  · exact List.foldlRecOn (motive := fun acc : List Byte × State => acc.2.Canonical) _ _ h.requesterRead fun _ hacc _ _ => hacc.requesterRead

theorem remoteWrite {node asid : Nat} {l : Leaf} {ptr : DWord} {data : List (Option Byte)} (h : s.Canonical) :
    (s.remoteWrite node asid l ptr data).Canonical := by
  refine ite h.same (same (foldl h.requesterWrite fun s x _ hs => ?_))
  split
  · exact hs.requesterWrite
  · exact hs

theorem serveRemote {req : FabricRequest} (h : s.Canonical) : (s.serveRemote req).Canonical := by
  unfold State.serveRemote
  split
  · refine ite h ?_
    split
    · exact h.remoteFault
    · split
      next hr => exact (h.remoteBytes hr).remoteFault
      next hr => exact (h.remoteBytes hr).same
  · dsimp only
    split
    · exact h.remoteFault
    · exact ite h.remoteFault h.remoteWrite

theorem execLinkFailure {node : Nat} (h : s.Canonical) : Keeps (execLinkFailure node s) := h.same

theorem execLinkRecovery {node : Nat} (h : s.Canonical) : Keeps (execLinkRecovery node s) := learnLosses h.same

theorem execFabricRecoveryLimit {node : Nat} (h : s.Canonical) : Keeps (execFabricRecoveryLimit node s) := learnLosses h.same

theorem execPeerLossNotice {node : Nat} (h : s.Canonical) : Keeps (execPeerLossNotice node s) := learnLosses h.same

theorem execRemoteLost {team group node : Nat} (h : s.Canonical) : Keeps (execRemoteLost team group node s) := by
  unfold Machine.execRemoteLost
  split
  · exact h
  · refine .ite h (State.Canonical.foldl (h.foldl fun _ _ _ hs => hs.endCmd) fun s uid _ hs => ?_)
    split
    · split
      · exact ite hs hs.takeFault
      · exact hs
    · exact hs

theorem execWatchdog {team group : Nat} (h : s.Canonical) : Keeps (execWatchdog team group s) := by
  unfold Machine.execWatchdog
  split
  · exact h
  · split
    · refine .ite h ?_
      split
      · exact h
      · exact h.modGroup.takeFault
    · exact h

/-! Fetch (R69 to R73). -/

theorem prefetch (h : s.Canonical) : s.prefetch.Canonical := by
  unfold State.prefetch
  dsimp only
  split
  · exact h.same
  · split
    · exact h.same
    · split
      · exact h.same
      · exact h.same

theorem execScalarFetch {why : FetchFault} (h : s.Canonical) : Keeps (execScalarFetch why s) := by
  unfold Machine.execScalarFetch
  split
  · exact trivial
  · exact .ite h h.scalarFault

theorem execIllegalEncoding {w : Word} (h : s.Canonical) : Keeps (execIllegalEncoding w s) := by
  unfold Machine.execIllegalEncoding
  split
  · exact trivial
  · exact .ite h h.scalarFault

theorem fetchBytes {core launch asid n : Nat} {ptr : DWord} (h : s.Canonical) :
    Gives (fun x => x.2.Canonical) (fun _ => True) (s.fetchBytes core launch asid ptr n) := by
  refine List.foldlRecOn _ _ h fun acc hacc p _ => ?_
  cases acc with
  | error e => trivial
  | ok x =>
    dsimp only
    split
    · trivial
    · trivial
    · refine .ite trivial ?_
      dsimp only [Gives]
      exact State.Canonical.usedLeaf hacc

theorem readClause {t : Team} {g : Group} {l : Launch} {q : Clause} (h : s.Canonical) :
    Gives (fun x => x.2.2.Canonical) (fun _ => True) (s.readClause t g l q) := by
  unfold State.readClause
  split
  next => trivial
  next hf =>
    have head : State.Canonical _ := h.fetchBytes.ok hf
    split
    · trivial
    · split
      next => trivial
      next hf =>
        split
        · exact trivial
        · exact head.fetchBytes.ok hf

theorem clauseFault {r : SplitRef} {t : Team} {g : Group} {q : Clause} {f : AccessFault} {a : DWord} (h : s.Canonical) :
    (s.clauseFault r t g q f a).Canonical := by
  unfold State.clauseFault
  exact (ite h h.modGroup).takeFault

theorem execClauseFetch {r : SplitRef} (h : s.Canonical) : Keeps (execClauseFetch r s) := by
  unfold Machine.execClauseFetch
  split
  · exact h
  · refine .ite h ?_
    split
    next => exact h.clauseFault
    next hr => exact State.Canonical.modGroup (h.readClause.ok hr)

theorem execClauseIssue {r : SplitRef} (h : s.Canonical) : Keeps (execClauseIssue r s) := by
  unfold Machine.execClauseIssue
  split
  · exact h
  · split
    · exact h
    · exact .ite h h.modGroup

/-! Errors, suspicion and management (R347 to R360, R380 to R384). -/

theorem drainUnit {u : HwUnit} (h : s.Canonical) : (s.drainUnit u).Canonical := by
  unfold State.drainUnit
  refine ite h ?_
  split
  · exact takeOff h.same
  · exact h.same

theorem suspect {u : HwUnit} {n : Nat} (h : s.Canonical) : (s.suspect u n).Canonical := ite h.charge.drainUnit h

theorem drainDue (h : s.Canonical) : s.drainDue.Canonical := h.foldl fun _ _ _ hs => hs.drainUnit

theorem wordStruck {r : SplitRef} (h : s.Canonical) : (s.wordStruck r).Canonical := by
  unfold State.wordStruck
  split
  · exact ite h h.scalarFault
  · exact h

theorem clauseStruck {r : SplitRef} (h : s.Canonical) : (s.clauseStruck r).Canonical := by
  unfold State.clauseStruck
  split
  · exact ite h h.clauseFault
  · exact h

theorem strike {t : SoftTarget} (h : s.Canonical) : (s.strike t).Canonical := by
  unfold State.strike
  dsimp only
  split
  · exact h
  · split
    · exact h
    · split
      · exact h
      · exact ite h h.takeFault
  · split
    · exact h
    · split
      · exact h
      · exact ite h h.takeFault
  · split
    next l hl =>
      split
      · exact h.loopFault (h.loops l (List.mem_of_find?_eq_some hl))
      · exact h
    next => exact h
  · split
    · exact ite h (ite (sectorFault h.same) (sectorFault h.same))
    · exact h
  · exact h.wordStruck
  · exact h.clauseStruck

theorem execSoftError {err : SoftErr} (h : s.Canonical) : Keeps (execSoftError err s) := by
  unfold Machine.execSoftError
  split
  · exact h.suspect
  · dsimp only [Keeps]
    split
    · exact h.same
    · exact h
  · exact h.suspect.wordStruck
  · exact h.suspect.clauseStruck
  · exact h.suspect.strike

theorem execSuspicionDecay {u : HwUnit} (h : s.Canonical) : Keeps (execSuspicionDecay u s) :=
  .ite h (.ite h (drainUnit h.same))

theorem execWellDrainTimeout {u : HwUnit} (h : s.Canonical) : Keeps (execWellDrainTimeout u s) := by
  unfold Machine.execWellDrainTimeout
  split
  · exact .ite h h.same
  · exact h

theorem execUnitTest {u : HwUnit} {pass : Bool} (h : s.Canonical) : Keeps (execUnitTest u pass s) := by
  unfold Machine.execUnitTest
  refine .ite h (.ite (deal h.same) ?_)
  dsimp only
  split
  · exact State.Canonical.foldl h.same fun _ _ _ hs => hs.cancelLaunch
  · exact (State.Canonical.foldl h.same fun _ _ _ hs => hs.flushTeam).deal
  · exact h.same

theorem execReset (h : s.Canonical) : Keeps (execReset s) := by
  have views : ((Vector.replicate 5 s.mem).toList.all fun m => m.wf) = true := by
    rw [Vector.toList_replicate]
    exact List.all_eq_true.mpr fun m hm => List.eq_of_mem_replicate hm ▸ h.mem
  exact State.Canonical.mk h.mem views (fun _ ht => absurd ht List.not_mem_nil) fun _ hl => absurd hl List.not_mem_nil

theorem execFirmwareVerify {image : List Byte} (h : s.Canonical) : Keeps (execFirmwareVerify image s) := by
  unfold Machine.execFirmwareVerify
  dsimp only
  split
  · split
    · exact h.same
    · exact h.same
  · split
    · exact h.same
    · exact h.same

theorem execBringUp {cfg : BringUpInput} (h : s.Canonical) : Keeps (execBringUp cfg s) := by
  unfold Machine.execBringUp
  refine .ite (.ite h.same ?_) (.ite h.same (.ite (.ite h.same h.same) (.ite h.same h)))
  have views : ((s.views.map Memory.hostOnly).toList.all fun m => m.wf) = true := by
    rw [Vector.toList_map, List.all_map]
    exact List.all_eq_true.mpr fun m hm => Memory.wf_hostOnly m (List.all_eq_true.mp h.views m hm)
  exact State.Canonical.mk (Memory.wf_hostOnly _ h.mem) views h.teams h.loops

theorem execPowerCap {watts : Nat} (h : s.Canonical) : Keeps (execPowerCap watts s) := .ite h.same h

theorem execThermalThrottle {up : Bool} (h : s.Canonical) : Keeps (execThermalThrottle up s) := .ite h.same (.ite h.same h)

theorem execThermalHalt (h : s.Canonical) : Keeps (execThermalHalt s) := by
  unfold Machine.execThermalHalt
  exact same (h.foldl fun _ _ _ hs => hs.halt)

end State.Canonical
end Sys2Proof.Machine

namespace Sys2Proof.Machine
namespace State.Canonical
variable {s : State}

/-! The dispatch, and what a step does beside it. -/

theorem exec {i : Instr} (h : s.Canonical) : Keeps (exec i s) := by
  unfold Machine.exec
  cases i with
  | add | sub | mul | mulhi | mulhu | and | or | xor | shl | shr | sra | min | max | minu | maxu | slt | sltu | seq | divu
    | remu => exact h.alu2
  | popc | clz | ctz | brev | addi | andi | ori | xori | shli | shri | srai | slti | muli => exact h.alu1
  | lui => exact h.scalarIssue fun _ _ _ hs => hs.writeRetire
  | sld | sld2 => exact h.scalarIssue fun _ _ _ hs => hs.scalarLoad
  | sst | sst2 => exact h.scalarIssue fun _ _ _ hs => hs.scalarStore
  | satom => exact h.execSatom
  | b => exact h.scalarIssue fun _ _ _ hs => hs.jump
  | bz | bnz => exact h.scalarIssue fun _ _ _ hs => ite hs.jump hs.advance
  | bany | ball | bnone => exact h.predBranch
  | split => exact h.execSplit
  | call => exact h.scalarIssue fun _ _ _ hs => hs.modGroup.retire
  | ret | bx => exact h.scalarIssue fun _ _ _ hs => hs.jumpReg
  | run | runx => exact h.runClause
  | waitk => exact h.execWaitk
  | mtc | mtcExec => exact h.scalarIssue fun _ _ _ hs => hs.groupRetire
  | mtcTcfg => exact h.execMtcTcfg
  | mtcBd => exact h.execMtcBd
  | mtcQdep => exact h.execMtcQdep
  | mtcG => exact h.execMtcG
  | mtcFabw => exact h.execMtcFabw
  | mfc => exact h.execMfc
  | cpy => exact h.copyIssue fun _ _ _ hs => hs.issueCopy
  | cpys => exact h.execCpys
  | mloop | mloopSbp | mloopDirect => exact h.loopIssue
  | siph => exact h.execSiph
  | lnch => exact h.execLnch
  | barMark | barMarkn => exact h.barIssue fun _ _ _ _ hs => hs.arriveOnly
  | barHold => exact h.execBarHold
  | barJoin => exact h.execBarJoin
  | barOwe => exact h.execBarOwe
  | fence => exact h.execFence
  | qfence => exact h.execQfence
  | stepq | stepp => exact h.stageIssue
  | trap => exact h.execTrap
  | exit => exact h.execExit
  | yield => exact h.execYield
  | nop => exact h.scalarIssue fun _ _ _ hs => hs.advance
  | iadd | isub | imul | imulhi | imad | imin | imax | iabs | laneAnd | laneOr | laneXor | not | laneShl | laneShr
    | laneSra | rot | lanePopc | laneClz | laneBrev | bfe | bfi | iaddc | isad | lea | idiv | irem | iclamp | fadd | fsub
    | fmul | ffma | fmin | fmax | fminnum | frnd | fscale | fclass | fdot2 | fdot4 | fmid | ffract | fcopysign | cvt | cvtb
    | pack | rcp | rsq | sqrt | exp2 | log2 | sin | cos | tanh | erf | expr | ivmk => exact h.laneCompute
  | mov => exact h.execMov
  | unpk => exact h.execUnpk
  | icmp => exact h.execIcmp
  | fcmp => exact h.execFcmp
  | sel => exact h.execSel
  | pset => exact h.execPset
  | pmov => exact h.execPmov
  | vote => exact h.execVote
  | shfl | shfli | bcast | compact | mapset | permld => exact h.mapEdit
  | qmix | xpose => exact h.moveQuad
  | mapget => exact h.execMapget
  | mat => exact h.execMat
  | scan => exact h.execScan
  | dacc => exact h.execDacc
  | wrnd => exact h.execWrnd
  | wclr | wadd => exact h.wideWrite
  | wmov => exact h.execWmov
  | ld | ldb | lds | ldw => exact h.laneLoad
  | st | stb | sts | stw => exact h.laneStore
  | ldt => exact h.execLdt
  | atom | atoms | atomw => exact h.laneAtomic
  | conf => exact h.execConf
  | tagld => exact h.execTagld
  | tagst => exact h.execTagst
  | pref => exact h.execPref
  | qcnt => exact h.execQcnt
  | ivlo | ivhi => exact h.ivExtreme
  | ivtest => exact h.execIvtest
  | nopl => exact h.execNopl
  | ltrap => exact h.execLtrap
  | lclk => exact h.execLclk
  | clauseFetch => exact h.execClauseFetch
  | clauseIssue => exact h.execClauseIssue
  | operationComplete => exact h.execOperationComplete
  | teamDispatch => exact h.execTeamDispatch
  | stealRequest => exact h.execStealRequest
  | stealAnswer => exact h.execStealAnswer
  | passGroupStart => exact h.execPassGroupStart
  | passInstructionLimit => exact h.execPassInstructionLimit
  | stageCounterRead | stageCounterPoll => exact h.readCounter
  | stageTeamSave => exact h.execStageTeamSave
  | kick => exact h.execKick
  | submissionSeqReread => exact h.execSubmissionSeqReread
  | hostRegisterWrite => exact h.execHostRegisterWrite
  | hostMemoryAccess => exact h.execHostMemoryAccess
  | invalidate => exact h.execInvalidate
  | invalidateCompletion => exact h.execInvalidateCompletion
  | preEmpt => exact h.execPreEmpt
  | cancel => exact h.execCancel
  | resumeContext => exact h.execResumeContext
  | faultResume | faultAbandon => exact h.answer fun _ _ ht => ht.serveRemote
  | contextSave => exact h.execContextSave
  | drainOverrun => exact h.execDrainOverrun
  | contextRestore => exact h.execContextRestore
  | trapRecordWrite => exact h.execTrapRecordWrite
  | watchdog => exact h.execWatchdog
  | remoteLost => exact h.execRemoteLost
  | linkFailure => exact h.execLinkFailure
  | linkRecovery => exact h.execLinkRecovery
  | fabricRecoveryLimit => exact h.execFabricRecoveryLimit
  | peerLossNotice => exact h.execPeerLossNotice
  | fabricRequest => exact h.serveRemote
  | pumpSector => exact h.execPumpSector
  | mloopStep => exact h.execMloopStep
  | barrierReturn => exact h.execBarrierReturn
  | siphonGateRead => exact h.collGo
  | siphonChunk => exact h.execSiphonChunk
  | siphonFaultNotice => exact h.execSiphonFaultNotice
  | siphonMemberDeadline => exact h.execSiphonMemberDeadline
  | loadSatisfy => exact h.execLoadSatisfy
  | writeMove => exact h.execWriteMove
  | writeHome => exact h.execWriteHome
  | recordApply => exact h.execRecordApply
  | epochCompare => exact h.execEpochCompare
  | softError => exact h.execSoftError
  | suspicionDecay => exact h.execSuspicionDecay
  | wellDrainTimeout => exact h.execWellDrainTimeout
  | unitTest => exact h.execUnitTest
  | reset => exact h.execReset
  | firmwareVerify => exact h.execFirmwareVerify
  | bringUp => exact h.execBringUp
  | powerCap => exact h.execPowerCap
  | thermalThrottle => exact h.execThermalThrottle
  | thermalHalt => exact h.execThermalHalt
  | illegalEncoding => exact h.execIllegalEncoding
  | scalarFetch => exact h.execScalarFetch
  | copyStart => exact h.execCopyStart
  | collectiveStart => exact h.execCollectiveStart
  | preEmptHoldEnd => exact h.execPreEmptHoldEnd
  | hostCompletion => exact h.execHostCompletion
  | fabwApply => exact h.execFabwApply

theorem runScalar {r : SplitRef} (h : s.Canonical) : Keeps (s.runScalar r) := by
  unfold State.runScalar
  split
  · trivial
  refine .ite h (.ite h ?_)
  split
  · exact exec h.same
  · split
    · exact exec h.usedLeaf.same
    · exact exec h.usedLeaf.same

theorem runLane {r : SplitRef} (h : s.Canonical) : Keeps (s.runLane r) := by
  unfold State.runLane
  split
  · exact trivial
  · exact exec h.same

theorem perform {a : Action} (h : s.Canonical) : Keeps (s.perform a) :=
  match a with
  | .scalar _ => h.runScalar
  | .lane _ => h.runLane
  | .event _ => .ite (exec h.same) trivial

theorem pass (h : s.Canonical) : s.pass.Canonical :=
  { h with teams := List.forall_mem_map.mpr fun t ht => (h.teams t ht).same }

theorem tick (h : s.Canonical) : s.tick.Canonical := h.pass.prefetch.drainDue.deal

theorem nextAction (h : s.Canonical) : s.nextAction.2.Canonical := by
  unfold State.nextAction
  split
  · exact h.same
  · exact h

theorem step (h : s.Canonical) : Keeps (step s) := by
  unfold Machine.step
  have hn := h.nextAction
  split
  next heq =>
    rw [heq] at hn
    exact hn.tick
  next a t heq =>
    rw [heq] at hn
    have hp : Keeps (t.perform a) := hn.perform
    split
    next hq =>
      rw [hq] at hp
      exact State.Canonical.tick hp
    all_goals trivial

end State.Canonical

/-- Settles O58: every function of the model that gives a state keeps the canonical form of the memories, so a step does. -/
theorem stepKeepsMemories : Obligations.StepKeepsMemories := by
  unfold Obligations.StepKeepsMemories
  intro s t hs ht
  rw [← State.canonical_iff] at hs ⊢
  have hstep : Keeps (step s) := hs.step
  rw [ht] at hstep
  exact hstep

end Sys2Proof.Machine

end

section

/-! O48: dispatch (R9, R205, R322, R328, R350) and stealing (R329). What the three events do is said once for each of their outcomes; what a
placed group holds follows from the fields of `freshGroup`, since placing changes its issue slot and program order only. -/

namespace Sys2Proof.Machine

/-! Cores and memories after a change. -/

theorem find?_upsert {α : Type} (key : α → Nat) (a : α) (l : List α) (x : Nat) :
    (upsert (fun b => key b == key a) a l).find? (fun b => key b == x) = if x = key a then some a else l.find? fun b => key b == x := by
  have hkey : (key a == x) = decide (x = key a) := by
    rw [Bool.eq_iff_iff, beq_iff_eq, decide_eq_true_iff]
    exact eq_comm
  induction l with
  | nil => by_cases h : x = key a <;> simp [upsert, hkey, h]
  | cons b l ih =>
    unfold upsert
    by_cases hb : key b = key a
    · rw [if_pos (by simpa using hb), List.find?_cons, List.find?_cons, hb, hkey]
      by_cases h : x = key a <;> simp [h]
    · rw [if_neg (by simpa using hb), List.find?_cons, List.find?_cons, ih]
      by_cases h : x = key a
      · simp [h, beq_eq_false_iff_ne.mpr hb]
      · simp [h]

@[simp] theorem State.core_id (s : State) (k : Nat) : (s.core k).id = k := by
  unfold State.core
  cases h : s.cores.find? fun c => c.id == k with
  | none => rfl
  | some c => simpa using List.find?_some h

theorem State.core_setCore (s : State) (c : Core) (k : Nat) : (s.setCore c).core k = if k = c.id then c else s.core k := by
  unfold State.core State.setCore
  rw [find?_upsert (fun c : Core => c.id) c s.cores k]
  split <;> rfl

@[simp] theorem State.core_modTeam (s : State) (id : Nat) (f : Team → Team) (k : Nat) : (s.modTeam id f).core k = s.core k := rfl

theorem SameBytes.of_eq {s t : State} (hm : t.mem = s.mem) (hv : t.views = s.views) : SameBytes s t := by
  simp [SameBytes, State.view, hm, hv]

/-! A group at its start (R9, R15, R47). -/

theorem wordAt_zero (x : DWord) : wordAt x.toNat 0 = x.truncate 32 := by
  apply BitVec.eq_of_toNat_eq
  simp [wordAt]

theorem wordAt_one (x : DWord) : wordAt x.toNat 1 = x.extractLsb' 32 32 := by
  apply BitVec.eq_of_toNat_eq
  simp [wordAt, Nat.shiftRight_eq_div_pow]

theorem argRegs_low (r : LaunchRec) (i : Fin 24) (h : i.val < 16) : (argRegs r)[i] = 0 := by
  simp [argRegs, h]

theorem argRegs_arg_low (r : LaunchRec) (j : Fin 4) : (argRegs r)[16 + 2 * j.val]? = some ((r.args[j]).truncate 32) := by
  have hj : 16 + 2 * j.val < 24 := by omega
  have harg : vget r.args j.val 0 = r.args[j] := by simp [vget]
  have hplace : ¬ 16 + 2 * j.val < 16 ∧ (16 + 2 * j.val - 16) / 2 = j.val ∧ (16 + 2 * j.val) % 2 = 0 := by omega
  rw [Vector.getElem?_eq_getElem hj, ← wordAt_zero, ← harg]
  simp only [argRegs, Vector.getElem_ofFn, hplace, if_false]

theorem argRegs_arg_high (r : LaunchRec) (j : Fin 4) : (argRegs r)[17 + 2 * j.val]? = some ((r.args[j]).extractLsb' 32 32) := by
  have hj : 17 + 2 * j.val < 24 := by omega
  have harg : vget r.args j.val 0 = r.args[j] := by simp [vget]
  have hplace : ¬ 17 + 2 * j.val < 16 ∧ (17 + 2 * j.val - 16) / 2 = j.val ∧ (17 + 2 * j.val) % 2 = 1 := by omega
  rw [Vector.getElem?_eq_getElem hj, ← wordAt_one, ← harg]
  simp only [argRegs, Vector.getElem_ofFn, hplace, if_false]

theorem elementGroup_plain (r : LaunchRec) (t : Team) (gid uid : Nat) (live : Mask) (h : r.bpass = false) :
    elementGroup r t gid uid live = freshGroup r t gid uid r.vregs r.heldLanes live := by
  simp [elementGroup, h]

section
variable (r : LaunchRec) (t : Team) (gid uid : Nat) (live : Mask)

theorem elementGroup_held : (elementGroup r t gid uid live).held = r.heldLanes := by
  unfold elementGroup
  dsimp only
  split <;> rfl

theorem elementGroup_gid : (elementGroup r t gid uid live).gid = gid := by
  unfold elementGroup
  dsimp only
  split <;> rfl

/-- Split 0 of a group at its start. -/
def firstSplit : Split :=
  { sid := uid, set := firstSet uid (r.entryOf t.stage) live, stack := [], overflow := [], status := .running }

theorem elementGroup_splits : (elementGroup r t gid uid live).splits = (freshGroup r t gid uid r.vregs r.heldLanes live).splits := by
  unfold elementGroup
  dsimp only
  split <;> rfl

theorem elementGroup_ended : (elementGroup r t gid uid live).ended = decide (live = 0) := by
  unfold elementGroup
  dsimp only
  split <;> rfl

theorem elementGroup_split?_zero (h : live ≠ 0) : (elementGroup r t gid uid live).split? 0 = some (firstSplit r t uid live) := by
  unfold Group.split?
  rw [elementGroup_splits]
  unfold freshGroup
  rw [if_neg h]
  simp [firstSplit]

theorem elementGroup_split?_of_ne_zero (k : Fin 4) (hk : k ≠ 0) (h : live ≠ 0) : (elementGroup r t gid uid live).split? k = none := by
  unfold Group.split?
  rw [elementGroup_splits]
  unfold freshGroup
  rw [if_neg h]
  simp [hk]
end

theorem firstGroups_getElem? {r : LaunchRec} {t : Team} {uid k : Nat} {g : Group} (h : (firstGroups r t uid)[k]? = some g) :
    g = elementGroup r t k (uid + k) r.heldLanes := by
  obtain ⟨n, hn, rfl⟩ : ∃ n, (List.range r.groups)[k]? = some n ∧ elementGroup r t n (uid + n) r.heldLanes = g := by
    simpa [firstGroups] using h
  obtain ⟨-, rfl⟩ := List.getElem?_eq_some_iff.mp hn
  simp

/-! Placing groups on a core (R311, R328). -/

/-- A group bound to an issue slot, behind the read of its stage's counter. -/
def Group.placed (g : Group) (slot : Fin 4) (after : List Nat) : Group :=
  { g with slot := slot, splits := g.splits.map fun p => p.map fun p => p.modSet fun e => { e with past := after } }

section
variable (g : Group) (slot : Fin 4) (after : List Nat)
@[simp] theorem Group.placed_s : (g.placed slot after).s = g.s := rfl
@[simp] theorem Group.placed_v : (g.placed slot after).v = g.v := rfl
@[simp] theorem Group.placed_qbud : (g.placed slot after).qbud = g.qbud := rfl
@[simp] theorem Group.placed_rmode : (g.placed slot after).rmode = g.rmode := rfl
@[simp] theorem Group.placed_ftzm : (g.placed slot after).ftzm = g.ftzm := rfl
end

theorem Group.split?_placed (g : Group) (slot : Fin 4) (after : List Nat) (k : Fin 4) :
    (g.placed slot after).split? k = (g.split? k).map fun p => p.modSet fun e => { e with past := after } := by
  simp [Group.split?, Group.placed]

theorem bindSlots_length (counts : List Nat) (gs : List Group) : (bindSlots counts gs).length = gs.length := by
  induction gs generalizing counts with
  | nil => rfl
  | cons g gs ih => simp [bindSlots, ih]

/-- Binding slots keeps the order of the groups and changes their slots only. -/
theorem bindSlots_getElem? {counts : List Nat} {gs : List Group} {k : Nat} {h : Group} (hk : (bindSlots counts gs)[k]? = some h) :
    ∃ g slot, gs[k]? = some g ∧ h = { g with slot := slot } := by
  induction gs generalizing counts k with
  | nil => simp [bindSlots] at hk
  | cons g gs ih =>
    cases k with
    | zero => exact ⟨g, _, rfl, by simpa [bindSlots] using hk.symm⟩
    | succ k => exact ih (by simpa [bindSlots] using hk)

/-- The groups that a team has once they are placed on its core. -/
def State.placedGroups (s : State) (t : Team) (l : Launch) (gs : List Group) : List Group :=
  (bindSlots (s.slotCounts t.core) gs).map fun g => g.placed g.slot (match l.stages[t.stage]? with | some st => st.after | none => [])

theorem State.placeGroups_eq (s : State) (t : Team) (l : Launch) (gs : List Group) :
    s.placeGroups t l gs = ({ s with fresh := s.fresh + (s.placedGroups t l gs).length } : State).modTeam t.id
      fun u => { u with groups := s.placedGroups t l gs } := rfl

theorem State.placedGroups_length (s : State) (t : Team) (l : Launch) (gs : List Group) : (s.placedGroups t l gs).length = gs.length := by
  simp [State.placedGroups, bindSlots_length]

theorem State.placedGroups_getElem? {s : State} {t : Team} {l : Launch} {gs : List Group} {k : Nat} {h : Group}
    (hk : (s.placedGroups t l gs)[k]? = some h) : ∃ g slot after, gs[k]? = some g ∧ h = g.placed slot after := by
  rw [State.placedGroups, List.getElem?_map] at hk
  obtain ⟨b, hb, rfl⟩ := Option.map_eq_some_iff.mp hk
  obtain ⟨g, slot, hg, rfl⟩ := bindSlots_getElem? hb
  exact ⟨g, slot, _, hg, rfl⟩

theorem State.team?_placeGroups {s : State} {t u : Team} {l : Launch} {gs : List Group} (hu : s.team? t.id = some u) :
    (s.placeGroups t l gs).team? t.id = some { u with groups := s.placedGroups t l gs } := by
  rw [State.placeGroups_eq, State.team?_modTeam _ _ _ _ fun _ => by rfl]
  have hu' : ({ s with fresh := s.fresh + (s.placedGroups t l gs).length } : State).team? t.id = some u := hu
  simp [hu']

/-- What a dispatched team's group holds outside BPASS: its registers and rounding modes at their start, and split 0 with its held lanes at the
entry point. -/
theorem firstGroup_fields (r : LaunchRec) (t : Team) (gid uid : Nat) (slot : Fin 4) (after : List Nat) (hb : r.bpass = false) :
    let g := (elementGroup r t gid uid r.heldLanes).placed slot after
    g.gid = gid ∧ g.held = r.heldLanes ∧ g.v = List.replicate r.vregs VReg.zero ∧ g.rmode = r.rmode ∧ g.ftzm = r.ftzm ∧ g.qbud = r.qbud ∧
    (∀ i : Fin 24, i.val < 16 → g.s[i] = 0) ∧
    (∀ j : Fin 4, g.s[16 + 2 * j.val]? = some ((r.args[j]).truncate 32) ∧ g.s[17 + 2 * j.val]? = some ((r.args[j]).extractLsb' 32 32)) ∧
    (r.heldLanes ≠ 0 → (∀ j : Fin 4, j ≠ 0 → g.split? j = none) ∧ ∃ p : Split, g.split? 0 = some p ∧ p.set.own = r.heldLanes ∧
      p.set.exec = r.heldLanes ∧ p.set.pc = r.entryOf t.stage ∧ p.stack = [] ∧ p.status = .running) := by
  intro g
  have hplain := elementGroup_plain r t gid uid r.heldLanes hb
  have hargs : g.s = argRegs r := by
    rw [Group.placed_s, hplain]
    rfl
  refine ⟨elementGroup_gid .., elementGroup_held .., ?_, ?_, ?_, ?_, fun i hi => ?_, fun j => ?_, fun hlive => ⟨fun j hj => ?_, ?_⟩⟩
  · rw [Group.placed_v, hplain]
    rfl
  · rw [Group.placed_rmode, hplain]
    rfl
  · rw [Group.placed_ftzm, hplain]
    rfl
  · rw [Group.placed_qbud, hplain]
    rfl
  · rw [hargs]
    exact argRegs_low r i hi
  · rw [hargs]
    exact ⟨argRegs_arg_low r j, argRegs_arg_high r j⟩
  · rw [Group.split?_placed, elementGroup_split?_of_ne_zero _ _ _ _ _ j hj hlive, Option.map_none]
  · rw [Group.split?_placed, elementGroup_split?_zero _ _ _ _ _ hlive]
    exact ⟨_, rfl, rfl, rfl, rfl, rfl, rfl⟩

/-! A queued team becomes resident (R328, R350). -/

theorem State.freeSlot_spec {s : State} {asid size area : Nat} (h : s.freeSlot asid size = some area) :
    area % 65536 = 0 ∧ area + size ≤ 2 ^ 20 * (s.asid asid).cpsize.toNat := by
  unfold State.freeSlot at h
  dsimp only at h
  have hmem := List.mem_of_find?_eq_some h
  have hfits := List.find?_some h
  obtain ⟨n, -, rfl⟩ := List.mem_map.mp hmem
  simp only [Bool.and_eq_true, decide_eq_true_eq] at hfits
  have hsize := hfits.1
  omega

theorem State.roomOn_groups {s : State} {core : Nat} {r : LaunchRec} (h : s.roomOn core r = true) : (s.usedOn core).1 + r.groups ≤ 64 := by
  simp only [State.roomOn, Bool.and_eq_true, decide_eq_true_eq] at h
  exact h.1.1.1

theorem State.readyHere_iff (s : State) (l : Launch) (t : Team) : s.readyHere l t = true ↔
    t.state = .queued ∧ s.halted.contains l.asid = false ∧ s.coreOpen t.core l.asid = true ∧ s.roomOn t.core l.record = true ∧
      s.orderFree l t = true ∧ s.savedFirst l t.core = false := by
  simp only [State.readyHere, Bool.and_eq_true, beq_iff_eq, Bool.not_eq_true', and_assoc]

theorem State.readyHere_eq_false {s : State} {l : Launch} {t : Team} (h : s.coreOpen t.core l.asid = false ∨ s.roomOn t.core l.record = false ∨
    s.orderFree l t = false ∨ s.savedFirst l t.core = true) : s.readyHere l t = false := by
  rcases h with h | h | h | h <;> simp [State.readyHere, h]

theorem State.goesFirst_of_higher {s : State} {l k : Launch} {t x : Team} (hx : x ∈ s.teams) (hk : s.launchOf x = some k) (hid : x.id ≠ t.id)
    (hcore : x.core = t.core) (hprio : l.record.prioOf t.stage < k.record.prioOf x.stage) (hready : s.readyHere k x = true) :
    s.goesFirst l t = true := by
  refine List.any_eq_true.mpr ⟨x, hx, ?_⟩
  simp [hk, hid, hcore, hprio, hready]

/-- A queued team with its slot and whether it has passes, before it has groups. -/
def State.resident (s : State) (t : Team) (l : Launch) (area : Nat) (pass : Option PassState) : Team :=
  { t with state := .resident, again := false, area := some area, tiles := List.replicate l.record.tiles [], since := s.cycleOf t.core, pass := pass }

/-- A team replaced, and gone from the queue of its core. -/
def State.seatTeam (s : State) (t : Team) : State :=
  ({ s with teams := s.teams.map fun u => if u.id == t.id then t else u } : State).setCore
    { s.core t.core with queue := (s.core t.core).queue.filter fun id => id != t.id }

theorem State.team?_seatTeam {s : State} {t u : Team} (h : s.team? t.id = some u) : (s.seatTeam t).team? t.id = some t := by
  have hmap : (s.teams.map fun u => if u.id == t.id then t else u) = s.teams.map fun u => if u.id == t.id then { t with id := u.id } else u :=
    List.map_congr_left fun u _ => by
      by_cases hu : u.id = t.id
      · simp [hu]
      · simp [hu]
  have hmod : (s.seatTeam t).team? t.id = (s.modTeam t.id fun u => { t with id := u.id }).team? t.id :=
    congrArg (fun ts : List Team => ts.find? fun u : Team => u.id == t.id) hmap
  rw [hmod, State.team?_modTeam _ _ _ _ fun _ => by rfl, h]
  simp [s.team?_id _ _ h]

theorem State.core_seatTeam (s : State) (t : Team) :
    (s.seatTeam t).core t.core = { s.core t.core with queue := (s.core t.core).queue.filter fun id => id != t.id } := by
  rw [State.seatTeam, State.core_setCore, if_pos (by simp)]

theorem State.makeResident_eq (s : State) (t : Team) (l : Launch) (area : Nat) : ∃ pass : Option PassState, s.makeResident t l area =
    if l.record.bpass then s.seatTeam (s.resident t l area pass)
    else (s.seatTeam (s.resident t l area pass)).placeGroups (s.resident t l area pass) l (firstGroups l.record (s.resident t l area pass) s.fresh) :=
  ⟨_, rfl⟩

section
variable {s : State} {team : Nat} {t : Team} {l : Launch} (area : Nat)

theorem State.makeResident_sameBytes : SameBytes s (s.makeResident t l area) := by
  obtain ⟨pass, h⟩ := s.makeResident_eq t l area
  rw [h]
  split <;> exact .of_eq rfl rfl

theorem State.makeResident_core : (s.makeResident t l area).core t.core =
    { s.core t.core with queue := (s.core t.core).queue.filter fun id => id != t.id } := by
  obtain ⟨pass, h⟩ := s.makeResident_eq t l area
  rw [h]
  split <;> exact s.core_seatTeam (s.resident t l area pass)

/-- The team as it stands on its core: its groups, outside BPASS, are its element groups, each placed. -/
theorem State.makeResident_team? (ht : s.team? t.id = some t) : ∃ (pass : Option PassState) (gs : List Group),
    (s.makeResident t l area).team? t.id = some { s.resident t l area pass with groups := gs } ∧
    (l.record.bpass = false → gs.length = l.record.groups ∧ ∀ (k : Nat) (g : Group), gs[k]? = some g →
      ∃ uid slot after, g = (elementGroup l.record t k uid l.record.heldLanes).placed slot after) := by
  obtain ⟨pass, h⟩ := s.makeResident_eq t l area
  have hseat : (s.seatTeam (s.resident t l area pass)).team? t.id = some (s.resident t l area pass) := State.team?_seatTeam ht
  cases hb : l.record.bpass with
  | true =>
    rw [hb, if_pos rfl] at h
    exact ⟨pass, t.groups, h ▸ hseat, nofun⟩
  | false =>
    rw [hb, if_neg nofun] at h
    refine ⟨pass, _, h ▸ State.team?_placeGroups hseat, fun _ => ⟨?_, fun k g hg => ?_⟩⟩
    · rw [State.placedGroups_length, firstGroups, List.length_map, List.length_range]
    · obtain ⟨e, slot, after, he, rfl⟩ := State.placedGroups_getElem? hg
      exact ⟨s.fresh + k, slot, after, firstGroups_getElem? he ▸ rfl⟩

theorem teamDispatch_stays (ht : s.team? team = some t) (hl : s.launchOf t = some l) (hq : t.state = .queued)
    (h : s.readyHere l t = false ∨ s.goesFirst l t = true) : exec (.teamDispatch team) s = .next s := by
  show execTeamDispatch team s = _
  simp only [execTeamDispatch, ht, hl, hq]
  rcases h with h | h <;> simp [h]

theorem teamDispatch_stageClosed (ht : s.team? team = some t) (hl : s.launchOf t = some l) (hq : t.state = .queued)
    (h : s.stageOpen l t.stage 0 = .ok false) : exec (.teamDispatch team) s = .next s := by
  show execTeamDispatch team s = _
  simp [execTeamDispatch, ht, hl, hq, h]

theorem teamDispatch_noSlot (ht : s.team? team = some t) (hl : s.launchOf t = some l) (hq : t.state = .queued)
    (h : s.freeSlot l.asid l.record.areaSize = none) :
    exec (.teamDispatch team) s = .next s ∨ ∃ u, s.stageOpen l t.stage 0 = .error u ∧ exec (.teamDispatch team) s = .next u := by
  show execTeamDispatch team s = _ ∨ ∃ u, _ ∧ execTeamDispatch team s = _
  simp only [execTeamDispatch, ht, hl, hq, h]
  split
  · exact .inl rfl
  · split
    · exact .inl rfl
    · cases hopen : s.stageOpen l t.stage 0 with
      | error u => exact .inr ⟨u, rfl, rfl⟩
      | ok b => cases b <;> exact .inl rfl

theorem teamDispatch_admits {area : Nat} (ht : s.team? team = some t) (hl : s.launchOf t = some l) (hready : s.readyHere l t = true)
    (hfirst : s.goesFirst l t = false) (hopen : s.stageOpen l t.stage 0 = .ok true)
    (hslot : s.freeSlot l.asid l.record.areaSize = some area) :
    exec (.teamDispatch team) s = .next ((s.makeResident t l area).deal dealFuel) := by
  show execTeamDispatch team s = _
  obtain ⟨hq, hhalt, -⟩ := (s.readyHere_iff l t).mp hready
  simp [execTeamDispatch, ht, hl, hq, hhalt, hready, hfirst, hopen, hslot, -List.contains_eq_mem]

/-! A team whose bounds pass is over is released (R205). -/

/-- The lanes that the passes leave a group: its held lanes that some judged sub-tile other than a skipped one holds. -/
def releasedLanes (r : LaunchRec) (p : PassState) (gid : Nat) : Mask :=
  Mask.gen fun i => r.heldLanes.has i && ((p.leaves gid r.depth).filter fun j => j.2.2 != 1).any fun j => j.2.1.holds r gid i

theorem releasedLanes_has (r : LaunchRec) (p : PassState) (gid : Nat) (i : Fin 32) : (releasedLanes r p gid).has i = true ↔
    r.heldLanes.has i = true ∧ ∃ j ∈ p.leaves gid r.depth, j.2.2 ≠ 1 ∧ j.2.1.holds r gid i = true := by
  rw [releasedLanes, Mask.has_gen]
  simp only [Bool.and_eq_true, List.any_eq_true, List.mem_filter, bne_iff_ne, and_assoc]

theorem releasedGroup_eq (r : LaunchRec) (t : Team) (p : PassState) (gid uid : Nat) : ∃ outcome level,
    releasedGroup r t p gid uid = { elementGroup r t gid uid (releasedLanes r p gid) with outcome := outcome, level := level } :=
  ⟨_, _, rfl⟩

/-- The groups that a release gives a team: those that have something to run. -/
def releasedGroups (r : LaunchRec) (t : Team) (p : PassState) (uid : Nat) : List Group :=
  ((List.range r.groups).map fun g => releasedGroup r t p g (uid + g)).filter fun g => !g.ended

theorem mem_releasedGroups {r : LaunchRec} {t : Team} {p : PassState} {uid : Nat} {g : Group} (h : g ∈ releasedGroups r t p uid) :
    g.gid < r.groups ∧ g.ended = false ∧ g.held = r.heldLanes ∧ ∀ q, g.split? 0 = some q → q.set.own = releasedLanes r p g.gid := by
  obtain ⟨hmem, hended⟩ := List.mem_filter.mp h
  obtain ⟨gid, hgid, rfl⟩ := List.mem_map.mp hmem
  obtain ⟨outcome, level, he⟩ := releasedGroup_eq r t p gid (uid + gid)
  rw [he] at hended ⊢
  have hrun : (elementGroup r t gid (uid + gid) (releasedLanes r p gid)).ended = false := by simpa using hended
  have hlive : releasedLanes r p gid ≠ 0 := by simpa [elementGroup_ended] using hrun
  refine ⟨?_, hrun, elementGroup_held .., fun q hq => ?_⟩
  · exact (elementGroup_gid ..).symm ▸ List.mem_range.mp hgid
  · have hq' : some (firstSplit r t (uid + gid) (releasedLanes r p gid)) = some q := (elementGroup_split?_zero _ _ _ _ _ hlive) ▸ hq
    cases hq'
    exact congrArg (releasedLanes r p) (elementGroup_gid ..).symm

/-- A team that has its element groups has its passes marked as over. -/
def State.passesOver (s : State) (team : Nat) : State :=
  s.modTeam team fun t => { t with pass := t.pass.map fun p => { p with released := true } }

theorem State.release_eq (s : State) (t : Team) (l : Launch) (p : PassState) : s.release t l p =
    { (s.passesOver t.id).placeGroups t l (releasedGroups l.record t p s.fresh) with
      fresh := ((s.passesOver t.id).placeGroups t l (releasedGroups l.record t p s.fresh)).fresh + l.record.groups } := rfl

theorem State.release_team? {p : PassState} (ht : s.team? t.id = some t) (hp : t.pass = some p) : (s.release t l p).team? t.id =
    some { t with pass := some { p with released := true }
                  groups := (s.passesOver t.id).placedGroups t l (releasedGroups l.record t p s.fresh) } := by
  have hover : (s.passesOver t.id).team? t.id = some { t with pass := some { p with released := true } } := by
    rw [State.passesOver, State.team?_modTeam _ _ _ _ fun _ => by rfl, ht]
    simp [hp]
  exact State.team?_placeGroups hover

theorem teamDispatch_releases {p : PassState} (ht : s.team? team = some t) (hl : s.launchOf t = some l)
    (hhalt : s.halted.contains l.asid = false) (hr : t.state = .resident) (hp : t.pass = some p) (hrel : p.released = false)
    (hmap : p.mapDone = true) (hsave : t.saving = false)
    (hdone : ∀ id ∈ p.mapOps, ∀ o, s.op? id = some o → o.opPerformed .device = true) :
    exec (.teamDispatch team) s = .next (s.release t l p) := by
  show execTeamDispatch team s = _
  simp only [execTeamDispatch, ht, hl, hhalt, hr, hp, hrel, hmap, hsave, Bool.false_eq_true, if_false]
  refine if_neg fun hstop => ?_
  simp only [Bool.false_or, Bool.not_true, Bool.or_false, Bool.not_eq_true', List.all_eq_false] at hstop
  obtain ⟨id, hid, h⟩ := hstop
  split at h
  next o ho => exact h (hdone id hid o ho)
  next => exact h rfl
end

/-! Stealing (R329). -/

section
variable {s : State} {thief victim : Nat}

theorem stealRequest_asks (hne : thief ≠ victim) (hidle : s.idles thief = true) (hasked : (s.core thief).asked = none) (ht : thief < 384)
    (hv : victim < 384) (hin : s.inService (.core victim) = true) (hdie : dieOf victim = stealDie thief (s.core thief).fails) :
    exec (.stealRequest thief victim) s = .next (s.setCore { s.core thief with asked := some victim }) := by
  show execStealRequest thief victim s = _
  simp [execStealRequest, hne, hidle, hasked, Nat.not_le.mpr ht, Nat.not_le.mpr hv, hin, hdie]

theorem stealRequest_busy (hidle : s.idles thief = false) : exec (.stealRequest thief victim) s = .next s := by
  show execStealRequest thief victim s = _
  simp [execStealRequest, hidle]

/-- A team in the victim's queue that the thief may hold. -/
def State.stealable (s : State) (thief id : Nat) : Bool :=
  (s.core thief).queue.length < 8 && match s.team? id with | some t => s.mayGive t thief | none => false

theorem State.stealable_eq_false {id : Nat} (h : 8 ≤ (s.core thief).queue.length ∨ ∀ t, s.team? id = some t → s.mayGive t thief = false) :
    s.stealable thief id = false := by
  unfold State.stealable
  rcases h with h | h
  · simp [Nat.not_lt.mpr h]
  · split
    next t ht => simp [h t ht]
    next => simp

theorem State.stealable_of_mayGive {id : Nat} {t : Team} (hroom : (s.core thief).queue.length < 8) (ht : s.team? id = some t)
    (h : s.mayGive t thief = true) : s.stealable thief id = true := by
  simp [State.stealable, hroom, ht, h]

theorem stealAnswer_fails (hasked : (s.core thief).asked = some victim) (h : ∀ id ∈ (s.core victim).queue, s.stealable thief id = false) :
    exec (.stealAnswer thief) s = .next (s.setCore { s.core thief with asked := none, fails := (s.core thief).fails + 1 }) := by
  have hnone : (s.core victim).queue.reverse.find? (s.stealable thief) = none :=
    List.find?_eq_none.mpr fun id hid => by simp [h id (List.mem_reverse.mp hid)]
  show execStealAnswer thief s = _
  simp only [execStealAnswer, hasked]
  split
  next => rfl
  next id hid => exact absurd (hnone.symm.trans hid) nofun

/-- A team taken from the victim's queue to the end of the thief's. -/
def State.stolen (s : State) (thief victim id : Nat) : State :=
  ((s.setCore { s.core victim with queue := (s.core victim).queue.filter fun x => x != id }).setCore
    { s.core thief with asked := none, fails := 0, queue := (s.core thief).queue ++ [id] }).modTeam id fun t => { t with core := thief }

theorem stealAnswer_gives {pre post : List Nat} {id : Nat} (hasked : (s.core thief).asked = some victim)
    (hq : (s.core victim).queue = pre ++ id :: post) (hid : s.stealable thief id = true) (hpost : ∀ x ∈ post, s.stealable thief x = false) :
    exec (.stealAnswer thief) s = .next ((s.stolen thief victim id).deal dealFuel) := by
  have hsome : (s.core victim).queue.reverse.find? (s.stealable thief) = some id := by
    have hnone : post.reverse.find? (s.stealable thief) = none :=
      List.find?_eq_none.mpr fun x hx => by simp [hpost x (List.mem_reverse.mp hx)]
    simp [hq, List.find?_append, hnone, hid]
  show execStealAnswer thief s = _
  simp only [execStealAnswer, hasked]
  split
  next hnone => exact absurd (hsome.symm.trans hnone) nofun
  next id' hid' =>
    cases hsome.symm.trans hid'
    rfl

theorem State.stolen_team? (id x : Nat) :
    (s.stolen thief victim id).team? x = (s.team? x).map fun t => if x = id then { t with core := thief } else t := by
  rw [State.stolen, State.team?_modTeam _ _ _ _ fun _ => by rfl]
  rfl

theorem State.stolen_core_thief (id : Nat) : (s.stolen thief victim id).core thief =
    { s.core thief with asked := none, fails := 0, queue := (s.core thief).queue ++ [id] } := by
  simp [State.stolen, State.core_setCore]

theorem State.stolen_core_victim (hne : thief ≠ victim) (id : Nat) : (s.stolen thief victim id).core victim =
    { s.core victim with queue := (s.core victim).queue.filter fun x => x != id } := by
  simp [State.stolen, State.core_setCore, hne.symm]
end

/-- Settles O48: the outcomes of a dispatch, of a request and of an answer, with the fields of the teams, groups and cores they leave. -/
theorem teamsDispatchedAndStolen : Obligations.TeamsDispatchedAndStolen := by
  unfold Obligations.TeamsDispatchedAndStolen
  refine ⟨fun s team t l ht hl hhalt => ⟨?admits, ?stays, ?releases⟩, fun s thief victim hne => ⟨?asks, stealRequest_busy, fun hasked => ⟨?fails, ?gives⟩⟩⟩
  case admits =>
    intro area hq hcore hroom horder hsaved hfirst hopen hslot
    obtain rfl : t.id = team := s.team?_id team t ht
    have hready : s.readyHere l t = true := (s.readyHere_iff l t).mpr ⟨hq, hhalt, hcore, hroom, horder, hsaved⟩
    obtain ⟨haligned, hpool⟩ := State.freeSlot_spec hslot
    obtain ⟨pass, gs, hteam, hgroups⟩ := State.makeResident_team? (l := l) area ht
    refine ⟨teamDispatch_admits ht hl hready hfirst hopen hslot, State.makeResident_sameBytes area, haligned, hpool, State.roomOn_groups hroom,
      fun id => ?_, _, hteam, rfl, rfl, rfl, rfl, rfl, fun hb => ⟨(hgroups hb).1, fun k g hg => ?_⟩⟩
    · simp [State.makeResident_core]
    · obtain ⟨uid, slot, after, rfl⟩ := (hgroups hb).2 k g hg
      exact firstGroup_fields l.record t k uid slot after hb
  case stays =>
    rintro hq (h | h | h | h | h | h | ⟨x, hx, k, hk, hid, hcore, hprio, hready⟩)
    · exact .inl (teamDispatch_stays ht hl hq (.inl (State.readyHere_eq_false (.inl h))))
    · exact .inl (teamDispatch_stays ht hl hq (.inl (State.readyHere_eq_false (.inr (.inl h)))))
    · exact .inl (teamDispatch_stays ht hl hq (.inl (State.readyHere_eq_false (.inr (.inr (.inl h))))))
    · exact .inl (teamDispatch_stays ht hl hq (.inl (State.readyHere_eq_false (.inr (.inr (.inr h))))))
    · exact .inl (teamDispatch_stageClosed ht hl hq h)
    · exact teamDispatch_noSlot ht hl hq h
    · exact .inl (teamDispatch_stays ht hl hq (.inr (State.goesFirst_of_higher hx hk hid hcore hprio hready)))
  case releases =>
    intro p hr hp hrel hmap hsave hdone
    obtain rfl : t.id = team := s.team?_id team t ht
    refine ⟨_, teamDispatch_releases ht hl hhalt hr hp hrel hmap hsave hdone, .of_eq rfl rfl, _, State.release_team? ht hp, rfl, fun g hg => ?_⟩
    obtain ⟨k, hk⟩ := List.mem_iff_getElem?.mp hg
    obtain ⟨e, slot, after, he, rfl⟩ := State.placedGroups_getElem? hk
    obtain ⟨hgid, hended, hheld, hown⟩ := mem_releasedGroups (List.mem_of_getElem? he)
    refine ⟨hgid, hended, hheld, fun q hq i => ?_⟩
    rw [Group.split?_placed] at hq
    obtain ⟨first, hfirst, rfl⟩ := Option.map_eq_some_iff.mp hq
    exact (hown first hfirst) ▸ releasedLanes_has l.record p e.gid i
  case asks =>
    intro hidle hasked ht hv hin hdie
    refine ⟨_, stealRequest_asks hne hidle hasked ht hv hin hdie, ?_, rfl, fun k hk => ?_⟩
    · simp [State.core_setCore]
    · simp [State.core_setCore, hk]
  case fails =>
    intro h
    refine ⟨_, stealAnswer_fails hasked fun id hid => State.stealable_eq_false (h.imp_right fun h => h id hid), rfl, ?_⟩
    simp [State.core_setCore]
  case gives =>
    intro pre id post t hroom hq ht hgive hpost
    refine ⟨_, stealAnswer_gives hasked hq (State.stealable_of_mayGive hroom ht hgive) fun x hx => State.stealable_eq_false (.inr (hpost x hx)),
      ?_, fun x hx => ?_, State.stolen_core_thief id, State.stolen_core_victim hne id⟩
    · simp [State.stolen_team?, ht]
    · simp [State.stolen_team?, hx]

end Sys2Proof.Machine

end
